-- ==== Sys2Proof/Word.lean ====
section
/-! DEFINITION. The bit-vector types the manual's registers, payloads and bytes are made of (00_scope.md, Bits and bytes).
Nothing here chooses a meaning; the field helpers that a test could show wrong stand in Machine/Ops.lean. -/

namespace Sys2Proof

/-- One byte: of a frame, of an image, of a ring entry, of SRAM or HBM. -/
abbrev Byte := BitVec 8

/-- A BAR0 register: R563, R564 (4-byte accesses). -/
abbrev Word := BitVec 32

/-- A token payload, a general register g0-g31, a doorbell (R97, R140, R433). -/
abbrev DWord := BitVec 64

/-- An operation word of a store entry (R106). -/
abbrev OpWord := BitVec 128

/-- A string of bytes, the first byte at the lowest address or first on the wire. -/
abbrev Bytes := List Byte

end Sys2Proof
end

