-- ==== Sys2Proof/Syntax.lean ====
section
/-! DEFINITION. The commands of the block: one constructor of Instr for every row of spec/opcode_table.json, in the table's
order, with the operands the rules of spec/ give it. A command is something that happens to the adapter: a command the
command engine takes, a write or a doorbell, a frame, a timer that runs out, a fault. -/

namespace Sys2Proof

/-- The ring a command is taken from (R459): the administration ring, or instance n's command ring. -/
inductive CmdRing where
  | admin
  | inst (n : Nat)
  deriving DecidableEq, Repr

/-- A command descriptor as the engine reads it (R458), with what it reads through BUF_ADDR, and for LOAD and ARM_CREATE the
bytes of the image or plan that the command names. The opcode is the constructor that carries the descriptor. -/
structure Cmd where
  /-- bytes 0x01-0x03 and 0x14-0x17, reserved (R4, R5) -/
  reserved : BitVec 56 := 0
  tag : BitVec 32 := 0
  bufAddr : BitVec 64 := 0
  bufLen : Nat := 0
  /-- the 40 bytes of ARGS; a missing byte reads zero -/
  args : Bytes := []
  /-- what the adapter reads at BUF_ADDR, where the command reads it -/
  buf : Bytes := []
  /-- an OPCODE that the table of R461 does not list, in place of the one of the constructor: every row's descriptor may carry one -/
  unlisted : Option Nat := none
  /-- the image (R219, as admission reads it) or the plan (R294), where the command names one -/
  ext : Bytes := []
  deriving DecidableEq, Repr

/-- A doorbell (R433) without its KIND, which the constructor carries. -/
structure Doorbell where
  /-- an 8-byte write at an 8-byte-aligned offset with every byte enabled -/
  aligned : Bool := true
  arm : Bool := false
  /-- bits [58:50] -/
  reserved : BitVec 9 := 0
  number : BitVec 18 := 0
  index : BitVec 32 := 0
  deriving DecidableEq, Repr

/-- What starts a function reset (R539). -/
inductive ResetCause where
  | register
  | flr0
  | flr1
  deriving DecidableEq, Repr

/-- The checks whose result CHECK_RESULT makes known (R79, R82, R83). -/
inductive CheckKind where
  | fcs
  | crc
  | tag
  deriving DecidableEq, Repr

/-- The functions of R542 that report READY. -/
inductive Func where
  | mgmt
  | flt
  | tst
  | tim
  | port (p : Nat)
  | shp
  | wgt
  | ins
  /-- with the clusters that fail their self-test (R543) -/
  | arr (failed : List Nat)
  | shf
  | arm
  deriving DecidableEq, Repr

/-- The clock domains with a standby PLL (R521) and the compute-die PLLs (R27). -/
inductive PllDomain where
  | core (die : Nat)
  | fab
  | time
  | mgmt
  | hbm
  deriving DecidableEq, Repr

/-- A memory word under the memory code (R514, R515). -/
inductive MemLoc where
  /-- core or cluster SRAM: the shelf whose access met it, and the byte address in the SRAM -/
  | coreSram (core shelf addr : Nat)
  | clusterSram (cluster shelf addr : Nat)
  /-- HBM: a region, an offset in it, and the unit whose streamed weights, spill or retention it is, if any -/
  | hbm (stack pc region offset : Nat) (unit : Option Nat)
  /-- receive, reply, entry or bundle buffer of a port -/
  | buffer (port : Nat)
  deriving DecidableEq, Repr

/-- The read that a PCIe completion concerns (R428). -/
inductive ReadFor where
  /-- the descriptor or the payload of a queue pair's next send work request -/
  | workRequest (qp : Nat)
  /-- a command's descriptor, with the OPCODE that it holds, or its buffer -/
  | command (ring : CmdRing) (tag : BitVec 32) (opcode : Nat)
  | message (id : Nat)
  /-- the frame of a raw transmit queue's next descriptor -/
  | rawTransmit (inst queue : Nat)
  /-- the data of the oldest READ that a queue pair serves -/
  | readData (qp : Nat)
  deriving DecidableEq, Repr

/-- What the line gives with a frame: its FCS (R367), and how many of its codewords were corrected and could not be (R358). -/
structure LineState where
  fcs : BitVec 32 := 0
  corrected : Nat := 0
  uncorrectable : Nat := 0
  deriving DecidableEq, Repr

/-- A direction of a port's link that enters or leaves low-power idle: the adapter's own, or with rx the peer's (R377, R393). -/
structure LpiSide where
  port : Nat
  rx : Bool := false
  deriving DecidableEq, Repr

/-- The shelves of a link word: that in whose queue its slot lies, and that which its SHELF bits show as it was received (R174). -/
structure WordShelf where
  queue : Nat
  tag : Nat
  deriving DecidableEq, Repr

/-- A channel of the fault manager: kind code of R517 and the CHANNEL number of R524. -/
structure Channel where
  kind : Nat
  num : Nat
  deriving DecidableEq, Repr

/-- A report to the witness (R455, R522, R523). -/
structure Report where
  /-- CODE of R455 -/
  code : Nat
  /-- the origin fields of R522, in the order that table gives them -/
  origin : List Nat
  /-- STATUS of R455 or R524 -/
  status : Nat := 0
  /-- CLASS of a FAULT event, or 0 -/
  cls : Nat := 0
  /-- CHANNEL of R524, or 0 -/
  chan : Nat := 0
  /-- the 32 DETAIL bytes, as (offset, size, value) -/
  detail : List (Nat × Nat × Nat) := []
  /-- the instances named as recipients beside the manager -/
  owners : List Nat := []
  /-- CHANNEL_KIND of R524, or 0 -/
  chanKind : Nat := 0
  deriving DecidableEq, Repr

/-- The PTP messages the time base sends (R401, R402). -/
inductive PtpKind where
  | sync
  | pdelayReq
  | pdelayResp
  | announce
  deriving DecidableEq, Repr

/-- The commands: one constructor for each row of the opcode table. -/
inductive Instr where
  -- shelf commands and the steps of a unit (R176-R216)
  | load (r : CmdRing) (d : Cmd)
  | loadVerifyDone (unit : Nat) (image : Bytes)
  | fire (r : CmdRing) (d : Cmd)
  | cool (r : CmdRing) (d : Cmd)
  | swap (r : CmdRing) (d : Cmd)
  | swapEntryPoint (unit : Nat)
  | shelfPatternSwitch (cluster : Nat)
  | query (r : CmdRing) (d : Cmd)
  | drainComplete (unit : Nat)
  | drainBoundExpire (unit : Nat)
  | scrubComplete (unit : Nat)
  | bindTable (r : CmdRing) (d : Cmd)
  | stats (r : CmdRing) (d : Cmd)
  | seqAttach (r : CmdRing) (d : Cmd)
  | seqDetach (r : CmdRing) (d : Cmd)
  | seqDetachDone (qp : Nat)
  -- queues, regions, queue pairs (R463-R471)
  | cqCreate (r : CmdRing) (d : Cmd)
  | cqModify (r : CmdRing) (d : Cmd)
  | cqDestroy (r : CmdRing) (d : Cmd)
  | ringCreate (r : CmdRing) (d : Cmd)
  | ringDestroy (r : CmdRing) (d : Cmd)
  | mrReg (r : CmdRing) (d : Cmd)
  | mrDereg (r : CmdRing) (d : Cmd)
  | qpCreate (r : CmdRing) (d : Cmd)
  | qpModifyRtr (r : CmdRing) (d : Cmd)
  | qpModifyRts (r : CmdRing) (d : Cmd)
  | qpModifyInRts (r : CmdRing) (d : Cmd)
  | qpModifyError (r : CmdRing) (d : Cmd)
  | qpModifyReset (r : CmdRing) (d : Cmd)
  | qpQuery (r : CmdRing) (d : Cmd)
  | qpDestroy (r : CmdRing) (d : Cmd)
  | shape (r : CmdRing) (d : Cmd)
  -- armature commands (R294-R298)
  | armCreate (r : CmdRing) (d : Cmd)
  | armStart (r : CmdRing) (d : Cmd)
  | armStop (r : CmdRing) (d : Cmd)
  | armDestroy (r : CmdRing) (d : Cmd)
  | armPromote (r : CmdRing) (d : Cmd)
  | armDemote (r : CmdRing) (d : Cmd)
  | armQuery (r : CmdRing) (d : Cmd)
  -- administration commands (R461, R476, R525)
  | portSplit (r : CmdRing) (d : Cmd)
  | gateCommit (r : CmdRing) (d : Cmd)
  | gateCommitCancel (r : CmdRing) (d : Cmd)
  | timeStep (r : CmdRing) (d : Cmd)
  | tlmSet (r : CmdRing) (d : Cmd)
  | insCreate (r : CmdRing) (d : Cmd)
  | insDestroy (r : CmdRing) (d : Cmd)
  | insReset (r : CmdRing) (d : Cmd)
  | insDrainBoundExpire (inst : Nat)
  | insResetComplete (inst : Nat)
  | insShare (r : CmdRing) (d : Cmd)
  | insClustersAdd (r : CmdRing) (d : Cmd)
  | insClustersRemove (r : CmdRing) (d : Cmd)
  | hbmRegionCreate (r : CmdRing) (d : Cmd)
  | hbmRegionRelease (r : CmdRing) (d : Cmd)
  | hbmScrubDone
  | insLogStart (r : CmdRing) (d : Cmd)
  | insLogSync (r : CmdRing) (d : Cmd)
  | insLogStop (r : CmdRing) (d : Cmd)
  | logSyncDone (inst link : Nat)
  | dirtyPageMark (inst link : Nat)
  | insQuery (r : CmdRing) (d : Cmd)
  | fltLog (r : CmdRing) (d : Cmd)
  | fltRetire (r : CmdRing) (d : Cmd)
  | fltReturn (r : CmdRing) (d : Cmd)
  | fltShift (r : CmdRing) (d : Cmd)
  | spareShiftApply (die column : Nat)
  | fltShiftBoundExpire
  | fltDieReturn (r : CmdRing) (d : Cmd)
  | dieReturnDone (die : Nat) (ok : Bool) (failed : List Nat)
  | fwWrite (r : CmdRing) (d : Cmd)
  | fwActivate (r : CmdRing) (d : Cmd)
  | fwStartTimeout
  | fwInfo (seq : Byte) (arg : BitVec 16)
  | uptime (seq : Byte) (arg : BitVec 16)
  | linkInfo (seq : Byte) (arg : BitVec 16)
  | lldpPeer (seq : Byte) (arg : BitVec 16)
  | mboxComplete
  -- BAR0 writes with a behaviour of their own
  | funcReset (cause : ResetCause)
  | adminEnable (v : Word)
  | timCapture (v : Word)
  | pwrLimitWrite (v : Word)
  | joinWdogWrite (v : Word)
  | streamPoolWrite (v : Word)
  | slewBoundWrite (v : Word)
  | timRoleApply
  | tsUserOffsetWrite (port : Nat) (tx : Bool) (v : Word)
  | calOffsetWrite (off : Nat) (v : Word)
  | pathModeApply (port : Nat) (tx : Bool)
  | filterWrite (port n : Nat) (v : Word)
  | shaperRateWrite (bucket : Nat) (rx : Bool) (v : Word)
  | tsSeedWrite (v : Word)
  | loopbackWrite (port : Nat) (v : Word)
  | registerWrite (off size : Nat) (allBytes : Bool) (v : DWord)
  -- doorbells (R433); of a ring of descriptors, with the descriptors the adapter then reads, 64 bytes each (R432)
  | sqDoorbell (page : Nat) (b : Doorbell) (descs : List Bytes)
  | rqDoorbell (page : Nat) (b : Doorbell) (descs : List Bytes)
  | cqDoorbell (page : Nat) (b : Doorbell)
  | cmdRingDoorbell (page : Nat) (b : Doorbell)
  | cmdCplDoorbell (page : Nat) (b : Doorbell)
  | eventRingDoorbell (page : Nat) (b : Doorbell)
  | rawTxDoorbell (page : Nat) (b : Doorbell) (descs : List Bytes)
  | rawRxDoorbell (page : Nat) (b : Doorbell) (descs : List Bytes)
  | tsRingDoorbell (page : Nat) (b : Doorbell)
  | steerRingDoorbell (page : Nat) (b : Doorbell)
  | adminRingDoorbell (page : Nat) (b : Doorbell)
  | adminCplDoorbell (page : Nat) (b : Doorbell)
  | tlmRingDoorbell (page : Nat) (b : Doorbell)
  -- work requests (R443-R446)
  | wrSend (qp : Nat) (payload : Bytes)
  | wrWrite (qp : Nat) (payload : Bytes)
  | wrRead (qp : Nat)
  | rawTransmit (inst number : Nat) (frame : Bytes)
  | msixModExpire (ring : Nat)
  -- the message path (R42-R96, R359-R370)
  /-- err: by how much, in 2^-16 ns, the raw capture differs from the path's latency after the crossing (R412, R413) -/
  | frameStart (port : Nat) (frame : Bytes) (line : LineState) (err : Int)
  | runtDiscard (port : Nat)
  | frameClassify (port : Nat)
  | frameEnd (port : Nat)
  | wedgeTokenEmit (msg : Nat)
  | windowEnter (msg : Nat)
  | entryLate (msg : Nat)
  | verdictRelease (msg : Nat)
  | guardArbitrate (msg : Nat)
  | checkResult (msg : Nat) (kind : CheckKind) (pass : Bool)
  | pTimeoutExpire (msg : Nat)
  | steerHoldExpire (msg : Nat)
  | fullResult (msg : Nat)
  -- the array (R97-R175)
  | operationFire (core : Nat)
  | routerPass (core : Nat)
  | crossingTransfer (core dir : Nat) (latency : Nat)
  | linkParityFail (core dir : Nat) (shelf : WordShelf)
  | ucieRetry (link delay : Nat)
  | joinStarved (core shelf entry : Nat)
  -- generation (R239-R266)
  | genRoundStart (unit : Nat)
  | genTurnStart (unit slot : Nat)
  | genTurnComplete (unit slot : Nat)
  | genResultSend (unit : Nat)
  | seqOpen (qp : Nat)
  | seqAppend (qp : Nat)
  | seqDraft (qp : Nat)
  | seqClose (qp : Nat)
  -- the armature (R267-R309)
  | armPeriodStart (slot : Nat)
  | armFeedRead (slot stream : Nat) (data : Bytes)
  | armBundleSend (slot stream : Nat)
  | armBundleReceive (port : Nat)
  | armDeadline (slot stream : Nat)
  | armCollect (slot shard : Nat)
  | armTimeLost (slot : Nat)
  -- Wygor transport (R310-R354)
  | wgtDataReceive (port : Nat)
  | ackCoalExpire (qp : Nat)
  | ackReceive (port : Nat)
  | nakReceive (port : Nat)
  | readReqReceive (port : Nat) (data : Bytes)
  | readRespReceive (port : Nat)
  | probeReceive (port : Nat)
  | probeReplyReceive (port : Nat)
  | wgtPacketSend (qp : Nat)
  | retxTimerExpire (qp : Nat)
  | reorderExpire (qp psn : Nat)
  | rnrDelayExpire (qp : Nat)
  | creditResume (qp : Nat)
  | peerSilentExpire (peer : Nat)
  | probeIntervalExpire (peer : Nat)
  -- ports and scheduling (R355-R395)
  | pauseReceive (port : Nat)
  | pauseExpire (port cls : Nat)
  | pfcRefresh (port cls : Nat)
  | xonSend (port cls : Nat)
  | fcWdogExpire (port cls : Nat)
  | transmitSelect (port : Nat)
  | gateEntryChange (port : Nat)
  | gateTakeover (port : Nat)
  | lpiEnter (port : LpiSide)
  | lpiWake (port : LpiSide)
  | linkDown (port : Nat)
  | linkUp (port : Nat)
  | telemetrySample
  | tsRecordDrain (port : Nat)
  -- network time (R396-R424)
  | ptpMessageReceive (port : Nat)
  | ptpMessageSend (port : Nat) (kind : PtpKind)
  | masterLoss
  | holdErrUpdate
  | ppsInEdge
  | ppsOut
  | lldpReceive (port : Nat)
  -- faults and domains (R28-R40, R506-R538)
  | thermalSample (raw : List Int)
  | domainLoss (die : Nat)
  | iodLoss
  | pllLoss (d : PllDomain)
  | coreCheckFail (core shelf : Nat)
  | memCorrected (m : MemLoc)
  | memUncorrectable (m : MemLoc)
  | codewordTest (m : MemLoc) (pass : Bool)
  | patrolRead (m : MemLoc) (symbols : Nat)
  | d2dLaneFail (link module lane : Nat)
  | serdesLaneFail (lane : Nat)
  | pcRemap (stack pc : Nat)
  | mgmtWatchdog
  | mgmtRestartDone
  | witnessReport (rep : Report)
  | witnessHoldExpire
  | bpDutyTick (loc : Nat)
  -- bring-up and the board side (R539-R555, R576-R592)
  | powerOnReset (digestOk : Bool)
  | functionReady (f : Func) (ok : Bool)
  | pwrenRaise (die : Nat) (railOk : Bool)
  | perstAssertOne (link : Nat)
  | powerDown
  | pcieLinkDown (link : Nat)
  | smbusRead (code : Byte)
  | pcieLinkUp (link gen : Nat)
  | pcieReadCompletion (f : ReadFor)
  | pcieCompletionTimeout (f : ReadFor)
  | fwFlashWritten
  | splitConfigInForce
  | clusterScrubDone (cluster : Nat)
  deriving DecidableEq, Repr

end Sys2Proof
end

