-- ==== Sys2Proof/Config.lean ====
section
/-! DEFINITION. What one implementation or one part fixes and the manual leaves open: opaque constants with no body, so that
nothing can be proved of their values and every statement holds whatever they are. Log entries are named at each. -/

namespace Sys2Proof.Config

/-- A value the manual leaves open at one moment: the argument is State.fresh, a counter that each use advances.
Free value; log entry 2. -/
opaque freeNat : Nat → Nat

/-- The result of a group that closes while the packing operation has completed no token: of the operation's fields and its own history only
(R105; log entry 14). -/
opaque openResult : List Nat → Nat

/-- The key and value bytes of a position (R256), byte by byte, which depend on the image's MODEL_ID and the tokens ingested at the positions up to
it (R254) and whose layout the manual does not give. Free value; log entry 74. -/
opaque kvByte : Nat → List Nat → Nat → BitVec 8

/-- Which slot's keys and values an SRAM byte of a generation unit holds (R256), of its MODEL_ID, its space (0 core, 1 cluster) and its offset: the
placement decides it. Free value; log entry 74. -/
opaque kvSlot : Nat → Nat → Nat → Option Nat

/-- A signed value the manual leaves open at one moment (servo estimates and adjustments, R398, R407). Free value; entry 2. -/
opaque freeInt : Nat → Int

/-- The OTP contents read through a register: factory calibration values and identity (R424, R532, R534, R535), by the
absolute BAR0 offset of the register. For R424 the second argument is the port's rate code. Free value; entry 3. -/
opaque otp : Nat → Nat → BitVec 32

/-- The factory repair map in OTP (R20): for die d and column cx, the logical row from which the column was shifted at
manufacture, or none. Free value; entry 3. -/
opaque factoryShift : Nat → Nat → Option Nat

/-- The fold epoch e of a die, fixed at power-on reset (R199). Free value; entry 4. -/
opaque foldEpoch : Nat → Nat

/-- The best master clock algorithm of the selected PTP profile (R400): whether the Announce message (its bytes, and the
present time-receiving port if any) selects its sender as master. Specified outside this manual; entry 6. -/
opaque bmcaSelects : List Byte → Option Nat → Bool

/-- The ECDSA P-384 signature check of a firmware image against the Asvor key hash in OTP (R530). Specified outside this
manual; entry 5. -/
opaque firmwareSignatureOk : List Byte → Bool

/-- The version and build date a firmware image carries (R531, R574); the image's layout is not given. Entry 7. -/
opaque firmwareVersion : List Byte → BitVec 32
opaque firmwareDate : List Byte → BitVec 32

/-- The latency of a port's receive path in 2^-16 ns, by port and rate code: what the calibration procedure measures (R412, R413). Free value;
entry 3. -/
opaque rxPath : Nat → Nat → Int

/-- The output of the deterministic random bit generator of NIST SP 800-90A for an XTS key (R489), by draw. Free value; entry 2. -/
opaque xtsKey : Nat → BitVec 512

/-- The port's low-power-idle entry time in ns (R377), which the manual does not give. Entry 8. -/
opaque lpiEntryNs : Nat

/-- The MAC address of a port, the adapter's own IP address on a port by IP version, and the header fields of WGT frames that
the manual does not give: PCP of a traffic class, DSCP, IPv4 identification. Entry 15. -/
opaque portMac : Nat → Nat
opaque localIp : Nat → Nat → Nat
opaque wgtPcp : Nat → Nat
opaque ipDscp : Nat
opaque ipIdent : Nat

end Sys2Proof.Config
end

