-- ==== Sys2Proof/Machine/State.lean ====
section
/-! DEFINITION. The state of the adapter as plain data: every register, ring, queue, buffer, counter, mode and pin the manual
gives it, the model's own bookkeeping (marked MODEL), the queue of waiting commands, and State.reset. -/

namespace Sys2Proof.Machine

open Sys2Proof

/-- Reasons the machine stops. The block has none: every command of the table has an effect, or none where its condition
does not hold. -/
inductive Fault where
  deriving DecidableEq, Repr

/-- Reasons a command has no meaning. -/
inductive Refusal where
  /-- raised by Dispatch.lean for a command whose meaning is not written: safe, the run stops -/
  | notModelled (mnemonic : String)
  deriving DecidableEq, Repr

/-- A keyed table: pairs with strictly rising keys. The key is a number, a register offset or a byte address. -/
abbrev Table (α : Type) := List (Nat × α)

/-- What leaves the adapter, in the order it leaves (MODEL: log entry 10). -/
inductive Output where
  /-- a PCIe memory write under a PASID (R427) -/
  | hostWrite (link pasid addr : Nat) (data : Bytes)
  /-- an MSI-X vector signalled on a link (R440) -/
  | msix (link vector : Nat)
  /-- a frame whose first bit leaves a port at a time (R77, R285, R379), with its FCS (R367) -/
  | wire (port : Nat) (at600 : Nat) (frame : Bytes)
  /-- a sideband output (R583) takes a level -/
  | pin (name : String) (level : Bool)
  /-- the SMBus target's answer (R589); none is a NACK -/
  | smbus (data : Option Bytes)
  /-- new tap or sensor calibration in force (R533): the register offset and the effective value -/
  | calibrate (off : Nat) (v : Word)
  deriving DecidableEq, Repr

-- ------------------------------------------------------------------ rings and commands

/-- A raw transmit descriptor taken and not yet completed (R450). -/
structure RawOut where
  index : BitVec 32
  cookie : DWord
  bytes : Nat
  signaled : Bool
  /-- OPCODE of the descriptor (R449), and the region it reads (R464) -/
  opcode : Nat := 0x10
  lkey : Nat := 0
  /-- its status, once it has one -/
  status : Option Nat := none
  deriving DecidableEq, Repr

/-- A ring (R430, R431, R437-R442, R468). Indices run freely modulo 2^32. -/
structure Ring where
  kind : Nat := 0
  owner : Nat := 0
  number : Nat := 0
  /-- binding number and entry for a steer ring (R433) -/
  link : Nat := 0
  pasid : Nat := 0
  base : Nat := 0
  entries : Nat := 64
  prod : BitVec 32 := 0
  cons : BitVec 32 := 0
  vector : Nat := 0
  modCount : Nat := 1
  modUsec : Nat := 0
  /-- a CQ_MODIFY that applies from the next entry written: vector, MOD_COUNT, MOD_USEC (R468) -/
  modNext : Option (Nat × Nat × Nat) := none
  splitPhase : Bool := false
  /-- armed by a doorbell, with the consumer index it gave (R440) -/
  armed : Bool := false
  armIndex : BitVec 32 := 0
  /-- when each entry that the consumer has not passed was written, oldest first -/
  times : List Nat := []
  /-- armed: when the first entry past the armed index was written (R440) -/
  firstAt : Option Nat := none
  /-- a CQ in OVERRUN (R441) -/
  overrun : Bool := false
  /-- records dropped since the last record written (R391, R420, R457) -/
  gap : Nat := 0
  /-- the CQ of a raw ring or steer ring (R465, R468) -/
  cq : Nat := 0
  /-- steer ring: first stream byte written, slot size (R465) -/
  offset : Nat := 0
  slotSize : Nat := 0
  /-- entries of a command completion ring held for commands taken and not completed (R442) -/
  reserved : Nat := 0
  /-- descriptors announced by a doorbell and not yet used, oldest first (SQ, RQ and raw rings: R432) -/
  posted : List Bytes := []
  /-- raw transmit ring: descriptors taken, in ring order -/
  rawOut : List RawOut := []
  /-- raw transmit ring: a descriptor has failed, so that no later one completes with OK (R450) -/
  failed : Bool := false
  deriving DecidableEq, Repr

/-- A command taken and not yet completed (R460). -/
structure PendCmd where
  id : Nat
  ring : CmdRing
  tag : BitVec 32
  index : BitVec 32
  opcode : Nat
  /-- the unit, QP, instance, port or slot it waits for; for STATS what it is to write, and where (R467) -/
  arg : Nat
  deriving DecidableEq, Repr

/-- A memory region (R464). -/
structure MemRegion where
  owner : Nat
  variant : Nat
  live : Bool := true
  link : Nat := 0
  access : Nat := 0
  addr : Nat := 0
  length : Nat := 0
  deriving DecidableEq, Repr

-- ------------------------------------------------------------------ instances

/-- R475. -/
inductive InsState where
  | free
  | active
  | resetting
  | destroying
  deriving DecidableEq, Repr

/-- The share block (R480). -/
structure Shares where
  qps : Nat := 0
  cqs : Nat := 0
  mrs : Nat := 0
  units : Nat := 0
  regions : Nat := 0
  blocks : Nat := 0
  gateShare : Nat := 0
  txRate : Nat := 0
  txBurst : Nat := 0
  rxRate : Nat := 0
  rxBurst : Nat := 0
  deriving DecidableEq, Repr

/-- A dirty-page log of one instance and link (R498-R502). -/
structure DirtyLog where
  base : Nat
  length : Nat
  bitmapA : Nat
  bitmapB : Nat
  /-- bitmap B is the active one -/
  writingB : Bool := false
  /-- pages marked in the active bitmap, and written to it -/
  marked : List Nat := []
  /-- pages due to be marked in the active bitmap, oldest first (R500) -/
  due : List Nat := []
  outside : Nat := 0
  /-- a sync or stop in progress: its command, whether it stops the log, and the old bitmap's pages and marks due -/
  sync : Option (Nat × Bool) := none
  oldMarked : List Nat := []
  oldDue : List Nat := []
  oldOutside : Nat := 0
  deriving DecidableEq, Repr

/-- An instance reset or destroy in progress (R495, R497). -/
structure ResetProc where
  deadline : Nat
  cmd : Option Nat := none
  destroy : Bool := false
  byLink : Bool := false
  flushed : Nat := 0
  messages : Nat := 0
  unitsSquashed : Nat := 0
  /-- step 4 of R495 has run -/
  stepFour : Bool := false
  /-- a destroy whose saggar is being released: only scrubs are still awaited (R497) -/
  released : Bool := false
  deriving DecidableEq, Repr

/-- An instance (R475-R505). -/
structure Instance where
  st : InsState := .free
  home : Nat := 0
  pasid0 : Option Nat := none
  pasid1 : Option Nat := none
  shares : Shares := {}
  /-- the XTS-AES-256 key of its regions, both halves (R489) -/
  key : Option (BitVec 512) := none
  /-- DOORBELL_DROPPED, RING_OVERRUN, EVENTS_DROPPED, CQ_OVERRUN, RAW_RX_DROPPED, COMMANDS_TAKEN, SEND_WRS_STARTED,
  PACKETS_RECEIVED (R467) -/
  stats : Table Nat := []
  /-- events dropped since the last event record (R457) -/
  eventGap : Nat := 0
  log0 : Option DirtyLog := none
  log1 : Option DirtyLog := none
  proc : Option ResetProc := none
  deriving DecidableEq, Repr

-- ------------------------------------------------------------------ the array

/-- KIND of R140. -/
inductive TokKind where
  | data
  | mark
  | select
  | void
  deriving DecidableEq, Repr

/-- A token (R140). -/
structure Token where
  payload : DWord := 0
  kind : TokKind := .data
  chan : Nat := 0
  shelf : Nat := 0
  deriving DecidableEq, Repr

/-- An input queue of one core, arrival direction and shelf (R97, R147). -/
structure InQ where
  toks : List Token := []
  /-- tokens on the link or reserved for it: (cycle in the queue, token), in slot order (R103, R143, R148) -/
  inflight : List (Nat × Token) := []
  /-- cycles from which slots freed may be used again by the sender (R147) -/
  owed : List Nat := []
  /-- the latest cycle in which tokens came into the queue, and how many (R174) -/
  lastIn : Nat × Nat := (0, 0)
  /-- frozen by back-pressure location (R549) -/
  frozen : Bool := false
  deriving DecidableEq, Repr

/-- A crossing FIFO (R156), keyed like the queue it feeds: tokens with the cycle they were on the sending link, the
cycles from which freed slots may be used, and how many tokens moved in which cycle. -/
structure XFifo where
  toks : List (Nat × Token) := []
  owed : List Nat := []
  moved : Nat × Nat := (0, 0)
  /-- retries of the link (R158), the oldest first: the cycle of each and by how much the tokens then in flight arrive late -/
  late : List (Nat × Nat) := []
  deriving DecidableEq, Repr

/-- The hidden state of one operation (R97): running maximum, pack buffer, GROUP_HAS_DATA. -/
structure OpState where
  runMax : DWord := 0
  runBad : Bool := false
  pack : DWord := 0
  packed : Nat := 0
  hasData : Bool := false
  /-- MODEL: the tokens of the entry's last data-mode firing, emitted when a group closes without data of its own firing
  (log entry 14) -/
  last : List DWord := []
  /-- MODEL: the branch that SWITCH's last data-mode firing selected (log entry 14) -/
  lastBranch : Nat := 0
  /-- MODEL: groups the entry has closed since the load (log entry 14) -/
  closed : Nat := 0
  deriving DecidableEq, Repr

/-- A register write that has not completed (R102, R104). -/
structure PendWrite where
  due : Nat
  entry : Nat
  reg : Nat
  val : DWord
  deriving DecidableEq, Repr

/-- The state of one core for one shelf (R97). -/
structure CoreShelf where
  regs : Table DWord := []
  /-- c0-c3 as (VALUE, LIMIT) -/
  counters : Table (BitVec 32 × BitVec 32) := []
  ops : Table OpWord := []
  opState : Table OpState := []
  /-- route entries 0-63 (R153), EMIT_SHELF mapped to absolute shelves -/
  route : Table Byte := []
  csBase : Nat := 0
  csSize : Nat := 0
  clBase : Nat := 0
  clSize : Nat := 0
  pend : List PendWrite := []
  /-- for each store entry, the cycle from which it may fire again (R102 item 5) -/
  notBefore : Table Nat := []
  /-- the cycle in which the last operation fired so far is no longer in flight (R206) -/
  busyUntil : Nat := 0
  /-- loaded under the shifted setting of a pending shift (R527): its SRAM is that of the next physical row -/
  shifted : Bool := false
  deriving DecidableEq, Repr

/-- A cluster SRAM access in flight (R113): access cycle, core index k, address, bytes to write. -/
structure ClAccess where
  at_ : Nat
  k : Nat
  cluster : Nat
  addr : Nat
  data : Bytes
  deriving DecidableEq, Repr

/-- R199. -/
inductive Pattern where
  | idle
  | single (s : Nat)
  | fold (f : Nat) (shelves : List Nat)
  deriving DecidableEq, Repr

/-- A logical cluster (R484-R487, R199). -/
structure Cluster where
  owner : Option Nat := none
  leaving : Bool := false
  retired : Bool := false
  pattern : Pattern := .idle
  /-- a switch fixed in advance (R210): the cycle and the new pattern -/
  switchAt : Option (Nat × Pattern) := none
  /-- scrub running before the cluster becomes free (R485): when it started -/
  scrub : Option Nat := none
  deriving DecidableEq, Repr

-- ------------------------------------------------------------------ images and units

/-- A binding record (R50, R233). -/
structure Binding where
  number : Nat := 0
  priority : Nat := 8
  ports : Nat := 0
  w : Nat := 1
  extractor : Nat := 0
  fullExtractor : Nat := 255
  extent : Nat := 0
  matchFlags : Nat := 0
  ethertype : Nat := 0
  vlan : Nat := 0
  udpPort : Nat := 0
  qpLo : Nat := 0
  qpHi : Nat := 0
  pTimeout : Nat := 100000
  steerHold : Nat := 50000
  retain : Nat := 0
  slip : Nat := 0
  unjudgedAs : Nat := 0
  checkPolicy : Nat := 1
  replyPort : Nat := 255
  replyGuard : Nat := 1
  templates : Nat := 0
  steerTable : Nat := 0
  mirrorTable : Nat := 0
  guard : Nat := 0
  deriving DecidableEq, Repr

/-- An extractor step (R51, R235): STEP 1 FIELD, 2 SPAN, 3 HASH, 4 LEN, 5 META, 6 MARK. -/
structure ExtStep where
  step : Nat
  chan : Nat
  arg : Nat
  offset : Nat
  length : Nat
  deriving DecidableEq, Repr

/-- A field operation of a template (R71). -/
structure FieldOp where
  op : Nat
  len : Nat
  dst : Nat
  src : Nat
  deriving DecidableEq, Repr

/-- A reply template (R70). -/
structure Template where
  binding : Nat
  number : Nat
  flags : Nat
  image : Bytes
  payloadOff : Nat
  fields : List FieldOp
  deriving DecidableEq, Repr

/-- An I/O entry (R224). -/
structure IoLink where
  dir : Nat
  lane : Nat
  copy : Nat
  chan : Nat
  core : Nat
  side : Nat
  deriving DecidableEq, Repr

/-- A swap profile entry (R231). -/
structure Profile where
  cluster : Nat
  lane : Nat
  copy : Nat
  u : Nat
  d : Nat
  deriving DecidableEq, Repr

/-- A CORE_CONFIG record (R226), as far as the unit keeps it. -/
structure CoreConfig where
  core : Nat
  shelfRel : Nat
  csBase : Nat
  csSize : Nat
  clBase : Nat
  clSize : Nat
  counters : List (Nat × Nat)
  regs : List Nat
  route : Bytes
  ops : List Nat
  deriving DecidableEq, Repr

/-- A WEIGHTS segment (R228). -/
structure Weights where
  target : Nat
  shelfRel : Nat
  loc : Nat
  offset : Nat
  data : Bytes
  deriving DecidableEq, Repr

/-- An entry of a stream plan (R229). -/
structure StreamCopy where
  cluster : Nat
  shelfRel : Nat
  sramOff : Nat
  length : Nat
  due : Nat
  hbmOff : Nat
  deriving DecidableEq, Repr

/-- The cores and links one copy of one lane reaches (R225, R509). A link is (core, arrival direction). -/
structure CopySet where
  lane : Nat
  copy : Nat
  cores : List Nat
  links : List (Nat × Nat)
  deriving DecidableEq, Repr

/-- Unit states (R180); EMPTY is no unit. -/
inductive UnitState where
  | green
  | bisque
  | fired
  | cooling
  deriving DecidableEq, Repr

/-- The decode parameters of a generation unit (R258). -/
structure GenParams where
  service : Nat
  slots : Nat
  ingestMax : Nat
  vocab : Nat
  maxCtx : Nat
  onCtx : Nat
  kvBytes : Nat
  latBase : Nat
  ctxCost : Nat
  spillCost : Nat
  spillBw : List Nat
  spillBytes : Nat
  deriving DecidableEq, Repr

/-- A pending sequence request (R244, R247). -/
structure GenReq where
  op : Nat
  reqId : Nat
  /-- taken at a round start (R251) -/
  taken : Bool := false
  keep : Nat
  toIngest : List Nat
  count : Nat := 0
  stream : Bool := false
  drafted : List DWord := []
  deriving DecidableEq, Repr

/-- A turn fixed at a round start (R251). -/
structure GenTurn where
  start : Nat
  tokens : List Nat
  sampling : Bool
  /-- KV length before the turn -/
  base : Nat
  /-- completion cycle, Λ after the start (R252) -/
  done : Nat
  /-- it feeds the draft token that the slot's previous turn gives -/
  feed : Bool := false
  deriving DecidableEq, Repr

/-- A sequence slot (R240, R244). -/
structure GenSlot where
  opened : Bool := false
  qp : Nat := 0
  len : Nat := 0
  seed : DWord := 0
  temp : BitVec 16 := 0
  req : Option GenReq := none
  /-- the turn in progress, and the one fixed at the last round start that has not started -/
  turn : Option GenTurn := none
  next : Option GenTurn := none
  /-- close at the next round start, with no RESULT; the detaches that wait for it (R242) -/
  closing : Bool := false
  detachers : List Nat := []
  /-- MODEL: the tokens at the positions whose KV is stored (log entry 74) -/
  hist : List Nat := []
  deriving DecidableEq, Repr

/-- A RESULT waiting its 500 ns (R248). -/
structure GenResult where
  at_ : Nat
  qp : Nat
  /-- the slot it reports, where it answers a DRAFT with STREAM or a request of an open slot -/
  slot : Option Nat := none
  data : Bytes
  deriving DecidableEq, Repr

/-- A drain in progress (R205-R208). -/
structure Drain where
  began : Nat
  deadline : Nat
  toBisque : Bool
  cmd : Option Nat := none
  /-- a join watchdog started it or expired during it (R208, R214) -/
  wdog : Bool := false
  deriving DecidableEq, Repr

/-- A swap in progress, kept at the old unit (R210). -/
structure Swap where
  newUnit : Nat
  gap : Nat
  /-- S, once the old unit's last entry is known -/
  entry : Option Nat := none
  /-- generation units wait for the round start (R264), with the command and the drain bound -/
  atRound : Bool := false
  cmd : Option Nat := none
  bound : Nat := 0
  deriving DecidableEq, Repr

/-- A unit (R176). -/
structure MUnit where
  owner : Nat := 0
  st : UnitState := .green
  retired : Bool := false
  kind : Nat := 0
  outcome : Nat := 0
  /-- absolute shelf of each relative shelf -/
  shelves : List Nat := []
  clusters : List Nat := []
  lanes : Nat := 1
  firing : Nat := 16
  ii : Nat := 1
  foldExtra : Nat := 0
  power : Nat := 0
  /-- power is held for it (R34) -/
  powerHeld : Bool := true
  fullLat : Nat := 0
  /-- the schedule model's latency to the last exit token (R291) -/
  lastExit : Nat := 0
  streamBw : List Nat := []
  streamBytes : Nat := 0
  streamPlan : List StreamCopy := []
  spepel : Nat := 0
  modelId : Nat := 0
  drainClean : Bool := false
  guard : Bool := false
  full : Bool := false
  bindings : List Binding := []
  extractors : Table (List ExtStep) := []
  templates : List Template := []
  io : List IoLink := []
  profile : List Profile := []
  copies : List CopySet := []
  configs : List CoreConfig := []
  gen : Option GenParams := none
  /-- HBM extent: region, offset, length (R490) -/
  extent : Option (Nat × Nat × Nat) := none
  /-- physical rows of its columns under the shifted setting (R527): the columns d*16+cx it was loaded shifted in -/
  shiftedCols : List Nat := []
  /-- bytes the admission read, kept until verification (R219) -/
  image : Bytes := []
  /-- the variants that admission tried (R219) -/
  tried : List Nat := []
  /-- the clusters that were LEAVING when its LOAD was taken (R487) -/
  left : List Nat := []
  hbmOff : Nat := 0
  loadCmd : Option Nat := none
  loadedAt : Nat := 0
  drain : Option Drain := none
  swap : Option Swap := none
  /-- windows of this unit may not enter before this cycle of each die (R210), list by die; none before SWAP_ENTRY_POINT -/
  gateUntil : Option (List Nat) := none
  waitSwap : Bool := false
  /-- when it became FIRED (R190), and when it entered COOLING (R210, R470) -/
  firedAt : Nat := 0
  coolingAt : Option Nat := none
  /-- scrub to EMPTY running: when it began, the command that completes then and its status -/
  scrub : Option (Nat × Option Nat × Nat) := none
  squashed : Bool := false
  msgsSquashed : Nat := 0
  /-- lane for the next window of each binding (R595) -/
  nextLane : Table Nat := []
  /-- for each lane, the cycle from which it accepts a window (II) -/
  laneFree : Table Nat := []
  /-- for each lane, the cycle its last window's last token entered -/
  lastEntry : Table Nat := []
  /-- set-aside copies (lane, copy) (R510) -/
  aside : List (Nat × Nat) := []
  /-- for each lane, C is busy with a replay until this time -/
  cBusy : Table Nat := []
  arm : Option Nat := none
  slots : Table GenSlot := []
  roundStart : Option Nat := none
  roundLen : Nat := 0
  lastChat : Nat := 0
  /-- tokens that left on the exit links: lane*4+copy to (time, token), oldest first (R163, R596) -/
  exits : Table (List (Nat × Token)) := []
  /-- windows that have entered and whose record is not consumed, by lane*4+copy, in entry order (R596) -/
  awaits : Table (List Nat) := []
  starveRaised : Bool := false
  starveCount : Nat := 0
  deriving DecidableEq, Repr

-- ------------------------------------------------------------------ messages

/-- A verdict record (R58). -/
structure VerdictRec where
  head : DWord
  fields : List DWord := []
  deriving DecidableEq, Repr

/-- A stretch of the stream and its arrival (R43, R44): stream offset, bytes, time of its first bit, 1/600 ns per byte. -/
structure Segment where
  offset : Nat
  data : Bytes
  t0 : Nat
  perByte : Nat
  deriving DecidableEq, Repr

/-- A reply sent for a message (R66, R74-R85). -/
structure Reply where
  seq : BitVec 32
  port : Nat
  template : Template
  fields : List DWord
  frame : Bytes
  provisional : Bool
  handedAt : Nat
  /-- its first bit has left -/
  left : Bool := false
  /-- a provisional reply's frame as it goes if its checks have passed by its handoff (R80) -/
  plain : Bytes := []
  deriving DecidableEq, Repr

/-- A posted receive buffer (R445). -/
structure RecvWr where
  index : BitVec 32
  wrId : DWord
  addr : Nat
  length : Nat
  lkey : Nat
  deriving DecidableEq, Repr

/-- A steer-table or mirror-table entry (R60, R465). -/
structure TableEntry where
  kind : Nat := 0
  link : Nat := 0
  port : Nat := 0
  cq : Nat := 0
  qp : Nat := 0
  pasid : Nat := 0
  offset : Nat := 0
  base : Nat := 0
  slotSize : Nat := 0
  slotCount : Nat := 0
  deriving DecidableEq, Repr

/-- The steer entry that a message goes to, as it stood for its verdict (R465), and the slot of its ring or the queue pair and buffer taken
there (R60, R61, R337). -/
structure SteerTo where
  entry : Nat
  ent : TableEntry := {}
  slot : Option Nat := none
  wr : Option (Nat × RecvWr) := none
  deriving DecidableEq, Repr

/-- A reply or follow-up between verdict-ready and its handoff to the MAC (R76): everything but what the handoff settles (R65, R66, R80). -/
structure Making where
  /-- when it is handed over, and the network time then in ns -/
  at_ : Nat
  net : Nat
  template : Template
  fields : List DWord
  code : Nat
  amended : Bool := false
  followup : Bool := false
  deriving DecidableEq, Repr

/-- A frame of a message as a MIRROR copies it (R597): its stream offset, its bytes, its checks passed, and whether it was copied. -/
structure MsgFrame where
  offset : Nat
  data : Bytes
  /-- it carried window bytes: its checks are CHECK_RESULT's -/
  window : Bool := true
  fcs : Bool := false
  crc : Bool := false
  /-- when the last of its checks ended -/
  checkedAt : Nat := 0
  mirrored : Bool := false
  deriving DecidableEq, Repr

/-- A message on its way (R42), and what the inference path knows of it. -/
structure Message where
  inst : Nat := 0
  port : Nat := 0
  rawQueue : Nat := 0
  /-- a frame for the transport that is a message by itself (R42): it waits in the port's inbox for its verdict -/
  ctl : Bool := false
  /-- QP index and MSN of a WGT message -/
  qp : Option Nat := none
  msn : Nat := 0
  opcode : Nat := 17
  startedAt : Nat := 0
  capture : Nat := 0
  /-- a raw frame's bytes, or what has come of a WGT message's payload -/
  segs : List Segment := []
  /-- L, once the tail is known (R43) -/
  total : Option Nat := none
  /-- its bytes that stay in the receive buffer until they are written or discarded (R360), and those of them charged to its class, which
  R61 holds (R364) -/
  bufBytes : Nat := 0
  occBytes : Nat := 0
  /-- STORE_FORWARD: when its one frame is released (R368) -/
  releaseAt : Nat := 0
  cls : Nat := 0
  /-- VLAN field of R451 and the tag META 1 gives (R51) -/
  vlan : Nat := 0
  vlanTci : Nat := 0
  /-- DST_QP of a WGT message (META 2) -/
  dstQp : Nat := 0
  /-- receive timestamp in 2^-16 ns (R412) -/
  stamp : Nat := 0
  /-- the binding that took it, with the parameters in force then -/
  binding : Option Binding := none
  /-- F of the binding, in core cycles (R62), and the full model's latency -/
  f : Nat := 0
  fullLat : Nat := 0
  unit : Option Nat := none
  lane : Nat := 0
  started : Bool := false
  holdsContext : Bool := false
  nextStep : Nat := 0
  /-- by channel, how many of the program's tokens for it have been emitted (R51, R594) -/
  emitted : Table Nat := []
  /-- the same for the full model's extractor -/
  fullNext : Nat := 0
  fullEmitted : Table Nat := []
  /-- tokens of the window: ready time, the copies it still has to enter (bit k for copy k), the token -/
  toks : List (Nat × Nat × Token) := []
  /-- the copies its window feeds, fixed when its first tokens are emitted (R93, R510); none before that -/
  copies : List Nat := []
  /-- tokens of the window in all, counting closing MARKs (R160) -/
  roomed : Nat := 0
  entered : Bool := false
  entryAt : Option Nat := none
  /-- the cycle in which the window took its lane (R161) -/
  tookLane : Option Nat := none
  /-- first packet-sequence gap, next PSN expected by the wedge (R55) -/
  nextPsn : Nat := 0
  /-- UNJUDGED with a cause before a verdict came -/
  unjudged : Option Nat := none
  first : Option VerdictRec := none
  firstCode : Option Nat := none
  cause : Nat := 0
  acted : Bool := false
  guardRetry : Bool := false
  /-- when C's verdict is due (R93) -/
  cDue : Option Nat := none
  reply : Option Reply := none
  /-- a reply and a follow-up that are not handed over yet (R76) -/
  making : List Making := []
  /-- a reply held for its checks, and what follows it (R79, R81, R91) -/
  heldAs : List Making := []
  provisional : Bool := false
  rescinded : Bool := false
  /-- the RESCIND was discarded with its port's queue: none was sent (R95, R381) -/
  rescindLost : Bool := false
  replied : Bool := false
  /-- checks still pending (R79): frames' FCS, CRC32C, GCM tags -/
  pendFcs : Nat := 0
  pendCrc : Nat := 0
  pendTag : Nat := 0
  /-- PSNs of the packets whose tag is awaited, oldest first (R331) -/
  tagPsns : List Nat := []
  /-- stream offsets of ciphered packets whose frame failed and that have not come again (R79, R83) -/
  redo : List Nat := []
  checkFailed : Bool := false
  lastPass : Nat := 0
  /-- held STEER (R61): when it expires -/
  steerUntil : Option Nat := none
  /-- where its first verdict steers it, and where an AMEND does (R91) -/
  steered : Option SteerTo := none
  amendedTo : Option SteerTo := none
  annotation : BitVec 32 := 0
  finalCode : Option Nat := none
  /-- the final verdict's record, after an AMEND -/
  final : Option VerdictRec := none
  amended : Bool := false
  /-- a WGT message of a ciphered queue pair -/
  ciphered : Bool := false
  /-- the frame of a raw message has ended well -/
  tailOk : Bool := false
  unretained : Bool := false
  retained : Bool := false
  fullDone : Bool := true
  dropped : Bool := false
  mirrorTo : Option TableEntry := none
  /-- the entries that its first and its final verdict name, as they stood when those were ready (R465) -/
  firstEnt : TableEntry := {}
  finalEnt : TableEntry := {}
  /-- frames received for it (R597) -/
  frames : List MsgFrame := []
  /-- the message's bytes are delivered or discarded -/
  finished : Bool := false
  deriving DecidableEq, Repr

-- ------------------------------------------------------------------ ports

/-- What a queued frame is. -/
inductive TxKind where
  | reply
  | followup
  | rescind
  | mirror
  | raw
  | wgt
  | bundle
  | ptp
  | control
  deriving DecidableEq, Repr

/-- A frame queued for transmission. -/
structure TxFrame where
  kind : TxKind
  data : Bytes
  inst : Nat := 0
  queuedAt : Nat := 0
  /-- earliest start: the end of the transmit stage of R76 -/
  ready : Nat := 0
  msg : Option Nat := none
  qp : Option Nat := none
  psn : Nat := 0
  /-- the receive timestamp of the request that a Pdelay_Resp answers, in 2^-16 ns (R416) -/
  reqStamp : Option Nat := none
  /-- one-step insertion (R416): timestamp offset, correctionField offset, record wanted, cookie, raw queue, SQ index -/
  tsOff : Option Nat := none
  cfOff : Option Nat := none
  tsRecord : Bool := false
  cookie : DWord := 0
  signaled : Bool := false
  sqIndex : BitVec 32 := 0
  rawQueue : Nat := 0
  /-- an ACK or NAK of a queue pair (R326, R331) -/
  ack : Bool := false
  deriving DecidableEq, Repr

/-- Where a received frame goes (R362, R363). -/
inductive Dest where
  | mac
  | timeBase
  | lldp
  | armature
  | transport (inst : Nat)
  /-- a PROBE or PROBE_REPLY, which the transport takes on any port (R348) -/
  | probe
  | raw (inst queue : Nat)
  | dropped
  deriving DecidableEq, Repr

/-- A frame on its way in (R359-R366). The bytes are known from its start (MODEL: log entry 11). -/
structure RxFrame where
  data : Bytes
  /-- the FCS it was received with, and whether it holds (R358, R367) -/
  fcs : BitVec 32 := 0
  fcsOk : Bool
  capture : Nat
  t0 : Nat
  perByte : Nat
  /-- the unit FIRED for each binding when its first byte was admitted (R49) -/
  fired : List (Nat × Nat) := []
  /-- bindings of units that have reached EMPTY since then: (owner, unit, binding) -/
  kept : List (Nat × Nat × Binding) := []
  /-- in the receive buffer (true) or in the standing reserve (R360) -/
  inBuffer : Bool := true
  /-- bytes reserved for it: MAX_FRAME when it was admitted (R360), and those charged to its class (R364) -/
  room : Nat := 0
  occ : Nat := 0
  /-- from when its consumer may take it: in STORE_FORWARD, its release (R368) -/
  readyAt : Nat := 0
  /-- it has neither: kept if it is a bundle (R296) -/
  noRoom : Bool := false
  cls : Nat := 0
  dest : Option Dest := none
  msg : Option Nat := none
  ce : Bool := false
  deriving DecidableEq, Repr

/-- A gate list (R382). -/
structure GateList where
  en : Bool := false
  cycle : Nat := 0
  base : Nat := 0
  entries : List (Byte × Nat) := []
  deriving DecidableEq, Repr

/-- A timestamp record waiting in a port's FIFO (R418-R420). -/
structure TsRecord where
  inst : Nat
  time : Nat
  holdover : Bool
  cookie : DWord
  deriving DecidableEq, Repr

/-- A port (R355-R395). -/
structure Port where
  linkUp : Bool := false
  /-- lanes in use: 0, 1, 2, 4 or 8 (R355, R357) -/
  lanes : Nat := 0
  /-- path mode in force in each direction: STORE_FORWARD (R369) -/
  sfRx : Bool := true
  sfTx : Bool := true
  rx : Option RxFrame := none
  /-- frames received and waiting for their consumer, oldest first -/
  inbox : List RxFrame := []
  ctrlQ : List TxFrame := []
  replyQ : List TxFrame := []
  /-- tc0-tc7 -/
  txQ : Table (List TxFrame) := []
  txBusyUntil : Nat := 0
  /-- received pause: class (8 for the reply queue) to the time it ends, and since when it is held (R372, R375) -/
  hold : Table Nat := []
  heldSince : Table Nat := []
  /-- pause sent for a class: when it was last sent (R374) -/
  xoffAt : Table Nat := []
  /-- receive occupancy of each class in bytes (R364) -/
  occupancy : Table Nat := []
  standingUsed : Bool := false
  /-- low-power idle on transmit, and the wake in progress (R377, R378) -/
  lpiTx : Bool := false
  lpiRx : Bool := false
  wakeAt : Option Nat := none
  idleSince : Nat := 0
  oper : GateList := {}
  /-- windows of armatures destroyed since the last list takeover (R297) -/
  goneWins : Nat := 0
  pendGate : Option (GateList × Nat) := none
  /-- gate states set by the last GATE_ENTRY_CHANGE -/
  gates : Byte := 0xFF#8
  fifo : List TsRecord := []
  /-- from when the FIFO may give its next record to a ring (R419) -/
  drainAt : Nat := 0
  /-- per instance: records dropped since the last one written (R420), and a step since then (R418) -/
  tsGap : Table Nat := []
  tsStepped : Table Bool := []
  /-- LLDP peer (R574): seen, LPI advertised, wake time, when last heard -/
  lldpSeen : Bool := false
  lldpLpi : Bool := false
  lldpWake : Nat := 0
  lldpAt : Nat := 0
  /-- the peer has advertised LPI since the port last trained (R377) -/
  lldpNow : Bool := false
  lldpDropped : Nat := 0
  ptpDropped : Nat := 0
  /-- a Pdelay_Req waiting for its answer: the frame and its receive timestamp in 2^-16 ns (R401, R416) -/
  pdelay : Option (Bytes × Nat) := none
  /-- the sequence number of the Pdelay_Req or Delay_Req that waits for its answer, of a two-step answer that waits for its follow-up, and
  the path delay in 2^-16 ns that the last exchange gave (R400, R401) -/
  delayReq : Option Nat := none
  delayWait : Option Nat := none
  pathDelay : Option Int := none
  /-- when a time-base message of each kind (0 Sync, 1 Pdelay_Req, 2 Announce) was last sent (R402) -/
  ptpSent : Table Nat := []
  /-- RX_FRAMES, RX_BYTES, TX_FRAMES, TX_BYTES, REPLIES, RESCINDS, BUNDLES_TX, BUNDLES_RX (R467) -/
  totals : Table Nat := []
  deriving DecidableEq, Repr

/-- A token bucket (R387), credit in 1/1 024 byte. -/
structure Bucket where
  rate : Nat := 0x1FFFFF
  burst : Nat := 65536
  mark : Bool := false
  credit : Int := 65536 * 1024
  /-- when credit was last brought up to date -/
  at_ : Nat := 0
  /-- a write of RATE in a FAB cycle: the cycle, RATE and credit before it, and FORGIVE; a frame that starts in that cycle is charged first
  (R392) -/
  wrote : Option (Nat × Nat × Int × Bool) := none
  deriving DecidableEq, Repr

-- ------------------------------------------------------------------ Wygor transport

/-- R320. -/
inductive QpState where
  | reset
  | rtr
  | rts
  | error
  deriving DecidableEq, Repr

/-- A send work request in progress (R323, R443). -/
structure SendWr where
  index : BitVec 32
  wrId : DWord
  opcode : Nat
  flags : Nat
  length : Nat
  localAddr : Nat
  lkey : Nat
  remoteAddr : Nat
  rkey : Nat
  payload : Bytes
  msn : Nat := 0
  firstPsn : Nat := 0
  packets : Nat := 1
  sent : Nat := 0
  started : Bool := false
  /-- READ: offsets and lengths of the responses that came -/
  got : List (Nat × Nat) := []
  /-- READ: responses that wait for the verdict on their message (R42, R57) -/
  held : List (Nat × Bytes) := []
  /-- READ: bytes were lost with their PCIe link (R429) -/
  lost : Bool := false
  /-- a message of the adapter's own (R248): no work request, and no completion -/
  own : Bool := false
  /-- finished, with its status, and waiting for its turn in ring order (R450) -/
  done : Option Nat := none
  deriving DecidableEq, Repr

/-- A packet outstanding (R324, R329). -/
structure OutPkt where
  psn : Nat
  bytes : Nat
  sentAt : Nat
  order : Nat
  retx : Bool := false
  sacked : Bool := false
  lost : Bool := false
  /-- when a packet sent after it was first acknowledged by SACK -/
  sackAfter : Option Nat := none
  deriving DecidableEq, Repr

/-- A message being received (R325, R334). -/
structure RxMsg where
  opcode : Nat
  /-- the PSN of its first packet, once known -/
  firstPsn : Option Nat := none
  notify : Bool := false
  remoteAddr : Nat := 0
  rkey : Nat := 0
  total : Option Nat := none
  got : Nat := 0
  wr : Option RecvWr := none
  msgId : Option Nat := none
  tagsPending : Nat := 0
  data : Table Byte := []
  capture : Nat := 0
  vlan : Nat := 0
  /-- its bytes wait for its verdict, or go to the generation service instead of memory (R57, R241) -/
  held : Bool := false
  /-- bytes were lost with their PCIe link (R429) -/
  lost : Bool := false
  /-- the service its queue pair was attached to when it began, and since when (R241, R242) -/
  svc : Option (Nat × Nat) := none
  cls : Nat := 0
  deriving DecidableEq, Repr

/-- A queue pair (R317-R345). -/
structure Qp where
  gen : Nat := 1
  live : Bool := true
  owner : Nat := 0
  st : QpState := .reset
  sendCq : Nat := 0
  recvCq : Nat := 0
  port : Nat := 0
  peerMac : BitVec 48 := 0
  vlan : Option Nat := none
  ipv : Nat := 4
  peerIp : BitVec 128 := 0
  sport : Nat := 0
  tc : Nat := 0
  hop : Nat := 64
  pmtu : Nat := 4096
  peerQp : Nat := 0
  msgWindow : Nat := 64
  rxKey : Option (BitVec 256) := none
  txKey : Option (BitVec 256) := none
  profile : Nat := 0
  /-- ECN_EN of the profile as it stood at the last ACK, or at RTS (R342, R354) -/
  ecn : Bool := false
  retryMax : Nat := 7
  rnrRetry : Nat := 7
  -- requester
  sqPsn : Nat := 0
  unaPsn : Nat := 0
  nextMsn : Nat := 0
  ivCtr : Nat := 0
  sends : List SendWr := []
  outPkts : List OutPkt := []
  retxQ : List Nat := []
  sendOrder : Nat := 0
  credit : Nat := 0
  cwnd : Nat := 0
  /-- bytes per ns -/
  rate : Rat := 0
  /-- in 1/8 ns -/
  srtt : Nat := 0
  rttvar : Nat := 0
  alpha : Rat := 0
  lastMd : Int := 0
  nextSend : Nat := 0
  timerAt : Option Nat := none
  expiries : Nat := 0
  rnrUsed : Nat := 0
  rnrUntil : Option Nat := none
  -- responder
  ePsn : Nat := 0
  got : List Nat := []
  rxMsgs : Table RxMsg := []
  recvs : List RecvWr := []
  nextRxMsn : Nat := 0
  creditMsn : Nat := 0
  frozen : Bool := false
  ceBytes : Nat := 0
  rxBytes : Nat := 0
  sinceAck : Nat := 0
  unackedAt : Option Nat := none
  echoPsn : Nat := 0
  owd : Option Int := none
  /-- MSNs of messages refused for RNR, whose packets are discarded -/
  rnrMsgs : List Nat := []
  /-- packets discarded for RNR and not acknowledged (R332): MSN and PSN -/
  rnrPsns : List (Nat × Nat) := []
  /-- the first PSN of such a message, until it has come again under fresh PSNs -/
  rnrFirst : Table Nat := []
  readsBusy : Nat := 0
  /-- READ_RESP packets waiting to leave: PSN, MSN, offset, bytes, LAST -/
  respQ : List (Nat × Nat × Nat × Bytes × Bool) := []
  sentCount : Nat := 0
  retxCount : Nat := 0
  recvCount : Nat := 0
  /-- service it is attached to (R241), and when it was attached and last detached (R242) -/
  service : Option Nat := none
  serviceAt : Nat := 0
  serviceEnd : Nat := 0
  /-- detaches in progress: the command and the slots it has closed (R242) -/
  detach : Table Nat := []
  /-- messages of a sequence that passed their checks and wait, with the core cycle in which they did (R241, R251) -/
  seqIn : List (Nat × Bytes) := []
  /-- ACKs and NAKs that wait for the shapers to enter their class queue (R386) -/
  ctlQ : List Bytes := []
  deriving DecidableEq, Repr

/-- A peer: local port and remote IP address (R347-R350). -/
structure Peer where
  port : Nat
  ip : BitVec 128
  ipv : Nat
  lastHeard : Nat := 0
  /-- samples within the base window (R339) -/
  owd : List (Nat × Int) := []
  rtt : List (Nat × Nat) := []
  /-- probing: PROBEs sent, when the next step is due -/
  probes : Option (Nat × Nat) := none
  deriving DecidableEq, Repr

-- ------------------------------------------------------------------ armature

/-- A stream record of a plan (R294). -/
structure Stream where
  num : Nat
  kind : Nat
  groups : Nat
  src : Nat
  dst : Nat
  srcLane : Nat
  srcChan : Nat
  dstLane : Nat
  dstChan : Nat
  windowNs : Nat
  sendBeat : Nat
  consumeBeat : Nat
  pathMax : Nat
  sendOff : Nat
  priPort : Nat
  stbPort : Nat
  groupMac : BitVec 48
  deriving DecidableEq, Repr

/-- A shard record of a plan (R294). -/
structure Shard where
  num : Nat
  primary : Nat
  standby : Nat
  unit : Nat
  firing : Nat
  collectBeat : Nat
  deriving DecidableEq, Repr

/-- A plan (R294). -/
structure Plan where
  armId : Nat := 0
  beat : Nat := 64
  cipher : Bool := false
  periodBeats : Nat := 1
  epoch : Nat := 0
  timeBound : Nat := 1
  sMin : Nat := 0
  members : List (Nat × Nat) := []
  shards : List Shard := []
  streams : List Stream := []
  deriving DecidableEq, Repr

/-- R297. -/
inductive ArmState where
  | idle
  | armed
  | running
  deriving DecidableEq, Repr

/-- What an armature holds of one local stream in the present period. -/
structure StreamRun where
  /-- bundle copies that passed their checks: period, groups (66 bytes each as tokens), TAINT, when ready -/
  rx : List (Nat × List (TokKind × DWord) × Bool × Nat) := []
  /-- feed slots read: period, and tokens (none of them where the slot was not right) -/
  feed : List (Nat × List (TokKind × DWord)) := []
  /-- the bundle composed at the collect beat -/
  out : Option (Nat × List (TokKind × DWord)) := none
  sentPeriod : Option Nat := none
  done : Option Nat := none
  late : Nat := 0
  deriving DecidableEq, Repr

/-- What an armature holds of one local shard. -/
structure ShardRun where
  promoted : Bool := false
  demoted : Bool := false
  pendPromote : Bool := false
  pendDemote : Bool := false
  tainted : Option Nat := none
  /-- period up to which it sends nothing (R292) -/
  muteUntil : Option Nat := none
  collected : Option Nat := none
  /-- exit tokens discarded because they came after the collect beat -/
  lateTokens : Nat := 0
  deriving DecidableEq, Repr

/-- An armature slot (R267-R309). -/
structure Armature where
  st : ArmState := .idle
  owner : Nat := 0
  plan : Plan := {}
  member : Nat := 0
  key : BitVec 256 := 0
  /-- feed and result rings: stream, slots, base -/
  rings : List (Nat × Nat × Nat) := []
  startK : Nat := 0
  startCmd : Option Nat := none
  period : Nat := 0
  /-- stops: at period K, or at the next period start, with their commands -/
  stopAt : List (Nat × Option Nat) := []
  timeLost : Bool := false
  removing : Bool := false
  /-- draining after a stop: the commands that complete with it, and whether a unit was squashed -/
  stopping : Option (List Nat × Bool) := none
  streams : Table StreamRun := []
  shards : Table ShardRun := []
  taintedPeriods : Nat := 0
  /-- the period that taintedPeriods counted last -/
  taintSeen : Option Nat := none
  deriving DecidableEq, Repr

-- ------------------------------------------------------------------ time base

/-- R405. -/
inductive TbState where
  | free
  | acquiring
  | locked
  | holdover
  | grandmaster
  deriving DecidableEq, Repr

/-- The time base (R396-R411). -/
structure TimeBase where
  /-- the network clock in 2^-48 ns (R396, R398) -/
  clock : Nat := 0
  /-- it has run since power-on: a function reset keeps it running (R398, R540, R542) -/
  started : Bool := false
  /-- a, in 2^-48 ns per ns -/
  adj : Int := 0
  st : TbState := .free
  /-- TIM_ROLE in force (R400) -/
  role : Word := 0
  /-- time-receiving port, while a master is selected -/
  master : Option Nat := none
  /-- the master's source port identity, as its Announce gave it -/
  masterId : Nat := 0
  /-- the bytes of the selected master's last Announce (R400) -/
  masterMsg : Bytes := []
  /-- the last Announce heard from each sender: port, its source port identity, bytes, when (R400, R403) -/
  foreign : List (Nat × Nat × Bytes × Nat) := []
  /-- the sequence number of a two-step Sync that waits for its Follow_Up (R401) -/
  syncWait : Option Nat := none
  /-- offset estimate in 2^-16 ns (R407) -/
  offset : Int := 0
  /-- F in 2^-16 ppb (R408) -/
  freqUnc : Nat := 0
  goodSyncs : Nat := 0
  lastAnnounce : Nat := 0
  lastSync : Nat := 0
  /-- holdover: E0 in 2^-16 ns, F, and the network clock at entry (R408) -/
  holdE0 : Nat := 0
  holdF : Nat := 0
  holdAt : Nat := 0
  holdErr : Nat := 0
  /-- when TIM_HOLD_ERR is next brought up to date (R408) -/
  holdDue : Nat := 0
  /-- the TIME domain runs on the FAB fallback (R521) -/
  fallback : Bool := false
  ppsOutUntil : Nat := 0
  /-- the second whose start the output pin marked last (R404) -/
  ppsSec : Option Nat := none
  ptpSeq : Nat := 0
  deriving DecidableEq, Repr

-- ------------------------------------------------------------------ faults, management, board

/-- An open record of the witness (R523). -/
structure WitnessRec where
  rep : Report
  time : Nat
  count : Nat
  closeAt : Nat
  deriving DecidableEq, Repr

/-- A history entry of the repair log (R537). -/
structure HistEntry where
  time : Nat
  kind : Nat
  source : Nat
  chan : Nat
  deriving DecidableEq, Repr

/-- A pending spare shift (R527). -/
structure Shift where
  die : Nat
  column : Nat
  row : Nat
  cmd : Option Nat := none
  deadline : Option Nat := none
  moved : Nat := 0
  deriving DecidableEq, Repr

/-- An HBM scrub or initialisation (R491-R493). -/
structure HbmJob where
  blocks : List Nat
  /-- the blocks return to the pool when it ends -/
  freeing : Bool
  cmd : Option Nat := none
  region : Nat := 0
  /-- an instance destroy waits for it -/
  destroyed : Option Nat := none
  deriving DecidableEq, Repr

/-- An HBM region (R488). -/
structure Region where
  owner : Nat
  blocks : List Nat
  deriving DecidableEq, Repr

/-- A mailbox request in progress (R573). -/
structure MboxReq where
  code : Nat
  seq : Byte
  arg : Nat
  deriving DecidableEq, Repr

/-- The management processor (R529-R531, R573). -/
structure Mgmt where
  restarting : Bool := false
  recovery : Bool := false
  failedStarts : Nat := 0
  startedAt : Nat := 0
  startDeadline : Nat := 0
  fwVersion : Word := 0
  fwDate : Word := 0
  /-- the firmware image in flash; none after a write cut short (R530) -/
  flash : Option Bytes := some []
  writing : Option (Bytes × Nat) := none
  activate : Option Nat := none
  mbox : Option MboxReq := none
  deriving DecidableEq, Repr

/-- A PCIe link (R425, R585). -/
structure Link where
  up : Bool := false
  gen : Nat := 7
  perst : Bool := false
  deriving DecidableEq, Repr

/-- A generation service of an instance (R239-R242, R266). -/
structure Service where
  attached : List Nat := []
  counters : Table Nat := []
  deriving DecidableEq, Repr

/-- A die return in progress (R528). -/
structure DieReturn where
  die : Nat
  cmd : Option Nat
  deriving DecidableEq, Repr

/-- The adapter. -/
structure State where
  /-- commands waiting, first in, first out -/
  pending : List Instr := []
  /-- MODEL: elapsed time in 1/600 ns; a core cycle is 375, a FAB cycle 500, a TIME cycle 600 of them (log entry 1) -/
  now : Nat := 0
  /-- MODEL: how many free values have been drawn (log entry 2) -/
  fresh : Nat := 0
  /-- MODEL: the next identity of a command, message or ring record -/
  nextId : Nat := 0
  /-- MODEL: what has left the adapter, newest first (log entry 10) -/
  out : List Output := []
  /-- elapsed time at the last reset (R545) -/
  resetAt : Nat := 0
  /-- BAR0 registers that differ from their reset value, by absolute offset (R563) -/
  regs : Table Word := []
  tb : TimeBase := {}
  links : Table Link := []
  /-- rings by key (Ops.ringKey) -/
  rings : Table Ring := []
  cmds : List PendCmd := []
  /-- the instance whose command ring was served last (round robin, R459) -/
  rrLast : Nat := 0
  /-- the instance whose send work was served last, and of each instance the queue pair (round robin, R351) -/
  srvLast : Nat := 0
  srvQps : Table Nat := []
  /-- the FAB cycle in which the adapter last set register bits, and those bits: a write cannot clear them in that cycle (R8) -/
  setCycle : Nat := 0
  setBits : Table Nat := []
  mrs : Table MemRegion := []
  instances : Table Instance := []
  clusters : Table Cluster := []
  units : Table MUnit := []
  /-- reply sequence number by instance*64+binding (R66) -/
  replySeq : Table (BitVec 32) := []
  /-- binding counters by (instance*64+binding)*32+counter (R96) -/
  bindCounters : Table Nat := []
  /-- steer and mirror tables by ((instance*64+binding)*2+table)*256+index (R465) -/
  tables : Table TableEntry := []
  /-- entries before their last BIND_TABLE, with its FAB cycle: verdicts ready by then use them (R465, R474) -/
  tablesOld : Table (Nat × TableEntry) := []
  msgs : Table Message := []
  -- the array
  cores : Table CoreShelf := []
  /-- input queues by (core*4+direction)*4+shelf -/
  inqs : Table InQ := []
  xfifos : Table XFifo := []
  /-- the cycle in which each core last fired, plus one (R101) -/
  coreFired : Table Nat := []
  /-- slots taken on exit links (core*4+direction), as the cycles of the tokens (R163) -/
  exitSlots : Table (List Nat) := []
  /-- core SRAM bytes by space*2^16+address, the space being the core, or 20 480 + the core under a shifted setting (R527);
  cluster SRAM bytes by space*2^20+address likewise, with 1 280; unlisted bytes are zero -/
  csram : Table Byte := []
  clsram : Table Byte := []
  clPend : List ClAccess := []
  /-- join watchdog: by (core*4+shelf)*256+entry, the cycle from which the condition has held (R171) -/
  joinSince : Table Nat := []
  /-- joins whose count has reached ARR_JOIN_WDOG, with the value it reached, until their condition ends (R171, R172) -/
  joinDone : Table Nat := []
  /-- ARR_JOIN_WDOG before a write in a cycle: the new value applies from the next one (R173) -/
  wdogPrev : Option (Nat × Nat) := none
  /-- MODEL: credits are not counted: the loader's schedule without stalls (R167); false on the chip -/
  noStall : Bool := false
  /-- HBM bytes by region*2^37+offset; unlisted bytes are zero (R491) -/
  hbm : Table Byte := []
  regions : Table Region := []
  freeBlocks : List Nat := List.range 368
  hbmJobs : List HbmJob := []
  -- ports
  /-- port split code (R355) -/
  split : Nat := 0
  splitCmd : Option Nat := none
  ports : Table Port := []
  /-- class buckets by (port*8+class)*2+rx, instance buckets by 1024+instance*2+rx, QP buckets by 4096+qp*2+rx -/
  buckets : Table Bucket := []
  rxBufUsed : Nat := 0
  tlmMask : Nat := 0
  tlmOn : Bool := false
  tlmGap : Nat := 0
  lfsr : Word := 1
  /-- filter entries in effect, HI above LO, by port*256+entry: as they stood when LO was last written (R363) -/
  filters : Table DWord := []
  /-- the entries before their last write, with its FAB cycle: a frame at its classification point in that cycle uses them (R392) -/
  filtersOld : Table (Nat × DWord) := []
  /-- entries whose instance was destroyed since they were written: they discard their frames (R497) -/
  filtersLapsed : List Nat := []
  -- transport
  qps : Table Qp := []
  peers : Table Peer := []
  services : Table Service := []
  /-- RESULT messages that wait for their 500 ns, by the unit that reports (R248) -/
  results : List (Nat × GenResult) := []
  arms : Table Armature := []
  /-- stops of armatures destroyed since, still draining: their commands, their units, and whether one was squashed (R297) -/
  armStops : List (List Nat × List Nat × Bool) := []
  -- faults, power, board
  /-- error events of each channel, as elapsed times, by kind*2^32+number (R517) -/
  errors : Table (List Nat) := []
  /-- channels retired by the adapter, and by FLT_RETIRE (R518) -/
  retired : List Channel := []
  byHand : List Channel := []
  /-- shifted columns: die*16+cx to the logical row (R17, R537) -/
  shifts : Table Nat := []
  shiftPend : List Shift := []
  history : List HistEntry := []
  histLost : Nat := 0
  witness : List WitnessRec := []
  /-- redundant lanes used, by link*16+module (R13) -/
  lanesUsed : Table Nat := []
  correctedOnce : List MemLoc := []
  remaps : Table Nat := []
  pllStandby : BitVec 4 := 0xF#4
  dieUp : BitVec 4 := 0
  /-- PWREN_CD0-3 (R582) -/
  pwren : BitVec 4 := 0
  dieReturn : Option DieReturn := none
  /-- dies whose rail came up within tolerance (R582), and dies lost since then (R28) -/
  dieRail : BitVec 4 := 0
  dieLost : BitVec 4 := 0
  /-- effective hottest reading of each domain in degrees, as last sampled (R38) -/
  temps : Table Nat := []
  hotNow : BitVec 5 := 0
  /-- sensors at 110 degrees or more: consecutive samples by sensor number (R39) -/
  hotRuns : Table Nat := []
  alert : Bool := true
  pkgShdn : Bool := true
  iodLost : Bool := false
  poweredDown : Bool := false
  mgmt : Mgmt := {}
  deriving DecidableEq, Repr

/-- The machine right after power-on reset (R539): every register at its reset value (regs lists none, so each reads
Ops.regReset), GLB_RESET_CAUSE showing POWER_ON, nothing ready, no instance, no unit, memory zero, the queue empty. -/
def State.reset : State :=
  { links := [(0, { up := true }), (1, { up := true })] }

end Sys2Proof.Machine
end

