-- ==== Sys2Proof/Machine/Tables.lean ====
section
/-! DEFINITION. Keyed tables in canonical form (strictly rising keys), byte strings in both byte orders (R2, R3), bit fields
and small arithmetic. -/

namespace Sys2Proof.Machine

open Sys2Proof

-- ------------------------------------------------------------------ tables

/-- The value a table gives a key, if it lists the key. -/
def tget {α : Type} : Table α → Nat → Option α
  | [], _ => none
  | (k', v) :: t, k => if k = k' then some v else tget t k

/-- The value a table gives a key, with the value of an unlisted key. -/
def tgetD {α : Type} (t : Table α) (k : Nat) (d : α) : α := (tget t k).getD d

/-- Writes a key, keeping the keys strictly rising. -/
def tset {α : Type} : Table α → Nat → α → Table α
  | [], k, v => [(k, v)]
  | (k', v') :: t, k, v =>
    if k < k' then (k, v) :: (k', v') :: t
    else if k = k' then (k, v) :: t
    else (k', v') :: tset t k v

/-- Removes a key. -/
def tdel {α : Type} : Table α → Nat → Table α
  | [], _ => []
  | (k', v') :: t, k => if k = k' then tdel t k else (k', v') :: tdel t k

/-- Applies a function to a listed key's value. -/
def tmod {α : Type} (t : Table α) (k : Nat) (f : α → α) : Table α :=
  match tget t k with
  | none => t
  | some v => tset t k (f v)

/-- Applies a function to a key's value, a default standing for an unlisted key. -/
def tmodD {α : Type} (t : Table α) (k : Nat) (d : α) (f : α → α) : Table α := tset t k (f (tgetD t k d))

/-- Writes a key of a table whose unlisted keys read as d: writing d removes the entry, so equal tables are equal data. -/
def tsetD {α : Type} [DecidableEq α] (t : Table α) (k : Nat) (d v : α) : Table α :=
  if v = d then tdel t k else tset t k v

/-- The canonical form: every key is below every later key. -/
def twf {α : Type} (t : Table α) : Bool := (t.map Prod.fst).Pairwise (· < ·)

/-- The canonical form of a byte memory, whose unlisted addresses read zero: addresses strictly rising, no zero listed. -/
def Memory.wf (m : Table Byte) : Bool := twf m && m.all fun x => x.2 ≠ 0#8

def tkeys {α : Type} (t : Table α) : List Nat := t.map Prod.fst

def tvals {α : Type} (t : Table α) : List α := t.map Prod.snd

/-- The lowest number from k on, among the next n, that p accepts. -/
def lowestFrom (p : Nat → Bool) : Nat → Nat → Option Nat
  | 0, _ => none
  | n + 1, k => if p k then some k else lowestFrom p n (k + 1)

/-- The lowest number below n that is not a key. -/
def lowestFree {α : Type} (t : Table α) (n : Nat) : Option Nat := lowestFrom (fun k => (tget t k).isNone) n 0

-- ------------------------------------------------------------------ bit fields

/-- Bits [hi:lo] of a number. -/
def bits (v hi lo : Nat) : Nat := v / 2 ^ lo % 2 ^ (hi + 1 - lo)

/-- Bit i of a number. -/
def bit (v i : Nat) : Bool := v / 2 ^ i % 2 = 1

def b2n (b : Bool) : Nat := if b then 1 else 0

/-- A field of w bits read as a two's complement number. -/
def sgn (w v : Nat) : Int := if v % 2 ^ w < 2 ^ (w - 1) then (v % 2 ^ w : Nat) else (v % 2 ^ w : Nat) - 2 ^ w

/-- A number as a two's complement field of w bits. -/
def twos (w : Nat) (x : Int) : Nat := (x % (2 ^ w : Int)).toNat

/-- Sets bits [hi:lo] of a number. -/
def putBits (v hi lo x : Nat) : Nat :=
  v % 2 ^ lo + x % 2 ^ (hi + 1 - lo) * 2 ^ lo + v / 2 ^ (hi + 1) * 2 ^ (hi + 1)

def ceilDiv (a b : Nat) : Nat := (a + b - 1) / b

/-- Rounds up to a multiple. -/
def roundUp (a b : Nat) : Nat := ceilDiv a b * b

def clampI (lo hi x : Int) : Int := if x < lo then lo else if hi < x then hi else x

/-- A power of two, by trying each exponent below the bound. -/
def isPow2 (n : Nat) : Bool := (List.range 40).any fun k => n = 2 ^ k

/-- ⌊log2 n⌋ for n below 2^128, structurally. -/
def ilog2 (n : Nat) : Nat := ((List.range 128).filter fun k => 2 ^ k ≤ n).getLastD 0

-- ------------------------------------------------------------------ bytes

/-- Byte i of a string; past its end, zero. -/
def byteAt (bs : Bytes) (i : Nat) : Nat := (bs.getD i 0#8).toNat

/-- n bytes from an offset, the first the least significant (R2). -/
def le (bs : Bytes) (off : Nat) : Nat → Nat
  | 0 => 0
  | n + 1 => byteAt bs off + 256 * le bs (off + 1) n

/-- n bytes from an offset, the first the most significant (R3). -/
def be (bs : Bytes) (off n : Nat) : Nat := (List.range n).foldl (fun a i => a * 256 + byteAt bs (off + i)) 0

/-- A number as n bytes, least significant first. -/
def toLe : Nat → Nat → Bytes
  | 0, _ => []
  | n + 1, v => BitVec.ofNat 8 v :: toLe n (v / 256)

/-- A number as n bytes, most significant first. -/
def toBe (n v : Nat) : Bytes := (toLe n v).reverse

/-- len bytes from an offset; bytes past the end are missing. -/
def slice (bs : Bytes) (off len : Nat) : Bytes := (bs.drop off).take len

/-- len bytes from an offset; bytes past the end read zero. -/
def sliceZ (bs : Bytes) (off len : Nat) : Bytes :=
  let s := slice bs off len
  s ++ List.replicate (len - s.length) 0#8

/-- Writes data over bs from an offset, within the length of bs. -/
def overlay (bs : Bytes) (off : Nat) (data : Bytes) : Bytes :=
  let d := data.take (bs.length - off)
  bs.take off ++ d ++ bs.drop (off + d.length)

/-- A little-endian record: fields as (offset, size, value) over zeros. -/
def record (size : Nat) (fs : List (Nat × Nat × Nat)) : Bytes :=
  fs.foldl (fun b f => overlay b f.1 (toLe f.2.1 f.2.2)) (List.replicate size 0#8)

/-- A big-endian structure: fields as (offset, size, value) over zeros. -/
def recordBe (size : Nat) (fs : List (Nat × Nat × Nat)) : Bytes :=
  fs.foldl (fun b f => overlay b f.1 (toBe f.2.1 f.2.2)) (List.replicate size 0#8)

/-- Are the bytes of a range all zero? (reserved fields, R5) -/
def zeroAt (bs : Bytes) (off len : Nat) : Bool := (slice bs off len).all (· = 0#8)

/-- 1 KiB, 1 MiB and a microsecond and a nanosecond in the unit of State.now (log entry 1). -/
def KiB : Nat := 1024
def MiB : Nat := 1048576
def usec : Nat := 600000
def nsec : Nat := 600
def msec : Nat := 600000000
/-- A core cycle of 0.625 ns (R1), a FAB cycle of 1/1.2 ns and a TIME cycle of 1 ns (Clock domains). -/
def coreCycle : Nat := 375
def fabCycle : Nat := 500
def timeCycle : Nat := 600

end Sys2Proof.Machine
end

