-- ==== Sys2Proof/Machine/Numeric.lean ====
section
/-! DEFINITION. The number formats (R126), rounding, overflow and special values (R127-R132), and the functions of FN (R131).
Every value is an exact dyadic number m·2^e with a sign until it is rounded once to its destination. -/

namespace Sys2Proof.Machine

open Sys2Proof

/-- A floating-point value: exact until rounded. -/
inductive Fp where
  | nan
  | inf (neg : Bool)
  | fin (neg : Bool) (m : Nat) (e : Int)
  deriving DecidableEq, Repr

/-- How a format spends its greatest exponent. -/
inductive TopExp where
  /-- infinities and NaNs (FP32, BF16, E5M2) -/
  | ieee
  /-- all ones is NaN, everything else finite (E4M3) -/
  | nanOnly
  /-- all finite (MXFP6, MXFP4) -/
  | finite
  deriving DecidableEq, Repr

/-- A floating-point format: exponent bits, stored significand bits, bias. -/
structure FpFmt where
  ebits : Nat
  mbits : Nat
  bias : Nat
  top : TopExp
  deriving DecidableEq, Repr

/-- The format codes of R126 that are floating-point. -/
def fpFmt : Nat → Option FpFmt
  | 3 => some ⟨4, 3, 7, .nanOnly⟩
  | 4 => some ⟨5, 2, 15, .ieee⟩
  | 5 => some ⟨8, 7, 127, .ieee⟩
  | 6 => some ⟨8, 23, 127, .ieee⟩
  | 8 => some ⟨4, 3, 7, .nanOnly⟩
  | 9 => some ⟨5, 2, 15, .ieee⟩
  | 10 => some ⟨2, 3, 1, .finite⟩
  | 11 => some ⟨3, 2, 3, .finite⟩
  | 12 => some ⟨2, 1, 1, .finite⟩
  | _ => none

def fp32Fmt : FpFmt := ⟨8, 23, 127, .ieee⟩

/-- Element width of a format code (R126). -/
def fmtWidth : Nat → Nat
  | 0 => 64
  | 1 => 8
  | 2 => 4
  | 3 => 8
  | 4 => 8
  | 5 => 16
  | 6 => 32
  | 7 => 32
  | 8 => 8
  | 9 => 8
  | 10 => 6
  | 11 => 6
  | 12 => 4
  | _ => 0

/-- Lanes per token of a format code (R126). -/
def fmtLanes : Nat → Nat
  | 0 => 1
  | 1 => 8
  | 2 => 16
  | 3 => 8
  | 4 => 8
  | 5 => 4
  | 6 => 2
  | 7 => 2
  | 8 => 8
  | 9 => 8
  | 10 => 8
  | 11 => 8
  | 12 => 16
  | _ => 0

def fmtIsInt (f : Nat) : Bool := f = 0 || f = 1 || f = 2 || f = 7
def fmtIsMx (f : Nat) : Bool := 8 ≤ f && f ≤ 12
def fmtIsPlainFp (f : Nat) : Bool := 3 ≤ f && f ≤ 6

/-- Lane i of a word in a format: bits [b·i + b − 1 : b·i]. -/
def laneOf (f w i : Nat) : Nat := w / 2 ^ (fmtWidth f * i) % 2 ^ fmtWidth f

def lanesOf (f w : Nat) : List Nat := (List.range (fmtLanes f)).map (laneOf f w)

/-- Packs lanes into a word; bits above the last lane are zero. -/
def packLanes (f : Nat) (ls : List Nat) : Nat :=
  (ls.foldr (fun l acc => l % 2 ^ fmtWidth f + 2 ^ fmtWidth f * acc) 0) % 2 ^ 64

-- ------------------------------------------------------------------ decoding and rounding

/-- The value of an encoded element. -/
def fpDecode (k : FpFmt) (w : Nat) : Fp :=
  let neg := bit w (k.ebits + k.mbits)
  let ef := w / 2 ^ k.mbits % 2 ^ k.ebits
  let mf := w % 2 ^ k.mbits
  let topE := 2 ^ k.ebits - 1
  if k.top = .ieee ∧ ef = topE then (if mf = 0 then .inf neg else .nan)
  else if k.top = .nanOnly ∧ ef = topE ∧ mf = 2 ^ k.mbits - 1 then .nan
  else if ef = 0 then .fin neg mf (1 - (k.bias : Int) - k.mbits)
  else .fin neg (mf + 2 ^ k.mbits) ((ef : Int) - k.bias - k.mbits)

/-- The greatest finite value's encoding without its sign. -/
def fpMaxEnc (k : FpFmt) : Nat :=
  match k.top with
  | .ieee => 2 ^ (k.ebits + k.mbits) - 2 ^ k.mbits - 1
  | .nanOnly => 2 ^ (k.ebits + k.mbits) - 2
  | .finite => 2 ^ (k.ebits + k.mbits) - 1

/-- The canonical NaN (R129): the formats without one have none, and give +0 (R138). -/
def fpNanEnc (k : FpFmt) : Nat :=
  match k.top with
  | .ieee => if k.ebits = 5 then 0x7E else 2 ^ (k.ebits + k.mbits) - 2 ^ (k.mbits - 1)
  | .nanOnly => 2 ^ (k.ebits + k.mbits) - 1
  | .finite => 0

def fpSign (k : FpFmt) (neg : Bool) (w : Nat) : Nat := if neg then w + 2 ^ (k.ebits + k.mbits) else w

/-- R129: an overflow. -/
def fpOverflow (k : FpFmt) (rtz sat neg : Bool) : Nat :=
  if sat || rtz || k.top = .finite then fpSign k neg (fpMaxEnc k)
  else match k.top with
    | .ieee => fpSign k neg (2 ^ (k.ebits + k.mbits) - 2 ^ k.mbits)
    | _ => fpNanEnc k

/-- m·2^e as an integer multiple of 2^q, rounded (R127): to nearest with ties to even, or toward zero. -/
def roundAt (rtz : Bool) (m : Nat) (e q : Int) : Nat :=
  if q ≤ e then m * 2 ^ (e - q).toNat
  else
    let s := (q - e).toNat
    let t := m / 2 ^ s
    let r := m % 2 ^ s
    if rtz then t
    else if 2 * r > 2 ^ s ∨ (2 * r = 2 ^ s ∧ t % 2 = 1) then t + 1 else t

/-- Rounds a value once to a format (R127, R129, R130): the encoded element. -/
def fpRound (k : FpFmt) (rtz sat : Bool) : Fp → Nat
  | .nan => fpNanEnc k
  | .inf neg =>
    match k.top with
    | .ieee => fpSign k neg (2 ^ (k.ebits + k.mbits) - 2 ^ k.mbits)
    | _ => fpSign k neg (fpMaxEnc k)
  | .fin neg m e =>
    if m = 0 then fpSign k neg 0
    else
      let emin : Int := 1 - k.bias
      let q : Int := max ((Nat.log2 m : Int) + e) emin - k.mbits
      let t := roundAt rtz m e q
      let (t, q) := if t ≥ 2 ^ (k.mbits + 1) then (t / 2, q + 1) else (t, q)
      if t < 2 ^ k.mbits then fpSign k neg t
      else
        let enc := (q + k.mbits + k.bias).toNat * 2 ^ k.mbits + (t - 2 ^ k.mbits)
        if enc > fpMaxEnc k then fpOverflow k rtz sat neg else fpSign k neg enc

-- ------------------------------------------------------------------ exact arithmetic

/-- A finite value as a signed multiple of 2^e. -/
def fpSigned (neg : Bool) (m : Nat) : Int := if neg then -(m : Int) else m

/-- Exact sum; an exact zero from opposite signs is +0, as in IEEE 754 under RNE and RTZ. -/
def Fp.add : Fp → Fp → Fp
  | .nan, _ => .nan
  | _, .nan => .nan
  | .inf a, .inf b => if a = b then .inf a else .nan
  | .inf a, _ => .inf a
  | _, .inf b => .inf b
  | .fin na ma ea, .fin nb mb eb =>
    let e := min ea eb
    let x := fpSigned na (ma * 2 ^ (ea - e).toNat) + fpSigned nb (mb * 2 ^ (eb - e).toNat)
    if x = 0 then .fin (na && nb) 0 e else .fin (x < 0) x.natAbs e

def Fp.neg : Fp → Fp
  | .nan => .nan
  | .inf a => .inf (!a)
  | .fin a m e => .fin (!a) m e

/-- Exact product; infinity × 0 is NaN (R130). -/
def Fp.mul : Fp → Fp → Fp
  | .nan, _ => .nan
  | _, .nan => .nan
  | .inf a, .inf b => .inf (a != b)
  | .inf a, .fin b m _ => if m = 0 then .nan else .inf (a != b)
  | .fin b m _, .inf a => if m = 0 then .nan else .inf (a != b)
  | .fin na ma ea, .fin nb mb eb => .fin (na != nb) (ma * mb) (ea + eb)

/-- Multiplies by 2^k. -/
def Fp.scale (x : Fp) (k : Int) : Fp :=
  match x with
  | .fin n m e => .fin n m (e + k)
  | y => y

def Fp.ofInt (x : Int) : Fp := .fin (x < 0) x.natAbs 0

def Fp.isNan : Fp → Bool
  | .nan => true
  | _ => false

/-- x < y on values that are not NaN, with −0 less than +0 if z is set. -/
def Fp.lt (z : Bool) : Fp → Fp → Bool
  | .nan, _ => false
  | _, .nan => false
  | .inf a, .inf b => a && !b
  | .inf a, _ => a
  | _, .inf b => !b
  | .fin na ma ea, .fin nb mb eb =>
    let e := min ea eb
    let x := fpSigned na (ma * 2 ^ (ea - e).toNat)
    let y := fpSigned nb (mb * 2 ^ (eb - e).toNat)
    x < y || (z && x = 0 && y = 0 && na && !nb)

/-- R130: NaN if either is NaN; −0 is less than +0. -/
def Fp.max (x y : Fp) : Fp := if x.isNan || y.isNan then .nan else if x.lt true y then y else x
def Fp.min (x y : Fp) : Fp := if x.isNan || y.isNan then .nan else if y.lt true x then y else x

def Fp.abs : Fp → Fp
  | .nan => .nan
  | .inf _ => .inf false
  | .fin _ m e => .fin false m e

/-- A floating-point value as an integer of w bits (R132): rounded by RND, saturating, NaN as 0. -/
def fpToInt (w : Nat) (rtz : Bool) : Fp → Int
  | .nan => 0
  | .inf neg => if neg then -(2 ^ (w - 1)) else 2 ^ (w - 1) - 1
  | .fin neg m e => clampI (-(2 ^ (w - 1))) (2 ^ (w - 1) - 1) (fpSigned neg (roundAt rtz m e 0))

/-- An integer result of w bits (R132): saturated, or its low bits. -/
def intResult (w : Nat) (sat : Bool) (x : Int) : Nat :=
  twos w (if sat then clampI (-(2 ^ (w - 1))) (2 ^ (w - 1) - 1) x else x)

-- ------------------------------------------------------------------ the functions of FN (R131)

/-- Fraction bits of the fixed-point evaluation. Its error is below 2^-440 of the result's scale, far inside the distance of
any FP32 or BF16 input's result from a rounding boundary (DEDUCED: correctly rounded; log entry 13). -/
def fixF : Nat := 512

def fixOne : Int := 2 ^ fixF

def fixMul (a b : Int) : Int := a * b / 2 ^ fixF
def fixDiv (a b : Int) : Int := a * 2 ^ fixF / b

/-- Σ over n below k of a term given by a recurrence: state (sum, power). -/
def fixSum (k : Nat) (p0 : Int) (next : Nat → Int → Int) (term : Nat → Int → Int) : Int :=
  ((List.range k).foldl (fun (a : Int × Int) n => (a.1 + term n a.2, next n a.2)) (0, p0)).1

/-- atanh of a small fixed-point number: Σ z^(2n+1) / (2n+1). -/
def fixAtanh (k : Nat) (z : Int) : Int :=
  let z2 := fixMul z z
  fixSum k z (fun _ p => fixMul p z2) (fun n p => p / (2 * n + 1))

/-- ln 2 = 2·atanh(1/3). -/
def fixLn2 : Int := 2 * fixAtanh 170 (fixOne / 3)

/-- π by Machin's formula, with atan(1/q) as a sum. -/
def fixAtanInv (k q : Nat) : Int :=
  fixSum k (fixOne / q) (fun _ p => -(p / (q * q))) (fun n p => p / (2 * n + 1))

def fixPi : Int := 4 * (4 * fixAtanInv 120 5 - fixAtanInv 40 239)

/-- e^r for |r| below 1. -/
def fixExpSmall (r : Int) : Int := fixSum 100 fixOne (fun n p => fixMul p r / (n + 1)) (fun _ p => p)

/-- ⌊√n⌋, one bit at a time from bit b. -/
def isqrt : Nat → Nat → Nat → Nat
  | 0, _, x => x
  | b + 1, n, x => let y := x + 2 ^ b; isqrt b n (if y * y ≤ n then y else x)

/-- A finite number as fixed point (its bits below 2^-512 are cut). -/
def fixOf (neg : Bool) (m : Nat) (e : Int) : Int :=
  let v : Int := if 0 ≤ e + fixF then m * 2 ^ (e + fixF).toNat else m / 2 ^ (-(e + fixF)).toNat
  if neg then -v else v

/-- A fixed-point number as a value, with a bit below it that keeps it off every rounding boundary. -/
def fixVal (v : Int) (k : Int) : Fp := .fin (v < 0) (2 * v.natAbs + 1) (k - fixF - 1)

/-- e^y as a fixed-point mantissa and a power of two. -/
def expParts (y : Int) : Int × Int :=
  let k := (y + fixLn2 / 2) / fixLn2
  (fixExpSmall (y - k * fixLn2), k)

/-- |x| is at least 2^k, or below it, for a finite value m·2^e. -/
def magGe (m : Nat) (e k : Int) : Bool := m ≠ 0 && k ≤ (Nat.log2 m : Int) + e

/-- A value just off a finite value: x plus a positive (or negative) amount too small to matter but for its sign. -/
def nudge (up : Bool) (x : Fp) : Fp :=
  match x with
  | .fin n m e => x.add (.fin (!up) 1 (min e ((Nat.log2 m : Int) + e) - 200))
  | y => y

def fpTiny (neg : Bool) : Fp := .fin neg 1 (-400)
def fpHuge (neg : Bool) : Fp := .fin neg 1 400
def fpOneV : Fp := .fin false 1 0

/-- e^x·2^0 with x times ln 2 if base2: functions 0 and 1. -/
def fnExp (base2 : Bool) : Fp → Fp
  | .nan => .nan
  | .inf neg => if neg then .fin false 0 0 else .inf false
  | .fin neg m e =>
    if m = 0 then fpOneV
    else if magGe m e 9 then (if neg then fpTiny false else fpHuge false)
    else if base2 ∧ 0 ≤ e then .fin false 1 (fpSigned neg (m * 2 ^ e.toNat))
    else if base2 ∧ m % 2 ^ (-e).toNat = 0 then .fin false 1 (fpSigned neg (m / 2 ^ (-e).toNat))
    else if !magGe m e (-150) then nudge (!neg) fpOneV
    else
      let y := fixOf neg m e
      let r := expParts (if base2 then fixMul y fixLn2 else y)
      fixVal r.1 r.2

/-- log2 x: function 2. -/
def fnLog2 : Fp → Fp
  | .nan => .nan
  | .inf neg => if neg then .nan else .inf false
  | .fin neg m e =>
    if m = 0 then .inf true
    else if neg then .nan
    else
      let l := Nat.log2 m
      if m = 2 ^ l then Fp.ofInt ((l : Int) + e)
      else
        let z := fixOf false m (-(l : Int))
        let ln := 2 * fixAtanh 180 (fixDiv (z - fixOne) (z + fixOne))
        fixVal (fixDiv ln fixLn2 + ((l : Int) + e) * fixOne) 0

/-- A quotient n / d, exact or with a bit below it. -/
def ratio (neg : Bool) (n d : Nat) (e : Int) : Fp :=
  let q := n * 2 ^ 300 / d
  .fin neg (2 * q + (if q * d = n * 2 ^ 300 then 0 else 1)) (e - 301)

def fnRecip : Fp → Fp
  | .nan => .nan
  | .inf neg => .fin neg 0 0
  | .fin neg m e => if m = 0 then .inf neg else ratio neg 1 m (-e)

/-- √ of a finite positive number, exact or with a bit below it. -/
def sqrtParts (m : Nat) (e : Int) : Nat × Int :=
  let (m, e) := if e % 2 = 0 then (m, e) else (2 * m, e - 1)
  let n := m * 2 ^ 400
  let r := isqrt (Nat.log2 n / 2 + 1) n 0
  (2 * r + (if r * r = n then 0 else 1), e / 2 - 201)

def fnSqrt : Fp → Fp
  | .nan => .nan
  | .inf neg => if neg then .nan else .inf false
  | .fin neg m e =>
    if m = 0 then .fin neg 0 0 else if neg then .nan
    else let r := sqrtParts m e; .fin false r.1 r.2

def fnRsqrt : Fp → Fp
  | .nan => .nan
  | .inf neg => if neg then .nan else .fin false 0 0
  | .fin neg m e =>
    if m = 0 then .inf neg else if neg then .nan
    else
      -- 1/√(m·2^e) = √(2^k / m)·2^j with an even exponent
      let (m, e) := if e % 2 = 0 then (m, e) else (2 * m, e - 1)
      let n := 2 ^ 800 / m
      let r := isqrt (Nat.log2 n / 2 + 1) n 0
      .fin false (2 * r + (if r * r = n ∧ n * m = 2 ^ 800 then 0 else 1)) (-(e / 2) - 401)

def fnTanh : Fp → Fp
  | .nan => .nan
  | .inf neg => .fin neg 1 0
  | .fin neg m e =>
    if m = 0 then .fin neg 0 0
    else if magGe m e 7 then nudge neg (.fin neg 1 0)
    else if !magGe m e (-60) then nudge neg (.fin neg m e)
    else
      let r := expParts (2 * fixOf false m e)
      let x := r.1 * 2 ^ r.2.toNat
      let v := fixDiv (x - fixOne) (x + fixOne)
      if neg then fixVal (-v) 0 else fixVal v 0

/-- 1 / (1 + e^(−x)) as a fixed-point number, for |x| below 128. -/
def fixSigmoid (x : Int) : Int :=
  let r := expParts (-x)
  let ex := if 0 ≤ r.2 then r.1 * 2 ^ r.2.toNat else r.1 / 2 ^ (-r.2).toNat
  fixDiv fixOne (fixOne + ex)

def fnSigmoid : Fp → Fp
  | .nan => .nan
  | .inf neg => if neg then .fin false 0 0 else fpOneV
  | .fin neg m e =>
    if m = 0 then .fin false 1 (-1)
    else if magGe m e 7 then (if neg then fpTiny false else nudge false fpOneV)
    else if !magGe m e (-150) then nudge (!neg) (.fin false 1 (-1))
    else fixVal (fixSigmoid (fixOf neg m e)) 0

def fnSilu : Fp → Fp
  | .nan => .nan
  | .inf neg => if neg then .fin true 0 0 else .inf false
  | .fin neg m e =>
    if m = 0 then .fin neg 0 0
    else if magGe m e 7 then (if neg then fpTiny true else nudge false (.fin false m e))
    else if !magGe m e (-60) then nudge true (.fin neg m (e - 1))
    else
      let s := fixSigmoid (fixOf neg m e)
      .fin neg (m * (2 * s.natAbs + 1)) (e - fixF - 1)

/-- √(2/π)·Σ (−1)^n x^(2n+1) / (2^n n! (2n+1)) = erf(x / √2), |x| below 16. -/
def fixErf (x : Int) : Int :=
  let x2 := fixMul x x
  let s := fixSum 700 x (fun n p => -(fixMul p x2 / (2 * (n + 1)))) (fun n p => p / (2 * n + 1))
  let k := fixDiv (2 * fixOne) fixPi
  fixMul s (isqrt (fixF + 1) (k.toNat * 2 ^ fixF) 0)

def fnGelu : Fp → Fp
  | .nan => .nan
  | .inf neg => if neg then .fin true 0 0 else .inf false
  | .fin neg m e =>
    if m = 0 then .fin neg 0 0
    else if magGe m e 4 then (if neg then fpTiny true else nudge false (.fin false m e))
    else if !magGe m e (-60) then nudge true (.fin neg m (e - 1))
    else
      let s := fixOne + fixErf (fixOf neg m e)
      .fin neg (m * (2 * s.natAbs + 1)) (e - fixF - 2)

/-- R131. -/
def fnApply (sel : Nat) (x : Fp) : Fp :=
  match sel with
  | 0 => fnExp false x
  | 1 => fnExp true x
  | 2 => fnLog2 x
  | 3 => fnRecip x
  | 4 => fnRsqrt x
  | 5 => fnSqrt x
  | 6 => fnTanh x
  | 7 => fnSigmoid x
  | 8 => fnSilu x
  | _ => fnGelu x

end Sys2Proof.Machine
end

