-- ==== Sys2Proof/Machine/Engine.lean ====
section
/-! DEFINITION. The operation word (R106, R107), the operation set's formats, latencies and intervals (R114), the loader's checks
of an operation word (R139), and what each operation computes (R110-R138). Firing is in Array.lean. -/

namespace Sys2Proof.Machine

open Sys2Proof

/-- The fields of an operation word (R106). -/
structure OpF where
  op : Nat := 0
  fmt : Nat := 0
  rnd : Nat := 0
  sat : Bool := false
  a : Nat := 0
  b : Nat := 0
  c : Nat := 0
  dstEn : Bool := false
  dst : Nat := 0
  outMask : Nat := 0
  chan : Nat := 0
  cen : Bool := false
  csel : Nat := 0
  emitWrap : Bool := false
  markWrap : Bool := false
  clearWrap : Bool := false
  lvl : Nat := 0
  wfmt : Nat := 0
  aux : Nat := 0
  /-- a reserved bit is set -/
  resv : Bool := false
  deriving DecidableEq, Repr

def opDecode (w : OpWord) : OpF :=
  let v := w.toNat
  { op := bits v 127 120, fmt := bits v 119 116, rnd := bits v 115 114, sat := bit v 113, a := bits v 111 100,
    b := bits v 99 88, c := bits v 87 76, dstEn := bit v 75, dst := bits v 74 70, outMask := bits v 69 66,
    chan := bits v 59 56, cen := bit v 55, csel := bits v 54 53, emitWrap := bit v 52, markWrap := bit v 51,
    clearWrap := bit v 50, lvl := bits v 49 46, wfmt := bits v 45 42, aux := bits v 31 0,
    resv := bit v 112 || bits v 65 60 ≠ 0 || bits v 41 32 ≠ 0 }

-- sources (R107)
def srcKind (x : Nat) : Nat := bits x 11 9
def srcIsQueue (x : Nat) : Bool := srcKind x = 2
def srcPeek (x : Nat) : Bool := bit x 8
def srcCw (x : Nat) : Bool := bit x 7
def srcMi (x : Nat) : Bool := bit x 6
def srcDir (x : Nat) : Nat := bits x 5 4
def srcChan (x : Nat) : Nat := bits x 3 0
/-- A queue source that consumes a token at each firing. -/
def srcEats (x : Nat) : Bool := srcIsQueue x && !srcPeek x
def srcMarked (x : Nat) : Bool := srcIsQueue x && !srcPeek x && !srcCw x && !srcMi x

-- memory fields of AUX (R110)
def auxAreg (f : OpF) : Nat := bits f.aux 31 27
def auxStride (f : OpF) : Nat := bits f.aux 26 16
def auxOff (f : OpF) : Nat := bits f.aux 15 0
/-- The format selector AUX[3:0]. -/
def auxFmt (f : OpF) : Nat := bits f.aux 3 0

def opMemKind (f : OpF) : Option Nat :=
  if srcKind f.b = 5 then some 0 else if srcKind f.b = 6 then some 1 else none

/-- The condition-coded operations: FMT is a condition (R116). -/
def opIsCond (op : Nat) : Bool := op = 0x1C || op = 0x41

def opKnown (op : Nat) : Bool :=
  op ≤ 6 || (0x10 ≤ op && op ≤ 0x1C) || (0x20 ≤ op && op ≤ 0x2B) || op = 0x30 || (0x40 ≤ op && op ≤ 0x43)

/-- Formats an operation accepts (R114). -/
def opFmtOk (op fmt : Nat) : Bool :=
  if op = 0x01 then fmt ≤ 12
  else if opIsCond op then fmt ≤ 13
  else if op = 0x20 || op = 0x21 || op = 0x22 || op = 0x24 || op = 0x25 || op = 0x26 || op = 0x27 then
    [1, 7, 3, 4, 5, 6].contains fmt
  else if op = 0x23 then [3, 4, 5, 6].contains fmt
  else if op = 0x28 || op = 0x2A || op = 0x2B then fmt = 5 || fmt = 6
  else if op = 0x29 then fmt ≤ 12
  else if op = 0x30 then [1, 2, 3, 4, 5, 8, 9, 10, 11, 12].contains fmt
  else fmt = 0

/-- LAT of R114. -/
def opLat (f : OpF) : Nat :=
  if f.op = 0x02 || f.op = 0x03 then (if srcKind f.b = 6 then 24 else 2)
  else if f.op = 0x12 then 3
  else if f.op = 0x20 || f.op = 0x21 || f.op = 0x22 then (if fmtIsInt f.fmt then 2 else 4)
  else if f.op = 0x23 || f.op = 0x26 || f.op = 0x2B then 4
  else if f.op = 0x24 || f.op = 0x25 || f.op = 0x27 || f.op = 0x2A || f.op = 0x41 then 2
  else if f.op = 0x28 then 6
  else if f.op = 0x29 then 3
  else if f.op = 0x30 then (if srcKind f.b = 6 then 28 else 5)
  else 1

/-- Output tokens per input token of a widening CVT; 1 otherwise (R115). -/
def cvtOut (f : OpF) : Nat :=
  if f.op = 0x29 ∧ fmtLanes (auxFmt f) < fmtLanes f.fmt then fmtLanes f.fmt / fmtLanes (auxFmt f) else 1

/-- Input tokens per output token of a packing CVT or of QNT; 1 otherwise (R115, R138). -/
def packIn (f : OpF) : Nat :=
  if (f.op = 0x29 ∨ f.op = 0x2B) ∧ fmtLanes f.fmt < fmtLanes (auxFmt f) then fmtLanes (auxFmt f) / fmtLanes f.fmt else 1

/-- The initiation interval (R114, R115). -/
def opII (f : OpF) : Nat := ceilDiv (cvtOut f) 2

/-- ROWS of a DOT (R134). -/
def dotRows (f : OpF) : Nat := if f.fmt = 10 ∨ f.fmt = 11 then 4 else 2

/-- T, tokens per MX block (R126, R134). -/
def blockTokens (fmt : Nat) : Nat := if fmt = 12 then 2 else 4

def dotWfmt (f : OpF) : Nat := if f.wfmt = 0 then f.fmt else f.wfmt

/-- Bytes of a DOT weight record (R136). -/
def dotRecBytes (f : OpF) : Nat := dotRows f * fmtLanes f.fmt * fmtWidth (dotWfmt f) / 8

/-- WFMT of a DOT (R136). -/
def dotWfmtOk (f : OpF) : Bool :=
  let w := dotWfmt f
  w ≤ 12 && fmtWidth w ≤ fmtWidth f.fmt && 0 < fmtWidth w &&
  (if fmtIsInt f.fmt then fmtIsInt w else if fmtIsMx f.fmt then fmtIsMx w else fmtIsPlainFp w)

/-- Is a source field well formed: reserved kind, reserved bits (R107)? -/
def srcFieldOk (x : Nat) : Bool :=
  match srcKind x with
  | 0 => bits x 8 0 = 0
  | 1 => bits x 8 5 = 0
  | 2 => true
  | 3 => bits x 8 2 = 0
  | 4 => bits x 8 0 = 0
  | 5 => bits x 8 0 = 0
  | 6 => bits x 8 0 = 0
  | _ => false

/-- R139 for one operation word, with the shelf's core and cluster partition sizes. What no bullet of R139 refuses loads: SRC_B of BFX that is no
immediate, a register for SETC (R114: A[31:0] then), a memory SRC_B of an operation whose row names none (DESIGN CHOICE; log entry 94). -/
def opLoadOk (f : OpF) (cs cl : Nat) : Bool :=
  let mem := fun x => srcKind x = 5 || srcKind x = 6
  let memOp := f.op = 0x02 || f.op = 0x03 || f.op = 0x04 || f.op = 0x30
  opKnown f.op && f.rnd ≤ 1 && !f.resv && srcFieldOk f.a && srcFieldOk f.b && srcFieldOk f.c
  && opFmtOk f.op f.fmt
  && (f.op = 0x30 || f.wfmt = 0)
  && (f.op = 0 || (srcIsQueue f.a && ([f.a, f.b, f.c].any srcEats)))
  && !mem f.a && !mem f.c
  && !(mem f.b && (srcKind f.a = 4 || srcKind f.c = 4))
  && (!memOp || mem f.b)
  && !(srcKind f.b = 5 && cs = 0) && !(srcKind f.b = 6 && cl = 0)
  && !(f.op = 0x30 && srcKind f.b = 6 && 16 < dotRecBytes f)
  && (if f.op = 0x30 then dotWfmtOk f else true)
  && (if f.op = 0x30 && fmtIsMx f.fmt then 0 < cs && f.cen else true)
  && (if f.op = 0x30 || f.op = 0x26 || f.op = 0x27 || f.op = 0x2A then f.dstEn else true)
  && (if f.op = 0x2A then f.cen && f.emitWrap else true)
  && (if f.op = 0x30 && dotRows f = 4 then f.dst % 2 = 0 else true)
  && !(([f.a, f.b, f.c].any fun x => srcIsQueue x && srcCw x) && !f.cen)
  && !((f.emitWrap || f.markWrap || f.clearWrap) && !f.cen)
  && !((f.op = 0x04 || f.op = 0x05 || f.op = 0x40) && (f.outMask ≠ 0 || f.dstEn))
  && (if f.op = 0x42 then 2 ≤ (List.range 4).countP fun i => bit f.outMask i else true)
  && (if f.op = 0x28 then auxFmt f ≤ 9 else true)
  && (if f.op = 0x29 then auxFmt f ≤ 7 && cvtOut f ≤ 4 && packIn f ≤ 4 else true)
  && (if f.op = 0x2A || f.op = 0x2B then fmtIsMx (auxFmt f) else true)

/-- Directions an operation emits in, in the order N, E, S, W (R106, R125). -/
def opOuts (f : OpF) : List Nat := (List.range 4).filter fun d => bit f.outMask (3 - d)

/-- Directions and channels an operation consumes (R108). -/
def opPairs (f : OpF) : List (Nat × Nat) :=
  if f.op = 0 then [] else ([f.a, f.b, f.c].filter srcEats).map fun x => (srcDir x, srcChan x)

/-- An immediate operand (R107): sign-extended, or copied into every lane of a lane operation. -/
def immValue (f : OpF) : Nat :=
  if 0x20 ≤ f.op ∧ f.op ≤ 0x2B ∧ fmtWidth f.fmt ≤ 32 then
    packLanes f.fmt ((List.range (fmtLanes f.fmt)).map fun _ => f.aux % 2 ^ fmtWidth f.fmt)
  else twos 64 (sgn 32 f.aux)

-- ------------------------------------------------------------------ what an operation computes

/-- The outcome of a data-mode firing's computation. -/
structure FireOut where
  /-- the result tokens, before EMIT_WRAP is applied -/
  toks : List DWord := []
  /-- what DST and g[DST + 1] take -/
  dst : Option DWord := none
  dst2 : Option DWord := none
  st : OpState := {}
  deriving DecidableEq, Repr

def dw (n : Nat) : DWord := BitVec.ofNat 64 n

/-- The scalar operations on 64-bit integers (R114). BFX takes the place and the length of its field from AUX, as its Result says,
also where SRC_B is no immediate, a form that its Sources do not give (DESIGN CHOICE; log entry 94). -/
def alu64 (f : OpF) (a b : Nat) : Nat :=
  let A := dw a
  let B := dw b
  (match f.op with
   | 0x10 => A + B
   | 0x11 => A - B
   | 0x12 => A * B
   | 0x13 => A &&& B
   | 0x14 => A ||| B
   | 0x15 => A ^^^ B
   | 0x16 => A <<< (b % 64)
   | 0x17 => A >>> (b % 64)
   | 0x18 => A.sshiftRight (b % 64)
   | 0x19 => if A.toInt ≤ B.toInt then A else B
   | 0x1A => if A.toInt ≤ B.toInt then B else A
   | _ => dw (a / 2 ^ bits f.aux 5 0 % 2 ^ (bits f.aux 11 6 + 1))).toNat

/-- The conditions of CMP and SELGEN (R116). -/
def condHolds (cc a b : Nat) : Bool :=
  let x := sgn 64 a
  let y := sgn 64 b
  let p := fpDecode fp32Fmt (a % 2 ^ 32)
  let q := fpDecode fp32Fmt (b % 2 ^ 32)
  let lt := p.lt false q
  let gt := q.lt false p
  let un := p.isNan || q.isNan
  match cc with
  | 0 => x = y
  | 1 => x ≠ y
  | 2 => x < y
  | 3 => x ≤ y
  | 4 => y < x
  | 5 => y ≤ x
  | 6 => a < b
  | 7 => a ≤ b
  | 8 => !un && !lt && !gt
  | 9 => un || lt || gt
  | 10 => !un && lt
  | 11 => !un && !gt
  | 12 => !un && gt
  | _ => !un && !lt

def fpOf (fmt w : Nat) : Fp :=
  match fpFmt fmt with
  | some k => fpDecode k w
  | none => .nan

def fpTo (fmt : Nat) (f : OpF) (x : Fp) : Nat :=
  match fpFmt fmt with
  | some k => fpRound k (f.rnd = 1) f.sat x
  | none => 0

/-- A lane-wise operation on two lanes (VADD, VSUB, VMUL, VMAX, VMIN: R114, R127-R132). -/
def laneOp (f : OpF) (a b : Nat) : Nat :=
  if fmtIsInt f.fmt then
    let w := fmtWidth f.fmt
    let x := sgn w a
    let y := sgn w b
    match f.op with
    | 0x20 => intResult w f.sat (x + y)
    | 0x21 => intResult w f.sat (x - y)
    | 0x22 => intResult w f.sat (x * y)
    | 0x24 => twos w (max x y)
    | _ => twos w (min x y)
  else
    let x := fpOf f.fmt a
    let y := fpOf f.fmt b
    fpTo f.fmt f (match f.op with
      | 0x20 => x.add y
      | 0x21 => x.add y.neg
      | 0x22 => x.mul y
      | 0x24 => x.max y
      | _ => x.min y)

def laneMap2 (f : OpF) (a b : Nat) : Nat :=
  packLanes f.fmt ((List.range (fmtLanes f.fmt)).map fun i => laneOp f (laneOf f.fmt a i) (laneOf f.fmt b i))

def laneFma (f : OpF) (a b c : Nat) : Nat :=
  packLanes f.fmt ((List.range (fmtLanes f.fmt)).map fun i =>
    fpTo f.fmt f (((fpOf f.fmt (laneOf f.fmt a i)).mul (fpOf f.fmt (laneOf f.fmt b i))).add (fpOf f.fmt (laneOf f.fmt c i))))

def laneFn (f : OpF) (a : Nat) : Nat :=
  packLanes f.fmt ((List.range (fmtLanes f.fmt)).map fun i => fpTo f.fmt f (fnApply (auxFmt f) (fpOf f.fmt (laneOf f.fmt a i))))

/-- VSUM: DST[31:0] plus the exact sum of the lanes, rounded once (R114, R127, R132). -/
def vsum (f : OpF) (acc a : Nat) : Nat :=
  if fmtIsInt f.fmt then
    intResult 32 f.sat (sgn 32 acc + ((lanesOf f.fmt a).map (sgn (fmtWidth f.fmt))).sum)
  else fpTo 6 f ((lanesOf f.fmt a).foldl (fun s l => s.add (fpOf f.fmt l)) (fpDecode fp32Fmt (acc % 2 ^ 32)))

def vmaxr (f : OpF) (acc a : Nat) : Nat :=
  if fmtIsInt f.fmt then
    twos 32 ((lanesOf f.fmt a).foldl (fun s l => max s (sgn (fmtWidth f.fmt) l)) (sgn 32 acc))
  else fpTo 6 f ((lanesOf f.fmt a).foldl (fun s l => s.max (fpOf f.fmt l)) (fpDecode fp32Fmt (acc % 2 ^ 32)))

/-- One lane of CVT (R132, R133). -/
def cvtLane (f : OpF) (scale l : Nat) : Nat :=
  let dst := auxFmt f
  if fmtIsInt f.fmt then
    let x := sgn (fmtWidth f.fmt) l
    if fmtIsInt dst then intResult (fmtWidth dst) f.sat x else fpTo dst f (Fp.ofInt x)
  else
    let x := fpOf f.fmt l
    let x := if fmtIsMx f.fmt then (if scale = 0xFF then .nan else x.scale ((scale : Int) - 127)) else x
    if fmtIsInt dst then twos (fmtWidth dst) (fpToInt (fmtWidth dst) (f.rnd = 1) x) else fpTo dst f x

/-- One lane of QNT (R138): always saturating; a NaN is NaN in MXFP8 and +0 below; s = 0xFF gives +0. -/
def qntLane (f : OpF) (scale l : Nat) : Nat :=
  if scale = 0xFF then 0
  else
    match fpFmt (auxFmt f) with
    | none => 0
    | some k =>
      match (fpOf f.fmt l).scale (127 - (scale : Int)) with
      | .inf neg => fpSign k neg (fpMaxEnc k)
      | x => fpRound k (f.rnd = 1) true x

/-- Result lanes gathered into tokens of the destination format: k tokens at once, or one token when the buffer fills
(R115, R138). -/
def gather (f : OpF) (st : OpState) (ls : List Nat) : List DWord × OpState :=
  let dst := auxFmt f
  let n := fmtLanes dst
  if n ≤ ls.length then
    ((List.range (ls.length / n)).map fun i => dw (packLanes dst ((ls.drop (i * n)).take n)), st)
  else
    let all := ((List.range st.packed).map fun i => laneOf dst st.pack.toNat i) ++ ls
    if n ≤ all.length then ([dw (packLanes dst (all.take n))], { st with pack := 0, packed := 0 })
    else ([], { st with pack := dw (packLanes dst all), packed := all.length })

/-- e of R137 for an element format. -/
def amaxE (fmt : Nat) : Int := match fmt with | 12 => 2 | 10 => 2 | 11 => 4 | 8 => 8 | _ => 15

/-- The MX scale byte of a group (R137). -/
def amaxScale (f : OpF) (st : OpState) : Nat :=
  if st.runBad then 0xFF
  else match fpDecode fp32Fmt st.runMax.toNat with
    | .fin _ m e => if m = 0 then 0 else (clampI 0 254 ((Nat.log2 m : Int) + e - amaxE (auxFmt f) + 127)).toNat
    | _ => 0xFF

/-- AMAX's running maximum (R117, R137), kept as FP32. -/
def amaxStep (f : OpF) (st : OpState) (a : Nat) : OpState :=
  (lanesOf f.fmt a).foldl (fun st l =>
    match (fpOf f.fmt l).abs with
    | .fin n m e =>
      { st with runMax := dw (fpRound fp32Fmt true false ((Fp.fin n m e).max (fpDecode fp32Fmt st.runMax.toNat))) }
    | _ => { st with runBad := true }) st

/-- The exact row sum p_j of a DOT with its scales, for floating-point formats (R134). DESIGN CHOICE (log entry 108): the sum starts at +0, so a row whose
products are all -0 has the sum +0. -/
def dotRowFp (f : OpF) (a : Nat) (weights : List Nat) (scale : Option Int) : Fp :=
  let p := ((lanesOf f.fmt a).zip weights).foldl (fun s (x : Nat × Nat) =>
    s.add ((fpOf f.fmt x.1).mul (fpOf (dotWfmt f) x.2))) (.fin false 0 0)
  match scale with
  | some k => p.scale k
  | none => p

/-- The weights of row j of a weight record (R136). -/
def dotWeights (f : OpF) (rec : Bytes) (j : Nat) : List Nat :=
  let all := le rec 0 rec.length
  let w := fmtWidth (dotWfmt f)
  (List.range (fmtLanes f.fmt)).map fun i => all / 2 ^ (w * (j * fmtLanes f.fmt + i)) % 2 ^ w

/-- One row's new accumulator (R134). -/
def dotAcc (f : OpF) (acc a : Nat) (rec : Bytes) (sa : Nat) (sw : Bytes) (j : Nat) : Nat :=
  let ws := dotWeights f rec j
  if fmtIsInt f.fmt then
    intResult 32 f.sat (sgn 32 acc + (((lanesOf f.fmt a).zip ws).map fun (x : Nat × Nat) =>
      sgn (fmtWidth f.fmt) x.1 * sgn (fmtWidth (dotWfmt f)) x.2).sum)
  else
    let swj := byteAt sw j
    let p :=
      if fmtIsMx f.fmt then
        (if sa = 0xFF ∨ swj = 0xFF then .nan else dotRowFp f a ws (some ((sa : Int) - 127 + ((swj : Int) - 127))))
      else dotRowFp f a ws none
    fpTo 6 f ((fpDecode fp32Fmt (acc % 2 ^ 32)).add p)

/-- What a data-mode firing computes from its operands: a, b, c the source values, rec and sw the weight record and weight
scales of a DOT, acc0 and acc1 the words in DST and g[DST + 1]. MOV's result is A's lanes: the bits above the last lane of its format are zero
(R114, R126), which only an MXFP6 format leaves any of. -/
def compute (f : OpF) (a b c : Nat) (rec sw : Bytes) (acc0 acc1 : Nat) (st : OpState) : FireOut :=
  let one := fun (n : Nat) => ({ toks := [dw n], dst := some (dw n), st := st } : FireOut)
  if f.op = 0x01 then one (packLanes f.fmt (lanesOf f.fmt a))
  else if f.op = 0x06 then one f.lvl
  else if f.op = 0x02 ∨ f.op = 0x03 then one (le rec 0 8)
  else if 0x10 ≤ f.op ∧ f.op ≤ 0x1B then one (alu64 f a b)
  else if f.op = 0x1C ∨ f.op = 0x41 then one (b2n (condHolds f.fmt a b))
  else if f.op = 0x20 ∨ f.op = 0x21 ∨ f.op = 0x22 ∨ f.op = 0x24 ∨ f.op = 0x25 then one (laneMap2 f a b)
  else if f.op = 0x23 then one (laneFma f a b c)
  else if f.op = 0x26 then one (vsum f acc0 a)
  else if f.op = 0x27 then one (vmaxr f acc0 a)
  else if f.op = 0x28 then one (laneFn f a)
  else if f.op = 0x29 then
    let r := gather f st ((lanesOf f.fmt a).map (cvtLane f (b % 256)))
    { toks := r.1, dst := r.1.head?, st := r.2 }
  else if f.op = 0x2B then
    let r := gather f st ((lanesOf f.fmt a).map (qntLane f (b % 256)))
    { toks := r.1, dst := r.1.head?, st := r.2 }
  else if f.op = 0x2A then
    let st := amaxStep f st a
    { toks := [], dst := some (if st.runBad then dw 0x7FC00000 else st.runMax), st := st }
  else if f.op = 0x30 then
    let r := fun j acc => dotAcc f acc a rec (c % 256) sw j
    let w0 := dw (r 0 (acc0 % 2 ^ 32) + r 1 (acc0 / 2 ^ 32) * 2 ^ 32)
    if dotRows f = 4 then
      let w1 := dw (r 2 (acc1 % 2 ^ 32) + r 3 (acc1 / 2 ^ 32) * 2 ^ 32)
      { toks := [w0, w1], dst := some w0, dst2 := some w1, st := st }
    else { toks := [w0], dst := some w0, st := st }
  else one a

end Sys2Proof.Machine
end

