-- ==== Sys2Proof/Machine/Regs.lean ====
section
/-! DEFINITION. The set-up registers of BAR0: the block map (R563), each register's reset value, the bits a write stores, the
bits a write of 1 clears (R6, R8), the range of its fields and the event bit of a rejected write; the storage of those that
are stored. Values that follow from other state are in Flags.lean. -/

namespace Sys2Proof.Machine

open Sys2Proof

-- absolute offsets (R563 with R545, R570, R534, R423, R41, R175, R216, R309, R504, R536, R555, R354, R395, R393, R394)
abbrev glbReady : Nat := 0x0
abbrev glbCtrl : Nat := 0x4
abbrev glbResetCause : Nat := 0x8
abbrev glbBootTime : Nat := 0xC
abbrev glbVersion : Nat := 0x10
abbrev glbScratch : Nat := 0x14
abbrev glbAdminCtrl : Nat := 0x18
abbrev glbAdminBaseLo : Nat := 0x20
abbrev glbAdminBaseHi : Nat := 0x24
abbrev glbAdminEntries : Nat := 0x28
abbrev glbAdminCplBaseLo : Nat := 0x30
abbrev glbAdminCplBaseHi : Nat := 0x34
abbrev glbAdminCplEntries : Nat := 0x38
abbrev glbAdminCplIrq : Nat := 0x3C
abbrev glbAdminCplMod : Nat := 0x40
abbrev glbMgrPasid0 : Nat := 0x44
abbrev glbMgrPasid1 : Nat := 0x48
abbrev glbEvent : Nat := 0x50
abbrev glbMboxReq : Nat := 0x80
abbrev glbMboxResp : Nat := 0x84
abbrev glbMboxData0 : Nat := 0x88
abbrev glbMboxData1 : Nat := 0x8C
abbrev glbMboxData2 : Nat := 0x90
abbrev glbMboxData3 : Nat := 0x94
abbrev calEvent : Nat := 0x2900
abbrev timStatus : Nat := 0x3000
abbrev timRole : Nat := 0x3004
abbrev timCtrl : Nat := 0x3008
abbrev timIntervals : Nat := 0x300C
abbrev timSlewBound : Nat := 0x3010
abbrev timLockNs : Nat := 0x3014
abbrev timHoldDrift : Nat := 0x3018
abbrev timOffset : Nat := 0x301C
abbrev timFreqAdj : Nat := 0x3020
abbrev timFreqUnc : Nat := 0x3024
abbrev timHoldErr : Nat := 0x3028
abbrev timGmQuality : Nat := 0x302C
abbrev timEvent : Nat := 0x3030
abbrev timCapture : Nat := 0x3034
abbrev timSnapSecLo : Nat := 0x3038
abbrev timSnapSecHi : Nat := 0x303C
abbrev timSnapNs : Nat := 0x3040
abbrev timSnapFrac : Nat := 0x3044
abbrev timPpsCount : Nat := 0x3048
abbrev timRecDrop : Nat := 0x3100
abbrev pwrLimit : Nat := 0x4000
abbrev pwrBase : Nat := 0x4004
abbrev pwrCommitted : Nat := 0x4008
abbrev pwrStatus : Nat := 0x400C
abbrev pwrTherm : Nat := 0x4010
abbrev pwrTempMax : Nat := 0x4014
abbrev pwrTempIod : Nat := 0x4018
abbrev arrStatus : Nat := 0x5000
abbrev arrJoinWdog : Nat := 0x5004
abbrev arrEvent : Nat := 0x5008
abbrev arrStarveLoc : Nat := 0x500C
abbrev arrParityLoc : Nat := 0x5010
abbrev arrParityCount : Nat := 0x5014
abbrev arrEntryLate : Nat := 0x5018
abbrev arrXingRetry : Nat := 0x501C
abbrev shfStatus : Nat := 0x6000
abbrev shfDrainBound : Nat := 0x6004
abbrev shfStreamPool : Nat := 0x6008
abbrev shfStreamReserved : Nat := 0x600C
abbrev shfEvent : Nat := 0x6010
abbrev shfSquashTokens : Nat := 0x6014
abbrev shfSquashMsgs : Nat := 0x6018
abbrev shfSwapUnjudged : Nat := 0x601C
abbrev shfClusterSel : Nat := 0x6020
abbrev shfClusterState : Nat := 0x6024
abbrev shfClusterUnits : Nat := 0x6028
abbrev shfClusterUnitsHi : Nat := 0x602C
abbrev armStatus : Nat := 0x7000
abbrev armEthertype : Nat := 0x7004
abbrev armTc : Nat := 0x7008
abbrev armMaxShare : Nat := 0x700C
abbrev armEvent : Nat := 0x7010
abbrev armLateCount : Nat := 0x7014
abbrev armLateLoc : Nat := 0x7018
abbrev armLatePeriod : Nat := 0x701C
abbrev armMarginMin : Nat := 0x7020
abbrev armHoldLimit : Nat := 0x7024
abbrev armLateArrivals : Nat := 0x7028
abbrev armDupCount : Nat := 0x702C
abbrev armStray : Nat := 0x7030
abbrev armFeedLate : Nat := 0x7034
abbrev armPauseIgnored : Nat := 0x7038
abbrev insStatus : Nat := 0x8000
abbrev insDrainBound : Nat := 0x8004
abbrev insEvent : Nat := 0x8008
abbrev insFreeClusters : Nat := 0x800C
abbrev insFreeBlocks : Nat := 0x8010
abbrev insScrubPending : Nat := 0x8014
abbrev insSel : Nat := 0x8018
abbrev insSelState : Nat := 0x801C
abbrev fltStatus : Nat := 0x9000
abbrev fltBudget : Nat := 0x9004
abbrev fltHold : Nat := 0x9008
abbrev fltPatrol : Nat := 0x900C
abbrev fltEvent : Nat := 0x9010
abbrev fltWitness : Nat := 0x9014
abbrev fltWitnessTimeLo : Nat := 0x9018
abbrev fltWitnessTimeHi : Nat := 0x901C
abbrev fltWitnessChan : Nat := 0x9020
abbrev fltMemCorr : Nat := 0x9024
abbrev fltMemUncorr : Nat := 0x9028
abbrev fltCoreErr : Nat := 0x902C
abbrev fltWitnessOvf : Nat := 0x9030
abbrev fltMissingHead : Nat := 0x9034
abbrev fltSpareUsed : Nat := 0x9038
abbrev fltHbmRemap : Nat := 0x903C
abbrev fltPllStandby : Nat := 0x9040
abbrev fltMgmtRestarts : Nat := 0x9044
abbrev fltShiftPending : Nat := 0x9048
abbrev fltFwVersion : Nat := 0x904C
abbrev tstCtrl : Nat := 0xA000
abbrev tstStatus : Nat := 0xA004
abbrev tstEvent : Nat := 0xA008
abbrev tstBp : Nat := 0xA010
abbrev tstXingDelay : Nat := 0xA040
abbrev tstGateStretch : Nat := 0xA050
abbrev tstTsJitter : Nat := 0xA090
abbrev tstTsSeed : Nat := 0xA0D0
abbrev tstLoop : Nat := 0xA0E0
abbrev wgtStatus : Nat := 0xB000
abbrev wgtUdpPort : Nat := 0xB004
abbrev wgtAckCoal : Nat := 0xB008
abbrev wgtRto : Nat := 0xB00C
abbrev wgtRetry : Nat := 0xB010
abbrev wgtReorderNs : Nat := 0xB014
abbrev wgtPeerTimeout : Nat := 0xB018
abbrev wgtProbe : Nat := 0xB01C
abbrev wgtRxHold : Nat := 0xB020
abbrev wgtBaseWindow : Nat := 0xB024
abbrev wgtEvent : Nat := 0xB028
abbrev wgtRxBufUsed : Nat := 0xB02C
abbrev wgtRxCrcFail : Nat := 0xB030
abbrev wgtTagFail : Nat := 0xB034
abbrev wgtDupPkts : Nat := 0xB038
abbrev wgtOowPkts : Nat := 0xB03C
abbrev wgtStray : Nat := 0xB040
abbrev wgtRetxPkts : Nat := 0xB044
abbrev wgtPeers : Nat := 0xB048
abbrev wgtCc : Nat := 0xB100
abbrev shpStatus : Nat := 0x10000
abbrev shpEvent : Nat := 0x10004
abbrev shpTlmDropped : Nat := 0x10008
abbrev shpClass : Nat := 0x11000
abbrev macStatus (p : Nat) : Nat := 0x20000 + 0x1000 * p + 0x0
abbrev macCtrl (p : Nat) : Nat := 0x20000 + 0x1000 * p + 0x4
abbrev macMaxFrame (p : Nat) : Nat := 0x20000 + 0x1000 * p + 0x8
abbrev macPcpMap (p : Nat) : Nat := 0x20000 + 0x1000 * p + 0xC
abbrev macFc (p : Nat) : Nat := 0x20000 + 0x1000 * p + 0x10
abbrev macFcWdog (p : Nat) : Nat := 0x20000 + 0x1000 * p + 0x14
abbrev macFcThresh (p : Nat) : Nat := 0x20000 + 0x1000 * p + 0x18
abbrev macRxLimit (p : Nat) : Nat := 0x20000 + 0x1000 * p + 0x1C
abbrev macFcStatus (p : Nat) : Nat := 0x20000 + 0x1000 * p + 0x20
abbrev macFcQuanta (p : Nat) : Nat := 0x20000 + 0x1000 * p + 0x24
abbrev macLpi (p : Nat) : Nat := 0x20000 + 0x1000 * p + 0x28
abbrev macLpiWake (p : Nat) : Nat := 0x20000 + 0x1000 * p + 0x2C
abbrev macArmVlan (p : Nat) : Nat := 0x20000 + 0x1000 * p + 0x30
abbrev macEvent (p : Nat) : Nat := 0x20000 + 0x1000 * p + 0x34
abbrev macRxOverflow (p : Nat) : Nat := 0x20000 + 0x1000 * p + 0x40
abbrev macRxClassDrop (p : Nat) : Nat := 0x20000 + 0x1000 * p + 0x44
abbrev macRxRunt (p : Nat) : Nat := 0x20000 + 0x1000 * p + 0x48
abbrev macRxFcsErr (p : Nat) : Nat := 0x20000 + 0x1000 * p + 0x4C
abbrev macRxOversize (p : Nat) : Nat := 0x20000 + 0x1000 * p + 0x50
abbrev macRxIpcsumErr (p : Nat) : Nat := 0x20000 + 0x1000 * p + 0x54
abbrev macRxUdpcsumErr (p : Nat) : Nat := 0x20000 + 0x1000 * p + 0x58
abbrev macRxFilterMiss (p : Nat) : Nat := 0x20000 + 0x1000 * p + 0x5C
abbrev macRxPoliced (p : Nat) : Nat := 0x20000 + 0x1000 * p + 0x60
abbrev macRxPause (p : Nat) : Nat := 0x20000 + 0x1000 * p + 0x64
abbrev macTxPause (p : Nat) : Nat := 0x20000 + 0x1000 * p + 0x68
abbrev macPauseIgnored (p : Nat) : Nat := 0x20000 + 0x1000 * p + 0x6C
abbrev macFecCorr (p : Nat) : Nat := 0x20000 + 0x1000 * p + 0x70
abbrev macFecUncorr (p : Nat) : Nat := 0x20000 + 0x1000 * p + 0x74
abbrev macTxDiscard (p : Nat) : Nat := 0x20000 + 0x1000 * p + 0x78
abbrev macFilt (p : Nat) : Nat := 0x20000 + 0x1000 * p + 0x400
abbrev gateStatus (p : Nat) : Nat := 0x100000 + 0x8000 * p + 0x0
abbrev gateAdminCtrl (p : Nat) : Nat := 0x100000 + 0x8000 * p + 0x4
abbrev gateAdminCycle (p : Nat) : Nat := 0x100000 + 0x8000 * p + 0x8
abbrev gateAdminBaseLo (p : Nat) : Nat := 0x100000 + 0x8000 * p + 0x10
abbrev gateAdminBaseHi (p : Nat) : Nat := 0x100000 + 0x8000 * p + 0x14
abbrev gateOperCycle (p : Nat) : Nat := 0x100000 + 0x8000 * p + 0x18
abbrev gateOperBaseLo (p : Nat) : Nat := 0x100000 + 0x8000 * p + 0x20
abbrev gateOperBaseHi (p : Nat) : Nat := 0x100000 + 0x8000 * p + 0x24
abbrev gateChangeTimeLo (p : Nat) : Nat := 0x100000 + 0x8000 * p + 0x28
abbrev gateChangeTimeHi (p : Nat) : Nat := 0x100000 + 0x8000 * p + 0x2C
abbrev gateEvent (p : Nat) : Nat := 0x100000 + 0x8000 * p + 0x30
abbrev gateOversize (p : Nat) : Nat := 0x100000 + 0x8000 * p + 0x34
abbrev gateAdmin (p : Nat) : Nat := 0x100000 + 0x8000 * p + 0x1000
abbrev gateOper (p : Nat) : Nat := 0x100000 + 0x8000 * p + 0x3000

/-- Timestamp-path and other CAL_ registers (R424, R534) and identity registers (R535). -/
abbrev calTs (p : Nat) (k : Nat) : Nat := 0x2400 + 0x20 * p + 4 * k
abbrev calSd (l : Nat) (k : Nat) : Nat := 0x2000 + 0x20 * l + 4 * k
abbrev calTh (s : Nat) (k : Nat) : Nat := 0x2600 + 0x10 * s + 4 * k
abbrev wgtCcReg (n k : Nat) : Nat := wgtCc + 0x20 * n + 4 * k
abbrev shpReg (k j : Nat) : Nat := shpClass + 0x10 * k + 4 * j

/-- What the tables give for one register. -/
structure RegDesc where
  reset : Nat := 0
  /-- bits a write stores (RW, RWS) -/
  rw : Nat := 0
  /-- bits a write of 1 clears (W1C) -/
  w1c : Nat := 0
  /-- fields with a range: high bit, low bit, least and greatest value -/
  ranges : List (Nat × Nat × Nat × Nat) := []
  deriving DecidableEq, Repr

def lookupReg : List (Nat × RegDesc) → Nat → Option RegDesc
  | [], _ => none
  | (o, d) :: t, x => if o = x then some d else lookupReg t x

/-- R545, R570. Bases and entry counts of the administration rings are judged when EN is written (R571). -/
def glbRegs : List (Nat × RegDesc) :=
  [(glbReady, {}), (glbCtrl, {}), (glbResetCause, { reset := 1 }), (glbBootTime, {}),
   (glbVersion, { reset := 0x100 }), (glbScratch, { rw := 0xFFFFFFFF }), (glbAdminCtrl, { rw := 7 }),
   (glbAdminBaseLo, { rw := 0xFFFFFFFF }), (glbAdminBaseHi, { rw := 0xFFFFFFFF }),
   (glbAdminEntries, { reset := 0x40, rw := 0x1FFFF }),
   (glbAdminCplBaseLo, { rw := 0xFFFFFFFF }), (glbAdminCplBaseHi, { rw := 0xFFFFFFFF }),
   (glbAdminCplEntries, { reset := 0x40, rw := 0x1FFFF }),
   (glbAdminCplIrq, { reset := 0x10000, rw := 0xFFFF07FF, ranges := [(31, 16, 1, 65535)] }),
   (glbAdminCplMod, { rw := 0xFFFF }), (glbMgrPasid0, { rw := 0x800FFFFF }), (glbMgrPasid1, { rw := 0x800FFFFF }),
   (glbEvent, { w1c := 0xF }), (glbMboxReq, { rw := 0xFFFFFFFF }), (glbMboxResp, { reset := 0xA }),
   (glbMboxData0, {}), (glbMboxData1, {}), (glbMboxData2, {}), (glbMboxData3, {})]

/-- R423. The range of the log intervals is that of R402. -/
def timRegs : List (Nat × RegDesc) :=
  [(timStatus, {}), (timRole, { rw := 0x1FFFFFFF }), (timCtrl, { reset := 7, rw := 0xF }),
   (timIntervals, { reset := 0xFDFD, rw := 0xFFFFFF }),
   (timSlewBound, { reset := 0x4E20, rw := 0x3FFFF, ranges := [(17, 0, 1000, 200000)] }),
   (timLockNs, { reset := 0x64, rw := 0xFFFF, ranges := [(15, 0, 1, 65535)] }),
   (timHoldDrift, { reset := 0x64, rw := 0xFFFF }), (timOffset, {}), (timFreqAdj, {}), (timFreqUnc, {}),
   (timHoldErr, {}), (timGmQuality, { reset := 0x80F8FE80, rw := 0xFFFFFFFF }), (timEvent, { w1c := 0x3F }),
   (timCapture, {}), (timSnapSecLo, {}), (timSnapSecHi, {}), (timSnapNs, {}), (timSnapFrac, {}), (timPpsCount, {})]

/-- R41. -/
def pwrRegs : List (Nat × RegDesc) :=
  [(pwrLimit, { reset := 0x208, rw := 0x3FF, ranges := [(9, 0, 200, 520)] }), (pwrBase, { reset := 0x249F0 }),
   (pwrCommitted, { reset := 0x249F0 }), (pwrStatus, { w1c := 6 }), (pwrTherm, { w1c := 0x1F }), (pwrTempMax, {}),
   (pwrTempIod, {})]

/-- R175. -/
def arrRegs : List (Nat × RegDesc) :=
  [(arrStatus, {}), (arrJoinWdog, { reset := 0x1000, rw := 0x1FFFFF, ranges := [(20, 0, 64, 1048576)] }),
   (arrEvent, { w1c := 0xF }), (arrStarveLoc, {}), (arrParityLoc, {}), (arrParityCount, {}), (arrEntryLate, {}),
   (arrXingRetry, {})]

/-- R216. -/
def shfRegs : List (Nat × RegDesc) :=
  [(shfStatus, {}), (shfDrainBound, { reset := 0x3E8, rw := 0x1FFFF, ranges := [(16, 0, 1, 100000)] }),
   (shfStreamPool, { reset := 0xC80, rw := 0xFFF, ranges := [(11, 0, 0, 3600)] }), (shfStreamReserved, {}),
   (shfEvent, { w1c := 0xF }), (shfSquashTokens, {}), (shfSquashMsgs, {}), (shfSwapUnjudged, {}),
   (shfClusterSel, { rw := 0x7FF, ranges := [(10, 0, 0, 1279)] }), (shfClusterState, {}),
   (shfClusterUnits, { reset := 0xFFFFFFFF }), (shfClusterUnitsHi, {})]

/-- R309. -/
def armRegs : List (Nat × RegDesc) :=
  [(armStatus, {}), (armEthertype, { reset := 0x88B5, rw := 0xFFFF }), (armTc, { reset := 7, rw := 7 }),
   (armMaxShare, { reset := 0x32, rw := 0x7F, ranges := [(6, 0, 0, 90)] }), (armEvent, { w1c := 0x3F }),
   (armLateCount, {}), (armLateLoc, {}), (armLatePeriod, {}), (armMarginMin, { reset := 0xFFFFFFFF }),
   (armHoldLimit, {}), (armLateArrivals, {}), (armDupCount, {}), (armStray, {}), (armFeedLate, {}), (armPauseIgnored, {})]

/-- R504. -/
def insRegs : List (Nat × RegDesc) :=
  [(insStatus, {}), (insDrainBound, { reset := 0x2710, rw := 0xFFFFF, ranges := [(19, 0, 1, 1000000)] }),
   (insEvent, { w1c := 7 }), (insFreeClusters, { reset := 0x500 }), (insFreeBlocks, { reset := 0x170 }),
   (insScrubPending, {}), (insSel, { rw := 0x3FF }), (insSelState, { reset := 1 })]

/-- R536. -/
def fltRegs : List (Nat × RegDesc) :=
  [(fltStatus, {}), (fltBudget, { reset := 0x303E8, rw := 0xFFFFFF, ranges := [(15, 0, 1, 60000), (23, 16, 1, 255)] }),
   (fltHold, { reset := 0x2710, rw := 0xFFFFFF, ranges := [(23, 0, 1000, 10000000)] }),
   (fltPatrol, { reset := 0x18000A, rw := 0xFFFFFFFF, ranges := [(15, 0, 1, 3600), (31, 16, 1, 168)] }),
   (fltEvent, { w1c := 0xFF }), (fltWitness, {}), (fltWitnessTimeLo, {}), (fltWitnessTimeHi, {}), (fltWitnessChan, {}),
   (fltMemCorr, {}), (fltMemUncorr, {}), (fltCoreErr, {}), (fltWitnessOvf, {}), (fltMissingHead, {}), (fltSpareUsed, {}),
   (fltHbmRemap, {}), (fltPllStandby, { reset := 0xF }), (fltMgmtRestarts, {}), (fltShiftPending, {}), (fltFwVersion, {})]

/-- R354, but for the profiles. -/
def wgtRegs : List (Nat × RegDesc) :=
  [(wgtStatus, {}), (wgtUdpPort, { reset := 0x12D1, rw := 0xFFFF, ranges := [(15, 0, 1, 65535)] }),
   (wgtAckCoal, { reset := 0x7D008, rw := 0xFFFFFF, ranges := [(7, 0, 1, 64), (23, 8, 100, 65535)] }),
   (wgtRto, { reset := 0x640064, rw := 0xFFFFFFFF, ranges := [(15, 0, 1, 65535), (31, 16, 1, 10000)] }),
   (wgtRetry, { reset := 0x77, rw := 0x77 }), (wgtReorderNs, { reset := 0xFA0, rw := 0xFFFF }),
   (wgtPeerTimeout, { reset := 0x1388, rw := 0xFFFFF, ranges := [(19, 0, 100, 1000000)] }),
   (wgtProbe, { reset := 0x303E8, rw := 0xFFFFF, ranges := [(15, 0, 10, 65535), (19, 16, 1, 15)] }),
   (wgtRxHold, { reset := 0x400, rw := 0x7FFF, ranges := [(14, 0, 64, 16384)] }),
   (wgtBaseWindow, { reset := 0x64, rw := 0x3FFF, ranges := [(13, 0, 1, 10000)] }), (wgtEvent, { w1c := 0xF }),
   (wgtRxBufUsed, {}), (wgtRxCrcFail, {}), (wgtTagFail, {}), (wgtDupPkts, {}), (wgtOowPkts, {}), (wgtStray, {}),
   (wgtRetxPkts, {}), (wgtPeers, {})]

/-- R354: register k of a congestion-control profile. -/
def ccReg (k : Nat) : RegDesc :=
  match k with
  | 0 => { reset := 0xFA0, rw := 0xFFFFF, ranges := [(19, 0, 500, 1000000)] }
  | 1 => { reset := 0x1000, rw := 0x1FFFFF, ranges := [(20, 0, 64, 1048576)] }
  | 2 => { reset := 0x148080, rw := 0x1FFFFF, ranges := [(7, 0, 1, 255), (15, 8, 1, 255), (19, 16, 1, 10)] }
  | 3 => { reset := 0x40000, rw := 0xFFFFFF }
  | 4 => { reset := 0x800, rw := 0xFFFFFF, ranges := [(23, 0, 256, 16777215)] }
  | 5 => { reset := 0x200000, rw := 0xFFFFFF }
  | 6 => { reset := 0x64, rw := 0xFFFFF, ranges := [(19, 0, 10, 1000000)] }
  | _ => { reset := 0x2710, rw := 0xFFFFF, ranges := [(19, 0, 500, 1000000)] }

/-- R393: the MAC_p_ registers below the filters, by offset in the block. -/
def macRegs : List (Nat × RegDesc) :=
  [(0x00, {}), (0x04, { reset := 3, rw := 0x3F }), (0x08, { reset := 0x2400, rw := 0x3FFF, ranges := [(13, 0, 1522, 9216)] }),
   (0x0C, { reset := 0xFAC688, rw := 0xFFFFFF }), (0x10, { rw := 0x3FFF, ranges := [(1, 0, 0, 2)] }),
   (0x14, { reset := 0x4E20, rw := 0xFFFFFF, ranges := [(23, 0, 1, 10000000)] }),
   (0x18, { reset := 0x1000200, rw := 0xFFFFFFFF }), (0x1C, { reset := 0x800, rw := 0xFFFF, ranges := [(15, 0, 320, 32768)] }),
   (0x20, { w1c := 0xFF00 }), (0x24, { reset := 0xFFFF, rw := 0xFFFF, ranges := [(15, 0, 1, 65535)] }),
   (0x28, { reset := 0xA0000, rw := 0xFFFF0001, ranges := [(31, 16, 1, 65535)] }), (0x2C, {}), (0x30, { rw := 0xFFF }),
   (0x34, { w1c := 0x1F }), (0x40, {}), (0x44, {}), (0x48, {}), (0x4C, {}), (0x50, {}), (0x54, {}), (0x58, {}), (0x5C, {}),
   (0x60, {}), (0x64, {}), (0x68, {}), (0x6C, {}), (0x70, {}), (0x74, {}), (0x78, {})]

/-- R394: the GATE_p_ registers below the lists, by offset in the block. -/
def gateRegs : List (Nat × RegDesc) :=
  [(0x00, {}), (0x04, { reset := 2, rw := 0xFFF }), (0x08, { reset := 0xF4240, rw := 0x3FFFFFFF }),
   (0x10, { rw := 0xFFFFFFFF }), (0x14, { rw := 0xFFFFFFFF }), (0x18, {}), (0x20, {}), (0x24, {}), (0x28, {}), (0x2C, {}),
   (0x30, { w1c := 7 }), (0x34, {})]

/-- R555. -/
def tstReg (o : Nat) : Option RegDesc :=
  if o = 0 then some { rw := 1 }
  else if o = 4 then some {}
  else if o = 8 then some { w1c := 1 }
  else if 0x10 ≤ o ∧ o < 0x30 then
    some (if o % 8 = 0 then { rw := 0x8007FFFF, ranges := [(14, 0, 0, 20479)] }
      else { reset := 0x101, rw := 0xFFFF, ranges := [(7, 0, 1, 255), (15, 8, 1, 255)] })
  else if o = 0x40 then some { rw := 0xFFFFFFFF }
  else if 0x50 ≤ o ∧ o < 0x90 then some { rw := 0x8000FFFF }
  else if 0x90 ≤ o ∧ o < 0xD0 then some { rw := 0x3FF }
  else if o = 0xD0 then some { reset := 1, rw := 0xFFFFFFFF, ranges := [(31, 0, 1, 0xFFFFFFFF)] }
  else if 0xE0 ≤ o ∧ o < 0x120 then some { rw := 3 }
  else none

/-- R395: register j of class bucket k. FORGIVE (bit 31) acts and is not stored. -/
def shpDesc (j : Nat) : RegDesc :=
  match j with
  | 0 => { reset := 0x1FFFFF, rw := 0x1FFFFF }
  | 1 => { reset := 0x10000, rw := 0xFFFFFF, ranges := [(23, 0, 64, 16777215)] }
  | 2 => { reset := 0x1FFFFF, rw := 0x1FFFFF }
  | _ => { reset := 0x10000, rw := 0x1FFFFFF }

/-- R424, R534: the CAL_ block. User offsets are RWS; their range is signed and is checked by CAL_OFFSET_WRITE and
TS_USER_OFFSET_WRITE. -/
def calReg (o : Nat) : Option RegDesc :=
  if o < 0x200 then some (match o % 0x20 / 4 with | 1 => { rw := 0x3F3F3F } | 4 => { rw := 0x1FFF } | _ => {})
  else if 0x400 ≤ o ∧ o < 0x600 then
    some (match o % 0x20 / 4 with | 1 => { rw := 0xFFFFFFFF } | 4 => { rw := 0xFFFFFFFF } | 6 => { reset := 0x8000 } | _ => {})
  else if 0x600 ≤ o ∧ o < 0x880 then some (match o % 0x10 / 4 with | 1 => { rw := 0xFF } | _ => {})
  else if o = 0x900 then some { w1c := 3 }
  else none

/-- R535: the ID_ block. -/
def idReg (o : Nat) : Option RegDesc :=
  if o < 0xA0 then (if o % 0x20 < 0x14 then some {} else none)
  else if o < 0xB0 then some {}
  else if o = 0xC0 then some { reset := 0x12816 }
  else none

/-- The block map (R563): the description of the register at an absolute offset, or none where the offset is reserved. -/
def regDesc (off : Nat) : Option RegDesc :=
  if off % 4 ≠ 0 then none
  else if off < 0x1000 then lookupReg glbRegs off
  else if off < 0x2000 then idReg (off - 0x1000)
  else if off < 0x3000 then calReg (off - 0x2000)
  else if off < 0x4000 then
    if 0x3100 ≤ off ∧ off < 0x3140 then some {} else lookupReg timRegs off
  else if off < 0x5000 then lookupReg pwrRegs off
  else if off < 0x6000 then lookupReg arrRegs off
  else if off < 0x7000 then lookupReg shfRegs off
  else if off < 0x8000 then lookupReg armRegs off
  else if off < 0x9000 then lookupReg insRegs off
  else if off < 0xA000 then lookupReg fltRegs off
  else if off < 0xB000 then tstReg (off - 0xA000)
  else if off < 0xC000 then
    if 0xB100 ≤ off ∧ off < 0xB300 then some (ccReg (off % 0x20 / 4)) else lookupReg wgtRegs off
  else if 0x10000 ≤ off ∧ off < 0x12000 then
    if off = shpStatus ∨ off = shpTlmDropped then some {}
    else if off = shpEvent then some { w1c := 3 }
    else if 0x11000 ≤ off ∧ off < 0x11800 then some (shpDesc (off % 0x10 / 4))
    else none
  else if 0x20000 ≤ off ∧ off < 0x30000 then
    if 0x400 ≤ off % 0x1000 then
      if off % 0x1000 < 0xC00 then
        some (if off % 8 = 0 then { rw := 0xFFFFFFFF } else { rw := 0xFFFFFFFF, ranges := [(27, 26, 0, 2)] })
      else none
    else lookupReg macRegs (off % 0x1000)
  else if 0x100000 ≤ off ∧ off < 0x180000 then
    if 0x1000 ≤ off % 0x8000 ∧ off % 0x8000 < 0x3000 then
      some (if off % 8 = 0 then { rw := 0xFF } else { rw := 0x3FFFFFFF })
    else if 0x3000 ≤ off % 0x8000 ∧ off % 0x8000 < 0x5000 then some {}
    else lookupReg gateRegs (off % 0x8000)
  else none

def regReset (off : Nat) : Nat := ((regDesc off).map (·.reset)).getD 0

/-- The stored value of a register: what was last stored, or the reset value. -/
def regRaw (s : State) (off : Nat) : Nat := (tgetD s.regs off (BitVec.ofNat 32 (regReset off))).toNat

/-- Stores a register, keeping the canonical form: a register at its reset value is not listed. -/
def regPut (s : State) (off v : Nat) : State :=
  { s with regs := tsetD s.regs off (BitVec.ofNat 32 (regReset off)) (BitVec.ofNat 32 v) }

/-- The bits of a register that the adapter has set in the present FAB cycle. -/
def setNow (s : State) (off : Nat) : Nat := if s.setCycle = s.now / fabCycle then tgetD s.setBits off 0 else 0

/-- The adapter sets the bits of a mask: an event bit, an RO flag. Those it sets in a FAB cycle are remembered for R8. -/
def regOr (s : State) (off mask : Nat) : State :=
  { regPut s off (regRaw s off ||| mask) with
    setCycle := s.now / fabCycle
    setBits := tset (if s.setCycle = s.now / fabCycle then s.setBits else []) off (setNow s off ||| mask) }

def regClr (s : State) (off mask : Nat) : State := regPut s off (regRaw s off &&& (0xFFFFFFFF ^^^ mask))

/-- Adds to a 32-bit counter that saturates at 0xFFFF_FFFF. -/
def regAdd (s : State) (off n : Nat) : State := regPut s off (min 0xFFFFFFFF (regRaw s off + n))

def regBits (s : State) (off hi lo : Nat) : Nat := bits (regRaw s off) hi lo
def regBit (s : State) (off i : Nat) : Bool := bit (regRaw s off) i

/-- Ports of a split (R355): code 0 p0 and p8, 1 every fourth, 2 every second, 3 all. -/
def splitHas (code p : Nat) : Bool := p < 16 && p % (8 / 2 ^ code) = 0

def portExists (s : State) (p : Nat) : Bool := splitHas s.split p

def portsOf (s : State) : List Nat := (List.range 16).filter (portExists s)

/-- The port a per-port register belongs to (R565). -/
def regPort (off : Nat) : Option Nat :=
  if 0x2400 ≤ off ∧ off < 0x2600 then some ((off - 0x2400) / 0x20)
  else if 0x3100 ≤ off ∧ off < 0x3140 then some ((off - 0x3100) / 4)
  else if 0xA050 ≤ off ∧ off < 0xA090 then some ((off - 0xA050) / 4)
  else if 0xA090 ≤ off ∧ off < 0xA0D0 then some ((off - 0xA090) / 4)
  else if 0xA0E0 ≤ off ∧ off < 0xA120 then some ((off - 0xA0E0) / 4)
  else if 0x11000 ≤ off ∧ off < 0x11800 then some ((off - 0x11000) / 0x80)
  else if 0x20000 ≤ off ∧ off < 0x30000 then some ((off - 0x20000) / 0x1000)
  else if 0x100000 ≤ off ∧ off < 0x180000 then some ((off - 0x100000) / 0x8000)
  else none

-- ------------------------------------------------------------------ READY bits (R541, R545)

abbrev rdyMgmt : Nat := 0
abbrev rdyFlt : Nat := 1
abbrev rdyTst : Nat := 2
abbrev rdyTim : Nat := 3
abbrev rdyShp : Nat := 4
abbrev rdyWgt : Nat := 5
abbrev rdyIns : Nat := 6
abbrev rdyArr : Nat := 7
abbrev rdyShf : Nat := 8
abbrev rdyArm : Nat := 9

/-- A function's READY bit, held in GLB_READY. -/
def ready (s : State) (i : Nat) : Bool := regBit s glbReady i

/-- MAC_p_STATUS.READY. -/
def portReady (s : State) (p : Nat) : Bool := regBit s (macStatus p) 0

/-- Is the block of a register usable (R541, R41, R575)? CAL_ and ID_ have no READY bit of their own: they follow MGMT
(DEDUCED: R542 gives MGMT the condition "OTP read"; log entry 12). -/
def blockReady (s : State) (off : Nat) : Bool :=
  if off < 0x3000 then ready s rdyMgmt
  else if off < 0x4000 then ready s rdyTim
  else if off < 0x5000 then ready s rdyMgmt
  else if off < 0x6000 then ready s rdyArr
  else if off < 0x7000 then ready s rdyShf
  else if off < 0x8000 then ready s rdyArm
  else if off < 0x9000 then ready s rdyIns
  else if off < 0xA000 then ready s rdyFlt
  else if off < 0xB000 then ready s rdyTst
  else if off < 0x10000 then ready s rdyWgt
  else if off < 0x20000 then ready s rdyShp
  else if off < 0x30000 then portReady s ((off - 0x20000) / 0x1000)
  else if off < 0x180000 then portReady s ((off - 0x100000) / 0x8000)
  else false

/-- Where a write out of range is recorded (R35, R173, R216, R309, R354, R393, R395, R423, R504, R536, R555, R570): the event
register and the bit. GATE_p_ and SHF_CLUSTER_SEL give none: the write is ignored. -/
def regReject (off : Nat) : Option (Nat × Nat) :=
  if off < 0x1000 then some (glbEvent, 1)
  else if off < 0x3000 then some (calEvent, 1)
  else if off < 0x4000 then some (timEvent, 4)
  else if off < 0x5000 then some (pwrStatus, 1)
  else if off < 0x6000 then some (arrEvent, 3)
  else if off = shfDrainBound then some (shfEvent, 2)
  else if off = shfStreamPool then some (shfEvent, 3)
  else if off < 0x7000 then none
  else if off < 0x8000 then some (armEvent, 5)
  else if off < 0x9000 then some (insEvent, 1)
  else if off < 0xA000 then some (fltEvent, 6)
  else if off < 0xB000 then some (tstEvent, 0)
  else if off < 0x10000 then some (wgtEvent, 2)
  else if off < 0x20000 then some (shpEvent, 0)
  else if off < 0x30000 then some (macEvent ((off - 0x20000) / 0x1000), 4)
  else none

/-- Ignores a write and records it. -/
def rejectWrite (s : State) (off : Nat) : State :=
  match regReject off with
  | some (e, b) => regOr s e (2 ^ b)
  | none => s

/-- Do the fields of a value lie in their ranges? A register's only field is judged with the reserved bits above it: "a write above 1 279" (R216). -/
def fieldsInRange (d : RegDesc) (v : Nat) : Bool :=
  d.ranges.all fun r =>
    let x := if r.2.1 = 0 ∧ d.rw = 2 ^ (r.1 + 1) - 1 then v else bits v r.1 r.2.1
    r.2.2.1 ≤ x && x ≤ r.2.2.2

end Sys2Proof.Machine
end

