-- ==== Sys2Proof/Machine/Ops.lean ====
section
/-! DEFINITION. The named operations every family uses: time, free values, what leaves the adapter, rings and their phase
(R430-R442), the witness and event records (R454-R457, R522-R524), taking a command and completing it (R458-R460). -/

namespace Sys2Proof.Machine

open Sys2Proof

-- ------------------------------------------------------------------ status codes (R9)

abbrev stOK : Nat := 0x00
abbrev stStateConflict : Nat := 0x01
abbrev stNoResource : Nat := 0x02
abbrev stBadParam : Nat := 0x03
abbrev stNotPermitted : Nat := 0x04
abbrev stFlushed : Nat := 0x05
abbrev stTimeout : Nat := 0x06
abbrev stTooLarge : Nat := 0x07
abbrev stIntegrity : Nat := 0x08
abbrev stRetired : Nat := 0x09
abbrev stNotReady : Nat := 0x0A
abbrev stSquashed : Nat := 0x0B
abbrev stLateBundle : Nat := 0x0C
abbrev stTimeLost : Nat := 0x0D
abbrev stJoinStarved : Nat := 0x0E

/-- The first condition that holds gives the status (R11): conditions in the order the rule lists them. -/
def firstFail : List (Bool × Nat) → Option Nat
  | [] => none
  | (c, st) :: t => if c then some st else firstFail t

-- ------------------------------------------------------------------ time and free values

/-- The network clock in whole ns (R273, R396). -/
def netNs (s : State) : Nat := s.tb.clock / 2 ^ 48

/-- Network time in ns as the adapter reports it: no value from 18 446 744 073 s on (R397); the field then reads zero (DESIGN CHOICE; log entry
100). -/
def reportNs (s : State) : Nat := if netNs s < 18446744073 * 1000000000 then netNs s else 0

/-- The FAB cycle. -/
def fabOf (s : State) : Nat := s.now / fabCycle

/-- The core cycle (log entry 1: phase 0 in every die). -/
def cycleOf (s : State) : Nat := s.now / coreCycle

/-- SECONDS, NS and FRAC of a time in 2^-16 ns (R396). -/
def secsOf (t16 : Nat) : Nat := t16 / 65536 / 1000000000
def nsOf (t16 : Nat) : Nat := t16 / 65536 % 1000000000
def fracOf (t16 : Nat) : Nat := t16 % 65536

/-- The network clock in 2^-16 ns. -/
def net16 (s : State) : Nat := s.tb.clock / 2 ^ 32

/-- Draws a free value (log entry 2). -/
def drawNat (s : State) : Nat × State := (Config.freeNat s.fresh, { s with fresh := s.fresh + 1 })

def drawInt (s : State) : Int × State := (Config.freeInt s.fresh, { s with fresh := s.fresh + 1 })

/-- The next identity. -/
def newId (s : State) : Nat × State := (s.nextId, { s with nextId := s.nextId + 1 })

-- ------------------------------------------------------------------ what a command answers

/-- Every command goes on to a next state (log entry 32). The queue of commands is the step's, and time passes between commands, not in
them (log entry 1): both stay as they are. -/
def goOn (s t : State) : Host.Outcome State Fault Refusal := .next { t with pending := s.pending, now := s.now }

/-- The commands that are no reset, no write of a register, no PORT_SPLIT and send or take in no frame leave more as it is: the time of the last
reset (R545), the split (R355) and the jitter register (R554). -/
def goOnKeep (s t : State) : Host.Outcome State Fault Refusal :=
  .next { t with pending := s.pending, now := s.now, resetAt := s.resetAt, split := s.split, lfsr := s.lfsr }

/-- Something leaves the adapter (log entry 10). -/
def emit (s : State) (o : Output) : State := { s with out := o :: s.out }

-- ------------------------------------------------------------------ access to the tables of State

def getInst (s : State) (n : Nat) : Instance := tgetD s.instances n {}
def modInst (s : State) (n : Nat) (f : Instance → Instance) : State :=
  { s with instances := tmodD s.instances n {} f }
def getUnit (s : State) (u : Nat) : Option MUnit := tget s.units u
def modUnit (s : State) (u : Nat) (f : MUnit → MUnit) : State := { s with units := tmod s.units u f }
def getPort (s : State) (p : Nat) : Port := tgetD s.ports p {}
def modPort (s : State) (p : Nat) (f : Port → Port) : State := { s with ports := tmodD s.ports p {} f }
def getMsg (s : State) (m : Nat) : Option Message := tget s.msgs m
def modMsg (s : State) (m : Nat) (f : Message → Message) : State := { s with msgs := tmod s.msgs m f }
def getQp (s : State) (i : Nat) : Option Qp := (tget s.qps i).filter (·.live)
def modQp (s : State) (i : Nat) (f : Qp → Qp) : State := { s with qps := tmod s.qps i f }
def getRing (s : State) (k : Nat) : Option Ring := tget s.rings k
def modRing (s : State) (k : Nat) (f : Ring → Ring) : State := { s with rings := tmod s.rings k f }
def getCluster (s : State) (c : Nat) : Cluster := tgetD s.clusters c {}
def modCluster (s : State) (c : Nat) (f : Cluster → Cluster) : State := { s with clusters := tmodD s.clusters c {} f }
def getArm (s : State) (a : Nat) : Option Armature := tget s.arms a
def modArm (s : State) (a : Nat) (f : Armature → Armature) : State := { s with arms := tmod s.arms a f }
def linkUp (s : State) (l : Nat) : Bool := (tgetD s.links l {}).up

/-- Does instance n exist (R475)? -/
def instExists (s : State) (n : Nat) : Bool := (getInst s n).st ≠ .free
def instActive (s : State) (n : Nat) : Bool := (getInst s n).st = .active

/-- Counters of an instance's statistics record (R467): 0 DOORBELL_DROPPED, 1 RING_OVERRUN, 2 EVENTS_DROPPED, 3 CQ_OVERRUN,
4 RAW_RX_DROPPED, 5 COMMANDS_TAKEN, 6 SEND_WRS_STARTED, 7 PACKETS_RECEIVED; 64 bits, wrapping. -/
def countInst (s : State) (n k add : Nat) : State :=
  modInst s n fun i => { i with stats := tmodD i.stats k 0 fun v => (v + add) % 2 ^ 64 }

/-- Binding counters (R96), 64 bits, wrapping. -/
def countBinding (s : State) (inst b k add : Nat) : State :=
  { s with bindCounters := tmodD s.bindCounters ((inst * 64 + b) * 32 + k) 0 fun v => (v + add) % 2 ^ 64 }

/-- Port totals (R467): 0 RX_FRAMES, 1 RX_BYTES, 2 TX_FRAMES, 3 TX_BYTES, 4 REPLIES, 5 RESCINDS, 6 BUNDLES_TX, 7 BUNDLES_RX. -/
def countPort (s : State) (p k add : Nat) : State :=
  modPort s p fun q => { q with totals := tmodD q.totals k 0 fun v => (v + add) % 2 ^ 64 }

-- ------------------------------------------------------------------ memory writes and the dirty-page log

def pasidOf (i : Instance) (link : Nat) : Option Nat := if link = 0 then i.pasid0 else i.pasid1

/-- The pages of a logged range that a write touches (R499). -/
def pagesTouched (base len addr n : Nat) : List Nat :=
  let lo := max base addr
  let hi := min (base + len) (addr + n)
  if lo < hi then (List.range ((hi - 1 - base) / 4096 + 1 - (lo - base) / 4096)).map (· + (lo - base) / 4096) else []

/-- A write under the log's PASID: the touched pages fall due, and a write outside the range is counted; none once a stop
was taken (R499, R501). -/
def logWrite (g : DirtyLog) (addr n : Nat) : DirtyLog :=
  if g.sync.any (·.2) then g
  else
  match pagesTouched g.base g.length addr n with
  | [] => { g with outside := g.outside + 1 }
  | ps => { g with due := g.due ++ ps.filter fun p => !g.due.contains p }

/-- A memory write the adapter issues for an instance (R427), logged while a log is active on its link (R499). One on a link that is down is
lost and marks nothing (R502). -/
def hostWrite (s : State) (inst link addr : Nat) (data : Bytes) : State :=
  if linkUp s link = false then s else
  let i := getInst s inst
  let s := emit s (.hostWrite link ((pasidOf i link).getD 0) addr data)
  if link = 0 then
    match i.log0 with
    | some g => modInst s inst fun i => { i with log0 := some (logWrite g addr data.length) }
    | none => s
  else
    match i.log1 with
    | some g => modInst s inst fun i => { i with log1 := some (logWrite g addr data.length) }
    | none => s

-- ------------------------------------------------------------------ rings

/-- Ring kinds (R430). -/
abbrev rkSq : Nat := 0
abbrev rkRq : Nat := 1
abbrev rkCq : Nat := 2
abbrev rkCmd : Nat := 3
abbrev rkCpl : Nat := 4
abbrev rkEvent : Nat := 5
abbrev rkRawTx : Nat := 6
abbrev rkRawRx : Nat := 7
abbrev rkTs : Nat := 8
abbrev rkSteer : Nat := 9
abbrev rkAdmin : Nat := 10
abbrev rkAdminCpl : Nat := 11
abbrev rkTlm : Nat := 12

/-- The key of a ring: its kind and, below it, what tells rings of that kind apart. SQ and RQ: the QP index; CQ: its number;
command, completion, event and timestamp rings: the instance; raw rings: instance and raw queue; steer rings: instance,
binding and entry. -/
def ringKey (kind sub : Nat) : Nat := kind * 2 ^ 32 + sub

def rawKey (kind inst q : Nat) : Nat := ringKey kind (inst * 16 + q)
def steerKey (inst b e : Nat) : Nat := ringKey rkSteer ((inst * 64 + b) * 256 + e)

/-- Entries between the indices, modulo 2^32 (R431). -/
def ringCount (r : Ring) : Nat := (r.prod - r.cons).toNat

/-- Room for a record, with the entries held for commands taken (R438, R442). -/
def ringRoom (r : Ring) : Bool := ringCount r + r.reserved < r.entries

/-- R437. -/
def phaseOf (r : Ring) : Nat := (r.prod.toNat / r.entries + 1) % 2

/-- The bytes of the entry with its phase bit. -/
def withPhase (r : Ring) (rec : Bytes) : Bytes :=
  overlay (sliceZ rec 0 64) 0x3F [BitVec.ofNat 8 (byteAt rec 0x3F / 2 * 2 + phaseOf r)]

/-- Where a ring lies: its owner's home link, or a steer ring's own link (R430). -/
def ringLink (s : State) (r : Ring) : Nat := if r.kind = rkSteer then r.link else (getInst s r.owner).home

/-- Raises an armed ring's vector when MOD_COUNT entries stand past the armed index, or MOD_USEC µs have passed since the
first of them (R440). Raising disarms; the vector is signalled on the instance's home link, and not while that is down, nor once the IOD is
lost (R31). -/
def raiseIfDue (s : State) (key : Nat) : State :=
  match getRing s key with
  | none => s
  | some r =>
    let n := (r.prod - r.armIndex).toNat
    let timed := r.firstAt.any fun t => decide (r.modUsec * usec ≤ s.now - t)
    if r.armed && 0 < n && n < 2 ^ 31 && (r.modCount ≤ n || timed) && linkUp s (getInst s r.owner).home && !s.iodLost then
      modRing (emit s (.msix (getInst s r.owner).home r.vector)) key fun r => { r with armed := false }
    else s

/-- What CQ_MODIFY named applies from the next entry written (R468). -/
def ringNext (r : Ring) : Ring :=
  match r.modNext with
  | some (v, c, u) => { r with vector := v, modCount := c, modUsec := u, modNext := none }
  | none => r

/-- The ring after an entry was written: the producer index, the entry's time, and what applies from then on (R440, R468). -/
def ringWritten (now : Nat) (r : Ring) : Ring :=
  ringNext { r with prod := r.prod + 1, times := r.times ++ [now],
                    firstAt := if r.armed && r.firstAt.isNone then some now else r.firstAt }

/-- Writes the next entry of an adapter-produced ring (R437, R439), with SPLIT_PHASE as two writes. -/
def ringPush (s : State) (key : Nat) (rec : Bytes) : State :=
  match getRing s key with
  | none => s
  | some r =>
    let bytes := withPhase r rec
    let addr := r.base + 64 * (r.prod.toNat % r.entries)
    let link := ringLink s r
    let s :=
      if r.splitPhase then
        hostWrite (hostWrite s r.owner link addr (bytes.take 0x3F)) r.owner link (addr + 0x3F) (bytes.drop 0x3F)
      else hostWrite s r.owner link addr bytes
    raiseIfDue (modRing s key (ringWritten s.now)) key

-- ------------------------------------------------------------------ the witness

abbrev evDomainLoss : Nat := 1
abbrev evThermal : Nat := 2
abbrev evJoinStarved : Nat := 3
abbrev evLateBundle : Nat := 4
abbrev evPromoted : Nat := 5
abbrev evTimeLost : Nat := 6
abbrev evShardFault : Nat := 7
abbrev evPeerUnreachable : Nat := 8
abbrev evPauseStorm : Nat := 9
abbrev evRingOverrun : Nat := 10
abbrev evCqOverrun : Nat := 11
abbrev evFault : Nat := 12

/-- The recipients of a record: the manager and each owner named, each once (R523); of PEER_UNREACHABLE, whose event names the queue pairs
of one instance, only that instance (R350). -/
def recipients (rep : Report) : List Nat :=
  if rep.code = evPeerUnreachable then rep.owners.dedup else 0 :: (rep.owners.filter (· ≠ 0)).dedup

/-- The event record (R454). -/
def eventBytes (rep : Report) (time count gap : Nat) : Bytes :=
  record 64 ([(0x00, 8, time), (0x08, 1, rep.status), (0x09, 1, 7), (0x0A, 1, if gap = 0 then 0 else 1),
    (0x0C, 2, rep.code), (0x10, 4, count), (0x14, 4, gap)] ++ rep.detail.map fun f => (0x18 + f.1, f.2.1, f.2.2))

/-- Writes an event to one instance's event ring, or drops and counts it (R442, R456, R457). -/
def writeEventTo (s : State) (rep : Report) (time count n : Nat) : State :=
  if instExists s n then
    match getRing s (ringKey rkEvent n) with
    | some r =>
      if ringRoom r then
        modInst (ringPush s (ringKey rkEvent n) (eventBytes rep time count (getInst s n).eventGap)) n
          fun i => { i with eventGap := 0 }
      else modInst (countInst s n 2 1) n fun i => { i with eventGap := i.eventGap + 1 }
    | none => modInst (countInst s n 2 1) n fun i => { i with eventGap := i.eventGap + 1 }
  else s

/-- Writes an event to every recipient; none reaches software once the IOD is lost (R31). -/
def writeEvent (s : State) (rep : Report) (time count : Nat) : State :=
  if s.iodLost then s else (recipients rep).foldl (fun s n => writeEventTo s rep time count n) s

/-- Latches the first report since FLT_EVENT.WITNESS was last cleared (R523). -/
def latchWitness (s : State) (rep : Report) : State :=
  if regBit s fltEvent 0 then s
  else
    let t := reportNs s
    let s := regPut s fltWitness (0x80000000 + rep.cls % 256 * 65536 + rep.code % 65536)
    let s := regPut s fltWitnessTimeLo (t % 2 ^ 32)
    let s := regPut s fltWitnessTimeHi (t / 2 ^ 32 % 2 ^ 32)
    let s := regPut s fltWitnessChan (rep.chan % 2 ^ 32)
    regOr s fltEvent 1

/-- A report to the witness: latched if it is the first, folded into its origin's open record, else a new record, else
written at once and counted (R522, R523). -/
def report (s : State) (rep : Report) : State :=
  if s.iodLost then s else
  let s := latchWitness s rep
  let same := fun w : WitnessRec => w.rep.code = rep.code ∧ w.rep.origin = rep.origin
  if s.witness.any (fun w => decide (same w)) then
    { s with witness := s.witness.map fun w => if same w then { w with count := w.count + 1 } else w }
  else if s.witness.length < 256 then
    { s with witness := s.witness ++
        [{ rep := rep, time := reportNs s, count := 1, closeAt := s.now + regBits s fltHold 23 0 * nsec }] }
  else regOr (regAdd (writeEvent s rep (reportNs s) 1) fltWitnessOvf 1) fltEvent 0x80

/-- RING_OVERRUN: counted and reported (R435). -/
def ringOverrun (s : State) (n kind number : Nat) : State :=
  report (countInst s n 1 1)
    { code := evRingOverrun, origin := [kind, number], detail := [(0, 1, kind), (4, 4, number)], owners := [n] }

-- ------------------------------------------------------------------ completion queues

def freeBuf (s : State) (n : Nat) : State := { s with rxBufUsed := s.rxBufUsed - n }

def subOcc (s : State) (p c n : Nat) : State :=
  modPort s p fun q => { q with occupancy := tmodD q.occupancy c 0 (· - n) }

/-- A message's bytes that stayed in the receive buffer are free (R360, R364). -/
def freeSteer (s : State) (id : Nat) : State :=
  match getMsg s id with
  | none => s
  | some m =>
    if m.bufBytes = 0 then s
    else modMsg (subOcc (freeBuf s m.bufBytes) m.port m.cls m.occBytes) id fun m => { m with bufBytes := 0, occBytes := 0 }

/-- The messages of a QP that are still on their way end without a completion. -/
def dropMsgsOf (s : State) (i : Nat) : State :=
  (s.msgs.filter fun m => m.2.qp = some i && !m.2.finished).foldl (fun s m =>
    modMsg (freeSteer s m.1) m.1 fun m => { m with finished := true, dropped := true, steerUntil := none, making := [], heldAs := [] }) s

/-- Every frame queued on a port, in the order of R379. -/
def queuedFrames (q : Port) : List TxFrame := q.ctrlQ ++ q.replyQ ++ q.txQ.flatMap (·.2)

/-- Frames have left a port's queues: where that emptied them, they have been empty from now on (R377). -/
def noteIdle (now : Nat) (old new : Port) : Port :=
  if queuedFrames old ≠ [] ∧ queuedFrames new = [] then { new with idleSince := now } else new

/-- Frames leave the queues of a port. -/
def unqueue (s : State) (p : Nat) (f : Port → Port) : State := modPort s p fun q => noteIdle s.now q (f q)

/-- The QP sends no more from the next packet boundary on (R322): its data packets leave every class queue, its ACKs and NAKs stay. -/
def dropQueued (s : State) (i : Nat) : State :=
  { s with ports := s.ports.map fun p => (p.1, noteIdle s.now p.2 { p.2 with txQ := p.2.txQ.map fun x =>
      (x.1, x.2.filter fun f => !(f.kind = .wgt && f.qp = some i && !f.ack)) }) }

/-- Does a finished or flushed send request post a completion (R450)? One of the adapter's own messages (R248) posts none. -/
def postsSend (w : SendWr) (st : Nat) : Bool := (bit w.flags 0 || st ≠ stOK) && !w.own

/-- Work of a QP that has no completion yet is discarded, and what would have had one counted: the effect of its CQ's overrun (R322, R441). -/
def qpSilentError (s : State) (i : Nat) : State :=
  match getQp s i with
  | none => s
  | some q =>
    let n := ((getRing s (ringKey rkSq i)).map ringCount).getD 0 + (q.sends.countP fun w => postsSend w (w.done.getD stFlushed))
      + q.recvs.length + (q.rxMsgs.filter fun m => m.2.wr.isSome).length
    let drop := fun r : Ring => { r with cons := r.prod, posted := [] }
    let s := modRing (modRing s (ringKey rkSq i) drop) (ringKey rkRq i) drop
    modQp (countInst (dropMsgsOf (dropQueued s i) i) q.owner 3 n) i fun q =>
      { q with st := .error, sends := [], outPkts := [], retxQ := [], rxMsgs := [], recvs := [], respQ := [], timerAt := none,
               rnrUntil := none, readsBusy := 0, unackedAt := none, seqIn := [], rnrMsgs := [], rnrPsns := [], rnrFirst := [] }

/-- The consumer index that a doorbell of this instant gives a CQ: a completion of the same FAB cycle may take the slot that it frees (R474).
Commands wait together only within one instant (log entry 1). -/
def comingCons (s : State) (cq : Nat) : Option (BitVec 32) :=
  s.pending.findSome? fun c =>
    match c with
    | .cqDoorbell _ b => if b.aligned && b.reserved = 0 && b.number.toNat = cq then some b.index else none
    | _ => none

/-- Has a CQ room for a completion, the doorbells of this instant counted (R438, R474)? -/
def cqRoom (s : State) (cq : Nat) (r : Ring) : Bool :=
  ringRoom r || (comingCons s cq).any fun x => decide ((x - r.cons).toNat ≤ ringCount r) && ringRoom { r with cons := x }

/-- A completion for a CQ (R441): written where there is room; discarded and counted in a CQ in OVERRUN; a full CQ enters
OVERRUN, one CQ_OVERRUN event is raised and every QP that posts to it enters ERROR with its completions discarded. -/
def cqPost (s : State) (cq : Nat) (rec : Bytes) : State :=
  match getRing s (ringKey rkCq cq) with
  | none => s
  | some r =>
    if r.overrun then countInst s r.owner 3 1
    else if cqRoom s cq r then ringPush s (ringKey rkCq cq) rec
    else
      let s := modRing (countInst s r.owner 3 1) (ringKey rkCq cq) fun r => { r with overrun := true }
      let s := report s { code := evCqOverrun, origin := [cq], status := stNoResource, detail := [(0, 2, cq)], owners := [r.owner] }
      ((tkeys s.qps).filter fun i =>
        match getQp s i with | some q => q.sendCq = cq || q.recvCq = cq | none => false).foldl qpSilentError s

-- ------------------------------------------------------------------ commands

def cmdInst : CmdRing → Nat
  | .admin => 0
  | .inst n => n

def cmdRingKey : CmdRing → Nat
  | .admin => ringKey rkAdmin 0
  | .inst n => ringKey rkCmd n

def cplRingKey : CmdRing → Nat
  | .admin => ringKey rkAdminCpl 0
  | .inst n => ringKey rkCpl n

/-- A command completion (R453). RESULT fields are (offset in RESULT, size, value). -/
def cplBytes (tag : BitVec 32) (index : BitVec 32) (opcode status bytes : Nat) (result : List (Nat × Nat × Nat)) : Bytes :=
  record 64 ([(0x00, 4, tag.toNat), (0x04, 4, index.toNat), (0x08, 1, status), (0x09, 1, 3), (0x0A, 1, opcode),
    (0x0C, 4, bytes)] ++ result.map fun f => (0x10 + f.1, f.2.1, f.2.2))

/-- Completes a command: the entry held for it is written (R442, R453). -/
def completeCmd (s : State) (r : CmdRing) (tag index : BitVec 32) (opcode status bytes : Nat)
    (result : List (Nat × Nat × Nat)) : State :=
  ringPush (modRing s (cplRingKey r) fun k => { k with reserved := k.reserved - 1 }) (cplRingKey r)
    (cplBytes tag index opcode status bytes result)

/-- Completes a command that was taken earlier (R460); one completed meanwhile completes no second time. -/
def finishCmd (s : State) (id status : Nat) (result : List (Nat × Nat × Nat)) : State :=
  match s.cmds.find? (·.id = id) with
  | none => s
  | some c =>
    completeCmd { s with cmds := s.cmds.filter (·.id ≠ id) } c.ring c.tag c.index c.opcode status 0 result

def finishCmd? (s : State) (id : Option Nat) (status : Nat) (result : List (Nat × Nat × Nat)) : State :=
  match id with
  | some i => finishCmd s i status result
  | none => s

/-- What a command answers when it is taken: a completion, with bytes for its buffer, or nothing yet. -/
inductive Answer where
  | done (status : Nat) (result : List (Nat × Nat × Nat)) (buf : Bytes)
  | wait (arg : Nat)
  deriving DecidableEq, Repr

abbrev Answer.fail (st : Nat) : Answer := .done st [] []
abbrev Answer.ok : Answer := .done stOK [] []

/-- May a ring's next command be taken: the ring holds one, its completion ring has a free entry (R442), fewer than 64
commands of the ring are pending (R460), the management processor is not restarting (R529), the instance is serving (R495), and the IOD is
there (R31)? -/
def takeable (s : State) (r : CmdRing) : Bool :=
  match getRing s (cmdRingKey r), getRing s (cplRingKey r) with
  | some q, some c =>
    q.prod ≠ q.cons && ringRoom c && (s.cmds.filter (·.ring = r)).length < 64 && !s.mgmt.restarting && instActive s (cmdInst r)
      && !s.iodLost
  | _, _ => false

/-- Places after the instance served last, in round robin order (R459). -/
def rrDist (s : State) (n : Nat) : Nat := (n + 1023 - s.rrLast) % 1024

/-- The engine's order (R459): the administration ring first, then the command rings in round robin by instance. -/
def engineTurn (s : State) (r : CmdRing) : Bool :=
  match r with
  | .admin => takeable s .admin
  | .inst n => takeable s (.inst n) && !takeable s .admin
      && (tkeys s.instances).all fun m => !takeable s (.inst m) || rrDist s n ≤ rrDist s m

/-- The engine takes the next command of a ring: the consumer index advances, the completion entry is reserved, the command
is counted. The answer is the command's ring index. -/
def takeCmd (s : State) (r : CmdRing) : Option (BitVec 32 × State) :=
  if engineTurn s r then
    match getRing s (cmdRingKey r) with
    | some q =>
      let s := modRing s (cmdRingKey r) fun q => { q with cons := q.cons + 1 }
      let s := modRing s (cplRingKey r) fun c => { c with reserved := c.reserved + 1 }
      let s := countInst s (cmdInst r) 5 1
      some (q.cons, match r with | .admin => s | .inst n => { s with rrLast := n })
    | none => none
  else none

/-- Taking and carrying out one command (R458-R461). f is the command's own rule, given its instance and its identity.
The recovery loader completes every command but FW_WRITE and FW_ACTIVATE with NOT_READY (R531); an administration-only opcode
from a command ring completes with NOT_PERMITTED (R461), or with NOT_READY where its function has not reported READY (R11). An OPCODE that the
table of R461 does not list completes with BAD_PARAM (log entry 35). -/
def runCmd (opcode : Nat) (adminOnly : Bool) (r : CmdRing) (d : Cmd) (f : Nat → Nat → State → State × Answer)
    (s : State) : State :=
  match takeCmd s r with
  | none => s
  | some (index, s) =>
    let id := s.nextId
    let s := { s with nextId := s.nextId + 1 }
    let opcode := d.unlisted.getD opcode
    let (s, a) :=
      if s.mgmt.recovery && !(r = .admin && (opcode = 0x75 || opcode = 0x76)) then (s, Answer.fail stNotReady)
      else if d.unlisted.isSome then (s, Answer.fail stBadParam)
      else if adminOnly && r ≠ .admin then
        (s, Answer.fail (if (f (cmdInst r) id s).2 = Answer.fail stNotReady then stNotReady else stNotPermitted))
      else f (cmdInst r) id s
    match a with
    | .done st result buf =>
      let inst := cmdInst r
      let s := if buf = [] then s else hostWrite s inst (getInst s inst).home d.bufAddr.toNat buf
      completeCmd s r d.tag index opcode st buf.length result
    | .wait arg =>
      { s with cmds := s.cmds ++ [{ id := id, ring := r, tag := d.tag, index := index, opcode := opcode, arg := arg }] }

/-- A listed OPCODE (R461), and reserved bytes of a command that are zero (R5): the descriptor's own, and those of ARGS outside the ranges
named. -/
def cmdReservedOk (d : Cmd) (used : List (Nat × Nat)) : Bool :=
  d.unlisted.isNone && d.reserved = 0 && (List.range 40).all fun i => used.any (fun u => u.1 ≤ i && i < u.1 + u.2) || byteAt d.args i = 0

/-- Answers a failing command, or carries it out: the shape of every command's rule. -/
def orElse (s : State) (fail : List (Bool × Nat)) (ok : State → State × Answer) : State × Answer :=
  match firstFail fail with
  | some st => (s, Answer.fail st)
  | none => ok s

end Sys2Proof.Machine
end

