-- ==== Sys2Proof/Machine/Array.lean ====
section
/-! DEFINITION. The array: geometry (R14, R15, R155), queues, credits and link slots (R143-R151), routing (R146-R149, R109),
the choice of an operation and its firing (R98-R125), crossings (R156, R158), the join condition (R171). Cycles are those of
State.now (log entry 1). -/

namespace Sys2Proof.Machine

open Sys2Proof

-- ------------------------------------------------------------------ geometry

def dieOf (core : Nat) : Nat := core / 5120
/-- Logical cluster number d·320 + cy·16 + cx of a core. -/
def clusterOf (core : Nat) : Nat := core / 16
def dieOfCluster (c : Nat) : Nat := c / 320

/-- Grid position in the die (R15). -/
def gridX (core : Nat) : Nat := 4 * (clusterOf core % 320 % 16) + core % 4
def gridY (core : Nat) : Nat := 4 * (clusterOf core % 320 / 16) + core % 16 / 4

/-- The core at a grid position of a die. -/
def coreAt (d x y : Nat) : Nat := d * 5120 + (y / 4 * 16 + x / 4) * 16 + (y % 4) * 4 + x % 4

/-- What a core's link in a direction joins: 0 N, 1 E, 2 S, 3 W (R155). -/
inductive LinkEnd where
  | core (g : Nat)
  | cross (g : Nat)
  | io
  deriving DecidableEq, Repr

def linkEnd (core dir : Nat) : LinkEnd :=
  let d := dieOf core
  let x := gridX core
  let y := gridY core
  match dir with
  | 0 => if 0 < y then .core (coreAt d x (y - 1)) else if 2 ≤ d then .cross (coreAt (d - 2) x 79) else .io
  | 1 => if x < 63 then .core (coreAt d (x + 1) y) else if d % 2 = 0 then .cross (coreAt (d + 1) 0 y) else .io
  | 2 => if y < 79 then .core (coreAt d x (y + 1)) else if d < 2 then .cross (coreAt (d + 2) x 0) else .io
  | _ => if 0 < x then .core (coreAt d (x - 1) y) else if d % 2 = 1 then .cross (coreAt (d - 1) 63 y) else .io

def oppDir (dir : Nat) : Nat := (dir + 2) % 4

def qKey (core dir shelf : Nat) : Nat := (core * 4 + dir) * 4 + shelf
def csKey (core shelf : Nat) : Nat := core * 4 + shelf
def joinKey (core shelf entry : Nat) : Nat := (core * 4 + shelf) * 256 + entry

def getQ (s : State) (core dir shelf : Nat) : InQ := tgetD s.inqs (qKey core dir shelf) {}
def modQ (s : State) (core dir shelf : Nat) (f : InQ → InQ) : State :=
  { s with inqs := tmodD s.inqs (qKey core dir shelf) {} f }
def getCs (s : State) (core shelf : Nat) : CoreShelf := tgetD s.cores (csKey core shelf) {}
def modCs (s : State) (core shelf : Nat) (f : CoreShelf → CoreShelf) : State :=
  { s with cores := tmodD s.cores (csKey core shelf) {} f }

/-- The UCIe ring link between two dies (R519): 4 CD0–CD1, 5 CD1–CD3, 6 CD3–CD2, 7 CD2–CD0. -/
def ringLinkOf (d1 d2 : Nat) : Nat :=
  match min d1 d2, max d1 d2 with
  | 0, 1 => 4
  | 1, 3 => 5
  | 2, 3 => 6
  | _, _ => 7

-- ------------------------------------------------------------------ units on the array

/-- The unit that holds a shelf of a cluster, in any state. -/
def unitAt (s : State) (cluster shelf : Nat) : Option (Nat × MUnit) :=
  s.units.find? fun u => u.2.clusters.contains cluster && u.2.shelves.contains shelf

/-- The pattern a cluster follows in a cycle (R199, R200): a switch fixed in advance holds from its cycle. -/
def patternAt (s : State) (cluster t : Nat) : Pattern :=
  let c := getCluster s cluster
  match c.switchAt with
  | some (c0, p) => if c0 ≤ t then p else c.pattern
  | none => c.pattern

/-- The active shelf of a cluster in a cycle (R98, R199). -/
def activeShelf (s : State) (cluster t : Nat) : Option Nat :=
  match patternAt s cluster t with
  | .idle => none
  | .single k => some k
  | .fold f ks => ks[(t + f - Config.foldEpoch (dieOfCluster cluster) % f) % f]?

/-- Is an input queue frozen by a back-pressure location in force (R548, R549, R554)? -/
def isFrozen (s : State) (core dir shelf : Nat) : Bool :=
  regBit s tstCtrl 0 && bit s.dieUp.toNat (dieOf core) && (getQ s core dir shelf).frozen
  && (List.range 4).any fun n =>
    let v := regRaw s (tstBp + 8 * n)
    bit v 31 && bits v 14 0 = core && bits v 16 15 = dir && bits v 18 17 = shelf

-- ------------------------------------------------------------------ settling what time has brought

def kindCode : TokKind → Nat
  | .data => 0
  | .mark => 1
  | .select => 2
  | .void => 3

def kindOf (n : Nat) : TokKind := match n with | 0 => .data | 1 => .mark | 2 => .select | _ => .void

/-- Payload and tag (R140): the nine bytes that parity covers, byte 8 being the tag. -/
def tokenBits (k : Token) : Nat := k.payload.toNat + (k.chan % 16 + kindCode k.kind * 16 + k.shelf % 4 * 64) * 2 ^ 64

/-- The even parity of byte i of a word (R141). -/
def parityBit (w i : Nat) : Nat := ((List.range 8).map fun j => w / 2 ^ (8 * i + j) % 2).sum % 2

/-- The nine parity bits, bit i covering byte i (R141). -/
def parityBits (w : Nat) : Nat := ((List.range 9).map fun i => parityBit w i * 2 ^ i).sum

/-- The link word of a token (R141): [80:72] parity, [71:64] tag, [63:0] payload. -/
def linkWord (k : Token) : BitVec 81 := BitVec.ofNat 81 (tokenBits k + parityBits (tokenBits k) * 2 ^ 72)

/-- The token that a router takes from a link word: none where a byte fails its parity (R141, R174). -/
def receiveWord (w : BitVec 81) : Option Token :=
  let v := w.toNat
  let b := v % 2 ^ 72
  if parityBits b = v / 2 ^ 72 then
    some { payload := BitVec.ofNat 64 b, kind := kindOf (bits b 69 68), chan := bits b 67 64, shelf := bits b 71 70 }
  else none

/-- Tokens whose cycle has come enter the queue in slot order, each as the router takes it from its link word (R141, R143, R144); credits come
back (R147). -/
def settleQ (t : Nat) (q : InQ) : InQ :=
  let new := q.inflight.filter (·.1 ≤ t)
  let n := new.countP (·.1 = t)
  { q with toks := q.toks ++ new.filterMap fun x => receiveWord (linkWord x.2),
           inflight := q.inflight.filter fun x => t < x.1,
           owed := q.owed.filter (t < ·),
           lastIn := if n = 0 then q.lastIn else (t, (if q.lastIn.1 = t then q.lastIn.2 else 0) + n) }

/-- Register writes that have completed (R104). -/
def settleCs (t : Nat) (c : CoreShelf) : CoreShelf :=
  { c with regs := (c.pend.filter (·.due ≤ t)).foldl (fun r p => tsetD r p.reg 0 p.val) c.regs,
           pend := c.pend.filter (t < ·.due) }

/-- A byte of cluster SRAM with the writes whose access cycle is before t (R113). -/
def clByteAt (s : State) (cluster addr t : Nat) : Byte :=
  s.clPend.foldl (fun v (w : ClAccess) =>
      if w.cluster = cluster ∧ w.at_ < t ∧ w.addr ≤ addr ∧ addr < w.addr + w.data.length then w.data.getD (addr - w.addr) 0#8
      else v)
    (tgetD s.clsram (cluster * 2 ^ 20 + addr) 0#8)

/-- Keeps the pending cluster accesses in the order they take effect: by access cycle, then by core index k (R113). -/
def insAccess (w : ClAccess) : List ClAccess → List ClAccess
  | [] => [w]
  | x :: t => if w.at_ < x.at_ ∨ (w.at_ = x.at_ ∧ w.k < x.k) then w :: x :: t else x :: insAccess w t

/-- Cluster writes whose access cycle has come. -/
def settleCluster (s : State) (t : Nat) : State :=
  let done := s.clPend.filter (·.at_ ≤ t)
  let mem := done.foldl (fun m w =>
    ((List.range w.data.length).foldl (fun m i =>
      tsetD m (w.cluster * 2 ^ 20 + w.addr + i) 0#8 (w.data.getD i 0#8)) m)) s.clsram
  { s with clsram := mem, clPend := s.clPend.filter (t < ·.at_) }

/-- Queue sources of an operation with the position each reads (R145). -/
def qSources (f : OpF) : List (Nat × Nat × Nat) :=
  let l := ([(0, f.a), (1, f.b), (2, f.c)]).filter fun x => srcIsQueue x.2
  (List.range l.length).map fun i =>
    let x := l.getD i (0, 0)
    (x.1, x.2, ((l.take i).filter fun y => srcDir y.2 = srcDir x.2).length)

def tokAt (s : State) (core shelf : Nat) (src : Nat × Nat × Nat) : Option Token :=
  ((getQ s core (srcDir src.2.1) shelf).toks[src.2.2]?).filter fun k => k.chan = srcChan src.2.1

def isJoin (f : OpF) : Bool := 2 ≤ ((qSources f).filter fun x => srcMarked x.2.1).length

/-- R120: one marked source holds a MARK and another DATA or VOID. -/
def markMismatch (s : State) (core shelf : Nat) (f : OpF) : Bool :=
  let ks := ((qSources f).filter fun x => srcMarked x.2.1).filterMap (tokAt s core shelf)
  ks.any (·.kind = .mark) && ks.any fun k => k.kind = .data || k.kind = .void

/-- The starvation condition of a join (R171). -/
def joinHeld (s : State) (core shelf : Nat) (f : OpF) : Bool :=
  let m := (qSources f).filter fun x => srcMarked x.2.1
  markMismatch s core shelf f ||
  m.any fun x => (getQ s core (srcDir x.2.1) shelf).toks.length = 8 &&
    m.any fun y => y.1 ≠ x.1 && (tokAt s core shelf y).isNone

/-- Is a core of a copy that is set aside (R510)? Its joins are not watched. -/
def coreAside (u : MUnit) (core : Nat) : Bool :=
  u.aside.any fun a => u.copies.any fun c => c.lane = a.1 && c.copy = a.2 && c.cores.contains core

/-- Restarts or keeps the count of every join of a core in a cycle (R171). -/
def updateJoins (s : State) (core t : Nat) : State :=
  (List.range 4).foldl (fun s shelf =>
    match unitAt s (clusterOf core) shelf with
    | none => s
    | some (_, u) =>
      if (u.st = .fired ∨ u.st = .cooling) ∧ coreAside u core = false then
        (getCs s core shelf).ops.foldl (fun s e =>
          let f := opDecode e.2
          let k := joinKey core shelf e.1
          if isJoin f then
            if joinHeld s core shelf f then
              (if (tget s.joinSince k).isSome then s else { s with joinSince := tset s.joinSince k t })
            else { s with joinSince := tdel s.joinSince k, joinDone := tdel s.joinDone k }
          else s) s
      else s) s

/-- Every queue and register of a core as of a cycle: arrivals are taken cycle by cycle, so that the joins' counts start in
the cycle in which their condition first holds. -/
def settleCore (s : State) (core t : Nat) : State :=
  let dues := (((List.range 16).flatMap fun i => (tgetD s.inqs (core * 16 + i) {}).inflight.map (·.1)).filter (· ≤ t)).dedup.mergeSort
  let s := dues.foldl (fun s c =>
    let s := (List.range 16).foldl (fun s i =>
      if (tget s.inqs (core * 16 + i)).isSome then { s with inqs := tmod s.inqs (core * 16 + i) (settleQ c) } else s) s
    updateJoins s core c) s
  let s := (List.range 16).foldl (fun s i =>
    if (tget s.inqs (core * 16 + i)).isSome then { s with inqs := tmod s.inqs (core * 16 + i) (settleQ t) } else s) s
  (List.range 4).foldl (fun s k => { s with cores := tmod s.cores (csKey core k) (settleCs t) }) s

-- ------------------------------------------------------------------ credits, slots and placing tokens

/-- Free slots of a queue for its sender in a cycle: 8 less what is in it, on its way, and freed too late to be used
(R147, R148). -/
def queueCredit (q : InQ) (t : Nat) : Nat :=
  8 - (q.toks.length + q.inflight.length + (q.owed.filter (t < ·)).length)

/-- Free slots of a crossing FIFO for its sender (R156). -/
def fifoCredit (x : XFifo) (t : Nat) : Nat := 32 - (x.toks.length + (x.owed.filter (t < ·)).length)

/-- Credits a core holds toward a direction and shelf in a cycle; an exit link always has credit (R163). -/
def creditOf (s : State) (core dir shelf t : Nat) : Nat :=
  if s.noStall then 1024 else
  match linkEnd core dir with
  | .core g => queueCredit (getQ s g (oppDir dir) shelf) t
  | .cross g => fifoCredit (tgetD s.xfifos (qKey g (oppDir dir) shelf) {}) t
  | .io => 1024

/-- Tokens already placed or reserved on a link in a cycle (R148). -/
def slotsUsed (s : State) (core dir c : Nat) : Nat :=
  match linkEnd core dir with
  | .core g => ((List.range 4).map fun k => ((getQ s g (oppDir dir) k).inflight.filter (·.1 = c + 1)).length).sum
  | .cross g => ((List.range 4).map fun k => ((tgetD s.xfifos (qKey g (oppDir dir) k) {}).toks.filter (·.1 = c)).length).sum
  | .io => ((tgetD s.exitSlots (core * 4 + dir) []).filter (· = c)).length

/-- Slots per core cycle: two, on a crossing one (R156). -/
def slotCap (core dir : Nat) : Nat := match linkEnd core dir with | .cross _ => 1 | _ => 2

def insDue (d : Nat) (k : Token) : List (Nat × Token) → List (Nat × Token)
  | [] => [(d, k)]
  | x :: t => if d < x.1 then (d, k) :: x :: t else x :: insDue d k t

/-- The unit, lane and copy whose exit link this is, for a shelf (R224). -/
def exitOf (s : State) (core dir shelf : Nat) : Option (Nat × IoLink) :=
  s.units.findSome? fun u =>
    if u.2.shelves.contains shelf then
      (u.2.io.find? fun i => i.dir = 1 && i.core = core && i.side = dir).map fun i => (u.1, i)
    else none

/-- A token leaves on an exit link in a cycle: kept for the glaze unit with its time, unless its copy is set aside (R163, R510). -/
def exitToken (s : State) (core dir : Nat) (k : Token) (c : Nat) : State :=
  let s := { s with exitSlots := tmodD s.exitSlots (core * 4 + dir) [] fun l => (l.filter (cycleOf s ≤ ·)) ++ [c] }
  match exitOf s core dir k.shelf with
  | none => s
  | some (u, i) =>
    modUnit s u fun m =>
      if m.aside.contains (i.lane, i.copy) then m
      else { m with exits := tmodD m.exits (i.lane * 4 + i.copy) [] fun l => insDue (c * coreCycle) k l }

/-- Places a token on a link in a cycle: it uses a slot and a credit (R143, R147, R156). -/
def placeToken (s : State) (core dir : Nat) (k : Token) (c : Nat) : State :=
  match linkEnd core dir with
  | .core g => modQ s g (oppDir dir) k.shelf fun q => { q with inflight := insDue (c + 1) k q.inflight }
  | .cross g =>
    { s with xfifos := tmodD s.xfifos (qKey g (oppDir dir) k.shelf) {} fun x => { x with toks := insDue c k x.toks } }
  | .io => exitToken s core dir k c

/-- Removes the tokens at some positions of a queue; their slots are free for the sender from cycle t + 2 (R147). -/
def removeToks (q : InQ) (ps : List Nat) (t : Nat) : InQ :=
  { q with toks := ((List.range q.toks.length).filter fun i => !ps.contains i).filterMap fun i => q.toks[i]?,
           owed := q.owed ++ ((List.range q.toks.length).filter ps.contains).map fun _ => t + 2 }

-- ------------------------------------------------------------------ the router

def routeEntry (s : State) (core shelf dir chan : Nat) : Nat :=
  (tgetD (getCs s core shelf).route (dir * 16 + chan) 0#8).toNat

/-- Does the store entry that consumes a direction and channel of a shelf consume it through an unmarked source (R109)? Where
an entry names the pair more than once, its first source that consumes reads the head (R145). -/
def unmarkedConsumer (s : State) (core shelf dir chan : Nat) : Bool :=
  (getCs s core shelf).ops.any fun e =>
    let f := opDecode e.2
    f.op ≠ 0 && (([f.a, f.b, f.c].filter fun x => srcEats x && srcDir x = dir && srcChan x = chan).take 1).any fun x => !srcMarked x

/-- One round of R149: each arrival queue, N, E, S, W and within a direction shelf 0 to 3, passes or discards at most its head. -/
def routeRound (s : State) (core t : Nat) : State :=
  (List.range 16).foldl (fun s i =>
    let dir := i / 4
    let shelf := i % 4
    match (getQ s core dir shelf).toks with
    | [] => s
    | k :: _ =>
      if isFrozen s core dir shelf then s
      else
        let act := bits (routeEntry s core shelf dir k.chan) 2 0
        if act = 1 then
          (if (k.kind = .mark ∨ k.kind = .void) ∧ unmarkedConsumer s core shelf dir k.chan = true then
            modQ s core dir shelf fun q => removeToks q [0] t else s)
        else if 2 ≤ act ∧ act ≤ 5 then
          let o := act - 2
          if slotsUsed s core o t < slotCap core o ∧ 0 < creditOf s core o shelf t then
            placeToken (modQ s core dir shelf fun q => removeToks q [0] t) core o k t
          else s
        else s) s

/-- The router in one cycle: rounds until none of the 128 queue places could still move (R149). -/
def routeCore (s : State) (core t : Nat) : State :=
  updateJoins ((List.range 9).foldl (fun s _ => routeRound s core t) (settleCore s core t)) core t

-- ------------------------------------------------------------------ memory of a shelf

/-- Address of byte i of an access within a partition, wrapping at its end (R110). -/
def partAddr (base size a i : Nat) : Nat := base + (a % size + i) % size

/-- The SRAM that a core reaches for a shelf: that of its own row, or of the next under a shifted setting (R527). -/
def coreSpace (shifted : Bool) (core : Nat) : Nat := if shifted then core + 20480 else core
def clusterSpace (shifted : Bool) (cluster : Nat) : Nat := if shifted then cluster + 1280 else cluster

/-- Was a unit loaded under the shifted setting of a cluster's column (R527)? -/
def colShifted (u : MUnit) (cluster : Nat) : Bool := u.shiftedCols.contains (dieOfCluster cluster * 16 + cluster % 16)

def readCore (s : State) (core : Nat) (c : CoreShelf) (a n : Nat) : Bytes :=
  (List.range n).map fun i => tgetD s.csram (coreSpace c.shifted core * 2 ^ 16 + partAddr c.csBase c.csSize (a % 2 ^ 16) i) 0#8

def writeCore (s : State) (core : Nat) (c : CoreShelf) (a : Nat) (data : Bytes) : State :=
  { s with csram := (List.range data.length).foldl (fun m i =>
      tsetD m (coreSpace c.shifted core * 2 ^ 16 + partAddr c.csBase c.csSize (a % 2 ^ 16) i) 0#8 (data.getD i 0#8)) s.csram }

/-- A cluster SRAM read fired in cycle t sees every write whose access cycle is before t + 12 (R113). -/
def readCluster (s : State) (core : Nat) (c : CoreShelf) (a n t : Nat) : Bytes :=
  (List.range n).map fun i => clByteAt s (clusterSpace c.shifted (clusterOf core)) (partAddr c.clBase c.clSize (a % 2 ^ 20) i) (t + 12)

/-- A cluster SRAM write fired in cycle t takes effect in cycle t + 12, byte by byte in case it wraps (R110, R113). -/
def writeCluster (s : State) (core : Nat) (c : CoreShelf) (a : Nat) (data : Bytes) (t : Nat) : State :=
  (List.range data.length).foldl (fun s i =>
    let w : ClAccess :=
        { at_ := t + 12, k := core % 16, cluster := clusterSpace c.shifted (clusterOf core),
          addr := partAddr c.clBase c.clSize (a % 2 ^ 20) i, data := [data.getD i 0#8] }
    { s with clPend := insAccess w s.clPend }) s

-- ------------------------------------------------------------------ firing

inductive Mode where
  | data
  | void
  | mark
  deriving DecidableEq, Repr

/-- The firing mode of the heads of the marked sources, or none where R119 lets the operation not fire. -/
def firingMode (op : Nat) (kinds : List TokKind) : Option Mode :=
  if kinds.any (· = .mark) then (if kinds.all (· = .mark) then some .mark else none)
  else if kinds.any (· = .void) && (op ≠ 0x43 || kinds.all (· = .void)) then some .void
  else some .data

/-- Registers an operation reads (R102): register sources, the address register, the weight-scale base of an MX DOT (the register after g31
being g0: log entry 94). -/
def opReads (f : OpF) : List Nat :=
  (([f.a, f.b, f.c].filter fun x => srcKind x = 1).map fun x => bits x 4 0)
  ++ (if (opMemKind f).isSome then [auxAreg f] else [])
  ++ (if f.op = 0x30 ∧ fmtIsMx f.fmt = true then [(auxAreg f + 1) % 32] else [])

def opIsAcc (op : Nat) : Bool := op = 0x30 || op = 0x26 || op = 0x27 || op = 0x2A

def opDsts (f : OpF) : List Nat := if f.dstEn then (if f.op = 0x30 ∧ dotRows f = 4 then [f.dst, (f.dst + 1) % 32] else [f.dst]) else []

/-- A register as the next firing of its accumulating entry sees it: the latest write, completed or not (R102). -/
def regLatest (c : CoreShelf) (r : Nat) : Nat :=
  match (c.pend.filter (·.reg = r)).getLast? with
  | some p => p.val.toNat
  | none => (tgetD c.regs r 0).toNat

/-- Tokens a group close emits as its result (R123): k for a widening CVT, two for an MXFP6 DOT, else one. DESIGN CHOICE (log entry 107): a void group's
close emits that many VOID tokens too, where R123 says 'a VOID token'. -/
def closeCount (f : OpF) : Nat := if f.op = 0x30 ∧ dotRows f = 4 then 2 else cvtOut f

/-- Tokens a firing emits per output when EMIT_WRAP does not withhold them. DESIGN CHOICE (log entry 107): a void-mode firing emits one VOID for each
token that a data-mode firing would emit, where R121 says VOID and no number. -/
def plainCount (f : OpF) (st : OpState) : Nat :=
  if f.op = 0x2A then 0
  else if 1 < packIn f then b2n (fmtLanes (auxFmt f) ≤ st.packed + fmtLanes f.fmt)
  else closeCount f

/-- Does a data-mode or void-mode firing close its group (R118)? -/
def wraps (f : OpF) (ctr : BitVec 32 × BitVec 32) : Bool :=
  f.cen && f.op ≠ 0x40 && ctr.2 ≠ 0 && ctr.1 + 1 = ctr.2

/-- Tokens per output of a firing (R102 item 4, R104, R123, R124). -/
def tokensOut (f : OpF) (st : OpState) (ctr : BitVec 32 × BitVec 32) (m : Mode) : Nat :=
  match m with
  | .mark => (if f.cen && ctr.1 ≠ 0 && f.emitWrap then closeCount f else 0) + 1
  | _ => (if f.emitWrap then 0 else plainCount f st)
      + (if wraps f ctr then (if f.emitWrap then closeCount f else 0) + b2n f.markWrap else 0)

/-- May n tokens go out in a direction from cycle c on: credits for all, and slots, two a cycle (R103, R148; log entry 95)? -/
def outputFits (s : State) (core dir shelf n t c : Nat) : Bool :=
  n ≤ creditOf s core dir shelf t &&
  (List.range n).all fun i =>
    let cap := slotCap core dir
    let cyc := c + i / cap
    slotsUsed s core dir cyc + (min n ((i / cap + 1) * cap) - i / cap * cap) ≤ cap

def emitShelf (s : State) (core shelf dir chan : Nat) : Nat := bits (routeEntry s core shelf dir chan) 5 4

/-- The mode in which an operation is ready in a cycle, if it is (R102). An accumulating operation waits for no write of its own store entry to
its DST, whatever else it reads that register for. -/
def readyMode (s : State) (core shelf entry t : Nat) (f : OpF) : Option Mode :=
  let c := getCs s core shelf
  let qs := qSources f
  let st := tgetD c.opState entry {}
  let ctr := tgetD c.counters f.csel (0, 0)
  if f.op = 0 then none
  else if t < tgetD c.notBefore entry 0 then none
  else if !(qs.all fun x => (tokAt s core shelf x).isSome && !isFrozen s core (srcDir x.2.1) shelf) then none
  else
    match firingMode f.op (((qs.filter fun x => srcMarked x.2.1).filterMap (tokAt s core shelf)).map (·.kind)) with
    | none => none
    | some m =>
      let own := fun (p : PendWrite) => opIsAcc f.op && p.entry = entry && (opDsts f).contains p.reg
      let busy := fun r => c.pend.any fun p => p.reg = r && !own p
      let busyElse := fun r => c.pend.any fun p => p.reg = r && p.entry ≠ entry
      let n := tokensOut f st ctr m
      if m ≠ .mark && ((opReads f).any busy || (opIsAcc f.op && (opDsts f).any busyElse)) then none
      else if (opDsts f).any busyElse then none
      else if !((opOuts f).all fun d => n = 0 || outputFits s core d (emitShelf s core shelf d f.chan) n t (t + opLat f)) then none
      else some m

/-- The value an operand source gives (R107); mem is what its memory source reads. -/
def srcValue (s : State) (core shelf : Nat) (f : OpF) (mem which x : Nat) : Nat :=
  let c := getCs s core shelf
  match srcKind x with
  | 1 => (tgetD c.regs (bits x 4 0) 0).toNat
  | 2 => match (qSources f).find? (·.1 = which) with
    | some q => ((tokAt s core shelf q).map (·.payload.toNat)).getD 0
    | none => 0
  | 3 => (tgetD c.counters (bits x 1 0) (0, 0)).1.toNat
  | 4 => immValue f
  | 0 => 0
  | _ => mem

/-- Emits tokens on one output from a cycle on, at most a link's slots per cycle (R104, R115): where a firing has more tokens than the link has
slots in cycle t + LAT, the rest take the slots of the cycles after it (DESIGN CHOICE; log entry 95). -/
def emitOn (s : State) (core shelf dir : Nat) (f : OpF) (toks : List (TokKind × DWord)) (c : Nat) : State :=
  (List.range toks.length).foldl (fun s i =>
    let x := toks.getD i (.void, 0)
    placeToken s core dir { payload := x.2, kind := x.1, chan := f.chan, shelf := emitShelf s core shelf dir f.chan }
      (c + i / slotCap core dir)) s

/-- Consumes queue sources that a predicate picks (R102, R123). -/
def consumeSources (s : State) (core shelf t : Nat) (f : OpF) (p : Nat → Bool) : State :=
  let qs := (qSources f).filter fun x => p x.2.1
  (List.range 4).foldl (fun s d =>
    match (qs.filter fun x => srcDir x.2.1 = d).map (·.2.2) with
    | [] => s
    | ps => modQ s core d shelf fun q => removeToks q ps t) s

/-- What a firing leaves: the tokens of each branch and the changes of the core's own state. -/
structure Firing where
  toks : List (TokKind × DWord) := []
  /-- SWITCH: the branch that receives toks; every other branch receives alt -/
  branch : Option Nat := none
  alt : List (TokKind × DWord) := []
  regs : List (Nat × DWord) := []
  ctr : Option (BitVec 32 × BitVec 32) := none
  st : OpState := {}
  /-- a memory write: kind, address, bytes -/
  store : Option (Nat × Nat × Bytes) := none
  eat : Nat → Bool := fun _ => false

/-- The kind of token an operation emits in data mode (R114, R117). -/
def dataKind (s : State) (core shelf : Nat) (f : OpF) : TokKind :=
  if f.op = 0x01 then
    (match (qSources f).find? (·.1 = 0) with
     | some q => ((tokAt s core shelf q).map (·.kind)).getD .data
     | none => .data)
  else if f.op = 0x41 then .select
  else if f.op = 0x06 then .mark
  else .data

/-- MERGE: the first of A, B, C that is not VOID (R114, R119); a register, counter or immediate is never VOID. -/
def mergePick (s : State) (core shelf : Nat) (f : OpF) (mem : Nat) : TokKind × DWord :=
  let look : Nat × Nat → Option (TokKind × DWord) := fun x =>
    match srcKind x.2 with
    | 0 => none
    | 2 => match (qSources f).find? (·.1 = x.1) with
      | some q => ((tokAt s core shelf q).filter fun k => k.kind ≠ .void).map fun k => (k.kind, k.payload)
      | none => none
    | _ => some (.data, dw (srcValue s core shelf f mem x.1 x.2))
  (([(0, f.a), (1, f.b), (2, f.c)].filterMap look).head?).getD (.void, 0)

/-- The accumulators of DOT, VSUM and VMAXR, held in DST and, in MXFP6, g[DST + 1] (R114, R134). -/
def accWords (c : CoreShelf) (f : OpF) : List DWord :=
  dw (regLatest c f.dst) :: (if f.op = 0x30 ∧ dotRows f = 4 then [dw (regLatest c ((f.dst + 1) % 32))] else [])

/-- A closing group's result tokens (R123): the scale, the accumulators, else the group's last result; free where none stands. A group without data
gives one VOID for each token that its result would have (DESIGN CHOICE; log entry 107). -/
def closeToks (f : OpF) (st : OpState) (acc : List DWord) : List (TokKind × DWord) :=
  if st.hasData then
    (if f.op = 0x2A then [dw (amaxScale f st)]
     else if opIsAcc f.op then acc
     else if st.last.isEmpty then [dw (Config.openResult [f.op, f.fmt, f.rnd, b2n f.sat, auxFmt f, st.packed, st.pack.toNat, st.closed])]
     else st.last).map fun w => (TokKind.data, w)
  else (List.range (closeCount f)).map fun _ => (.void, 0)

/-- What a group's close leaves of the operation's state (R123 item 5). -/
def closeState (st : OpState) : OpState := { st with hasData := false, runMax := 0, runBad := false, last := [], closed := st.closed + 1 }

/-- What an unselected branch of SWITCH receives where the selected one receives some tokens: a VOID for each result (R125). -/
def offBranch (toks : List (TokKind × DWord)) : List (TokKind × DWord) :=
  toks.map fun x => if x.1 = .mark then x else (.void, 0)

/-- Works out one firing of an operation in a mode (R117-R125 and the firing procedure). The register after g31 is g0, which an MX DOT with
AREG 31 reads its scale base from (R134; DESIGN CHOICE; log entry 94). -/
def fireOp (s : State) (core shelf entry t : Nat) (f : OpF) (m : Mode) : Firing :=
  let c := getCs s core shelf
  let st := tgetD c.opState entry {}
  let ctr := tgetD c.counters f.csel (0, 0)
  let clearRegs := (opDsts f).map fun r => (r, (0 : DWord))
  let marks := ((qSources f).filter fun x => srcMarked x.2.1).filterMap (tokAt s core shelf)
  match m with
  | .mark =>
    let lvl := marks.foldl (fun a k => max a (k.payload.toNat % 16)) 0
    let closes := f.cen && ctr.1 ≠ 0
    let toks := (if closes && f.emitWrap then closeToks f st (accWords c f) else []) ++ [(.mark, dw lvl)]
    { toks := toks,
      branch := if f.op = 0x42 then some st.lastBranch else none,
      alt := offBranch toks,
      regs := if closes && f.clearWrap then clearRegs else [],
      ctr := if closes && f.op ≠ 0x40 then some (0, ctr.2) else none,
      st := if closes then closeState st else st,
      eat := fun x => srcMarked x || (closes && srcEats x && srcCw x) }
  | .void =>
    if f.op = 0x40 then { st := st, eat := fun x => srcEats x && !srcCw x }
    else
      let w := wraps f ctr
      let toks := (if f.emitWrap then [] else (List.range (plainCount f st)).map fun _ => (TokKind.void, (0 : DWord)))
        ++ (if w && f.emitWrap then closeToks f st (accWords c f) else [])
        ++ (if w && f.markWrap then [(.mark, dw f.lvl)] else [])
      { toks := toks,
        branch := if f.op = 0x42 then some st.lastBranch else none,
        alt := offBranch toks,
        regs := if w && f.clearWrap then clearRegs else [],
        ctr := if f.cen then some (if w then (0, ctr.2) else (ctr.1 + 1, ctr.2)) else none,
        st := if w then closeState st else st,
        eat := fun x => srcEats x && (!srcCw x || w ||
          (f.op = 0x30 && fmtIsMx f.fmt && x = f.c && f.cen && (ctr.1.toNat + 1) % blockTokens f.fmt = 0)) }
  | .data =>
    let v := if f.cen then ctr.1.toNat else 0
    let a := srcValue s core shelf f 0 0 f.a
    let g := fun r => (tgetD c.regs r 0).toNat
    let addr := g (auxAreg f) + auxOff f + v * auxStride f + (if f.op = 0x03 then a % 2 ^ 16 * 8 else 0)
    let n := if f.op = 0x30 then dotRecBytes f else 8
    let rec_ := match opMemKind f with
      | some 0 => readCore s core c addr n
      | some _ => readCluster s core c addr n t
      | none => []
    let mem := le rec_ 0 8
    let b := srcValue s core shelf f mem 1 f.b
    let cc := srcValue s core shelf f mem 2 f.c
    let sw := if f.op = 0x30 ∧ fmtIsMx f.fmt = true then
        readCore s core c (g ((auxAreg f + 1) % 32) % 2 ^ 16 + v / blockTokens f.fmt * dotRows f) (dotRows f) else []
    if f.op = 0x40 then
      { ctr := some (0, BitVec.ofNat 32 (if srcKind f.b = 4 then f.aux else a)), st := { st with hasData := true },
        eat := fun x => srcEats x && !srcCw x }
    else
      let r := compute f a b cc rec_ sw (regLatest c f.dst) (regLatest c ((f.dst + 1) % 32)) st
      let w := wraps f ctr
      let kind := dataKind s core shelf f
      let mp := mergePick s core shelf f mem
      let plain : List (TokKind × DWord) :=
        if f.op = 0x04 ∨ f.op = 0x05 then []
        else if f.op = 0x43 then [mp]
        else r.toks.map fun x => (kind, x)
      let st' := { r.st with hasData := true, last := if f.op = 0x43 then [mp.2] else if r.toks = [] then r.st.last else r.toks,
                             lastBranch := if f.op = 0x42 then b % 4 else 0 }
      let result := if f.emitWrap then closeToks f st' r.toks else []
      let tail := if w && f.markWrap then [(TokKind.mark, dw f.lvl)] else []
      let dstVal : List (Nat × DWord) :=
        if !f.dstEn || f.op = 0x04 || f.op = 0x05 then []
        else if f.op = 0x43 then [(f.dst, mp.2)]
        else if f.op = 0x2A && w then [(f.dst, dw (amaxScale f st'))]
        else (r.dst.toList.map fun x => (f.dst, x)) ++ (r.dst2.toList.map fun x => ((f.dst + 1) % 32, x))
      let toks := (if f.emitWrap then [] else plain) ++ (if w then result else []) ++ tail
      { toks := toks,
        branch := if f.op = 0x42 then some (b % 4) else none,
        alt := offBranch toks,
        regs := dstVal ++ (if w && f.clearWrap then clearRegs else []),
        ctr := if f.cen then some (if w then (0, ctr.2) else (ctr.1 + 1, ctr.2)) else none,
        st := if w then closeState st' else st',
        store := if f.op = 0x04 then (opMemKind f).map fun k => (k, addr, toLe 8 a) else none,
        eat := fun x => srcEats x && (!srcCw x || w ||
          (f.op = 0x30 && fmtIsMx f.fmt && x = f.c && f.cen && (v + 1) % blockTokens f.fmt = 0)) }

/-- Carries out a firing at cycle t. A firing that fails its check (R508) emits and writes nothing but consumes its inputs. -/
def applyFiring (s : State) (core shelf entry t : Nat) (f : OpF) (x : Firing) (fails : Bool) : State :=
  let c := getCs s core shelf
  let outs := opOuts f
  let s := consumeSources s core shelf t f x.eat
  let s := modCs s core shelf fun c =>
    { c with counters := (match x.ctr with | some v => tset c.counters f.csel v | none => c.counters),
             opState := tsetD c.opState entry {} x.st,
             notBefore := tset c.notBefore entry (t + opII f),
             busyUntil := max c.busyUntil (t + (if x.store.any (·.1 ≠ 0) then 12 else opLat f)),
             pend := if fails then c.pend
               else c.pend ++ x.regs.map fun r => { due := t + opLat f, entry := entry, reg := r.1, val := r.2 } }
  let s := { s with coreFired := tset s.coreFired core (t + 1) }
  if fails then s
  else
    let s := match x.store with
      | some (0, addr, data) => writeCore s core c addr data
      | some (_, addr, data) => writeCluster s core c addr data t
      | none => s
    (List.range outs.length).foldl (fun s i =>
      let toks := match x.branch with
        | some b => if b = i then x.toks else x.alt
        | none => x.toks
      emitOn s core shelf (outs.getD i 0) f toks (t + opLat f)) s

/-- The lowest-index ready operation of a shelf of a core (R101). -/
def pickOn (s : State) (core t shelf : Nat) : Option (Nat × Nat × OpF × Mode) :=
  (getCs s core shelf).ops.findSome? fun e =>
    let f := opDecode e.2
    (readyMode s core shelf e.1 t f).map fun m => (shelf, e.1, f, m)

/-- The lowest-index ready operation of the core's active shelf (R101). -/
def pickOp (s : State) (core t : Nat) : Option (Nat × Nat × OpF × Mode) :=
  match activeShelf s (clusterOf core) t with
  | none => none
  | some shelf => pickOn s core t shelf

/-- One engine cycle of a core: passing tokens first (R150), then at most one firing (R101). -/
def engineCycle (s : State) (core : Nat) (fails : Bool) : State :=
  let t := cycleOf s
  let s := routeCore (settleCluster s t) core t
  if tgetD s.coreFired core 0 = t + 1 then s
  else
    match pickOp s core t with
    | none => s
    | some (shelf, e, f, m) => updateJoins (applyFiring s core shelf e t f (fireOp s core shelf e t f m) fails) core t

-- ------------------------------------------------------------------ crossings (R156, R550)

/-- The delay a test register adds to a ring link's crossings (R550). -/
def xingDelay (s : State) (d1 d2 : Nat) : Nat :=
  if regBit s tstCtrl 0 then bits (regRaw s tstXingDelay) (8 * (ringLinkOf d1 d2 - 4) + 7) (8 * (ringLinkOf d1 d2 - 4)) else 0

/-- By how many cycles a token that was sent in a cycle arrives late: each retry makes the tokens late that are in flight at it, sent and not yet at
the end of their crossing (R158). -/
def lateBy (late : List (Nat × Nat)) (sent lat : Nat) : Nat :=
  late.foldl (fun a r => if sent ≤ r.1 && r.1 < sent + lat + a then a + r.2 else a) 0

/-- One shelf's crossing FIFO into one receiving queue in a cycle: at most two tokens a cycle, in order, whose latency has
passed, each under the queue's own credits; the freed slot's credit returns after the crossing and two cycles. DESIGN CHOICE (log entry 109):
the two tokens a cycle are a limit of each shelf's FIFO, not of the link's FIFOs together. -/
def crossShelf (s : State) (core dir shelf lat t : Nat) : State :=
  let key := qKey core dir shelf
  let q := settleQ t (getQ s core dir shelf)
  let x := tgetD s.xfifos key {}
  let done := if x.moved.1 = t then x.moved.2 else 0
  let due := (x.toks.takeWhile fun k => k.1 + lat + lateBy x.late k.1 lat ≤ t).length
  let n := min (min due (2 - done)) (if s.noStall then 2 else queueCredit q t)
  if n = 0 then s
  else
    let rest := x.toks.drop n
    let x' : XFifo := { toks := rest, owed := (x.owed.filter (t < ·)) ++ (List.range n).map (fun _ => t + lat + 2),
                        moved := (t, done + n), late := x.late.filter fun r => rest.any fun k => k.1 ≤ r.1 }
    let s := { s with xfifos := tset s.xfifos key x' }
    modQ s core dir shelf fun q => { q with inflight := (x.toks.take n).foldl (fun l k => insDue t k.2 l) q.inflight }

end Sys2Proof.Machine
end

