-- ==== Sys2Proof/Machine/Image.lean ====
section
/-! DEFINITION. The Tsuva image (R217-R237, R258): reading it, the checks of admission (R188, R192-R194, R219, R238, R259) and of
verification of its structure (R139, R154, R162, R224-R230, R236). The recomputed figures are in Schedule.lean. -/

namespace Sys2Proof.Machine

open Sys2Proof

-- ------------------------------------------------------------------ header and directory (R217, R218, R221, R222)

/-- A directory entry. -/
structure Sec where
  type : Nat
  variant : Nat
  tag : Nat
  count : Nat
  off : Nat
  len : Nat
  resv : Bool
  deriving DecidableEq, Repr

def imgKind (b : Bytes) : Nat := byteAt b 0x10
def imgFlag (b : Bytes) (i : Nat) : Bool := bit (byteAt b 0x11) i
def imgDrainClean (b : Bytes) : Bool := imgFlag b 0
def imgGuard (b : Bytes) : Bool := imgFlag b 1
def imgFull (b : Bytes) : Bool := imgFlag b 2

def headerOk (b : Bytes) (len : Nat) : Bool :=
  le b 0 4 = 0x41565354 && le b 4 2 = 1 && le b 6 2 = 0 && le b 8 8 = len && 128 ≤ len && len ≤ 2 ^ 35
  && imgKind b ≤ 1 && byteAt b 0x11 < 8 && (imgKind b = 0 || byteAt b 0x11 < 2)
  && 1 ≤ le b 0x12 2 && le b 0x12 2 ≤ 64 && zeroAt b 0x18 8 && zeroAt b 0x30 16 && zeroAt b 0x60 32

def imgDir (b : Bytes) : List Sec :=
  (List.range (le b 0x12 2)).map fun i =>
    let o := 0x80 + 32 * i
    { type := le b o 2, variant := byteAt b (o + 2), tag := byteAt b (o + 3), count := le b (o + 4) 4, off := le b (o + 8) 8,
      len := le b (o + 16) 8, resv := !zeroAt b (o + 24) 8 }

def secAll (dir : List Sec) (type variant : Nat) : List Sec := dir.filter fun x => x.type = type && x.variant = variant
def secOf (dir : List Sec) (type variant : Nat) : Option Sec := (secAll dir type variant).head?

/-- The bytes of a section; none if the image lacks it, or if it does not lie within an image of a legal length (R217, R218). -/
def secBytes (b : Bytes) (x : Option Sec) : Bytes :=
  match x with
  | some x => if x.off + x.len ≤ le b 8 8 ∧ le b 8 8 ≤ 2 ^ 35 then sliceZ b x.off x.len else []
  | none => []

/-- The records of a section that are looked at: its COUNT, or one more than its length can hold at a least size, which no check of
a section's records passes. -/
def recordsUpTo (x : Sec) (least : Nat) : Nat := min x.count (x.len / least + 1)

/-- The variants whose VARIANT section is present, in the decision order of R192. -/
def imgVariants (dir : List Sec) : List Nat := [0, 2, 3, 4, 5].filter fun v => (secOf dir 1 v).isSome

def typeOk (kind : Nat) (x : Sec) : Bool :=
  (x.tag = 0 || x.type = 0x12)
  && (if x.type ≤ 5 then 1 ≤ x.type && [0, 2, 3, 4, 5].contains x.variant && (x.type ≠ 5 || kind = 0)
      else if x.type = 6 || x.type = 7 then x.variant = 5
      else if x.type = 0x10 || x.type = 0x11 || x.type = 0x12 then x.variant = 0xFF && kind = 0
      else x.type = 0x20 && x.variant = 0xFF && kind = 1)

def rangesApart (l : List (Nat × Nat)) : Bool :=
  decide (l.Pairwise fun x y => x.2 = 0 ∨ y.2 = 0 ∨ x.1 + x.2 ≤ y.1 ∨ y.1 + y.2 ≤ x.1)

/-- Strictly rising numbers. -/
def rising (l : List Nat) : Bool := decide (l.Pairwise (· < ·))

/-- The directory obeys R217, R221 and R222. A VARIANT or GENERATION section holds one record (R223, R258), so its COUNT is 1 (log
entry 9). -/
def dirOk (b : Bytes) : Bool :=
  let dir := imgDir b
  let kind := imgKind b
  let vs := imgVariants dir
  dir.all (fun x => !x.resv && x.off % 8 = 0 && x.off + x.len ≤ le b 8 8 && typeOk kind x
      && (x.len = 0 || 0x80 + 32 * dir.length ≤ x.off))
  && rangesApart (dir.map fun x => (x.off, x.len))
  && !vs.isEmpty
  && dir.all (fun x => 7 < x.type || vs.contains x.variant) && dir.all (fun x => (x.type ≠ 1 && x.type ≠ 0x20) || x.count = 1)
  && vs.all (fun v => (secAll dir 1 v).length = 1 && (secAll dir 2 v).length = 1 && (secAll dir 3 v).length ≤ 1
      && (secAll dir 4 v).length = 1 && (secAll dir 5 v).length = (if kind = 0 then 1 else 0)
      && (v ≠ 5 || ((secAll dir 6 5).length = 1 && (secAll dir 7 5).length = 1)))
  && (secAll dir 0x10 0xFF).length = (if kind = 0 then 1 else 0) && (secAll dir 0x11 0xFF).length = (if kind = 0 then 1 else 0)
  && (secAll dir 0x20 0xFF).length = (if kind = 1 then 1 else 0)

-- ------------------------------------------------------------------ variants (R223, R202)

/-- The head of a VARIANT section with its cluster list and I/O entries. -/
structure Variant where
  code : Nat
  fold : Nat
  lanes : Nat
  firing : Nat
  ii : Nat
  critN : Nat
  power : Nat
  fullLat : Nat
  streamBw : List Nat
  streamBytes : Nat
  clusters : List Nat
  io : List IoLink
  deriving DecidableEq, Repr

def foldOf (v : Nat) : Nat := if v = 2 ∨ v = 3 ∨ v = 4 then v else 1

def variantOf (b : Bytes) (v : Nat) : Variant :=
  let x := secBytes b (secOf (imgDir b) 1 v)
  let n := le x 4 2
  let io := 64 + roundUp (2 * n) 8
  { code := v, fold := byteAt x 1, lanes := byteAt x 2, firing := le x 8 2, ii := le x 0xA 2, critN := le x 0xC 2,
    power := le x 0xE 2, fullLat := le x 0x10 4, streamBw := (List.range 4).map fun i => le x (0x18 + 2 * i) 2,
    streamBytes := le x 0x20 8, clusters := (List.range n).map fun i => le x (64 + 2 * i) 2,
    io := (List.range (le x 6 2)).map fun i =>
      let o := io + 8 * i
      { dir := byteAt x o, lane := byteAt x (o + 1), copy := byteAt x (o + 2), chan := byteAt x (o + 3), core := le x (o + 4) 2,
        side := byteAt x (o + 6) } }

/-- R223, R33 and R202 for the head of one variant. -/
def variantOk (b : Bytes) (v : Nat) : Bool :=
  let dir := imgDir b
  let x := secBytes b (secOf dir 1 v)
  let w := variantOf b v
  let p := variantOf b 0
  let n := le x 4 2
  let stream := (secBytes b (secOf dir 7 5)).length
  64 ≤ x.length && byteAt x 0 = v && w.fold = foldOf v && 1 ≤ w.lanes && w.lanes ≤ 8 && (imgKind b = 0 || w.lanes = 1)
  && (imgVariants dir).all (fun u => (variantOf b u).lanes = w.lanes)
  && byteAt x 3 = 0 && 1 ≤ n && n ≤ 1280 && 1 ≤ le x 6 2 && le x 6 2 ≤ 512 && 16 ≤ w.firing && w.firing ≤ 16384
  && 1 ≤ w.ii && w.ii ≤ 1024 && (foldOf v ≠ 1 || w.critN = 0) && 1 ≤ w.power && w.power ≤ 280
  && (if imgFull b then 16 ≤ w.fullLat && w.fullLat ≤ 1048576 else w.fullLat = 0)
  && zeroAt x 0x14 4 && zeroAt x 0x28 24 && w.streamBw.all (· ≤ 1500)
  && (if v = 5 then w.streamBytes = stream else w.streamBytes = 0 && w.streamBw.all (· = 0))
  && (foldOf v = 1 || ((imgVariants dir).contains 0 && foldOf v * p.ii ≤ w.ii && w.firing ≤ p.firing + (foldOf v - 1) * w.critN))

/-- R223 for what follows the head of the chosen variant: the cluster list, and room for the I/O entries (R238). -/
def variantListOk (b : Bytes) (v : Nat) : Bool :=
  let x := secBytes b (secOf (imgDir b) 1 v)
  let w := variantOf b v
  let n := le x 4 2
  64 + roundUp (2 * n) 8 + 8 * le x 6 2 ≤ x.length && w.clusters.all (· < 1280) && rising w.clusters
  && zeroAt x (64 + 2 * n) (roundUp (2 * n) 8 - 2 * n)

-- ------------------------------------------------------------------ bindings, extractors, templates (R233-R237, R50-R52, R70-R73)

def bindingAt (x : Bytes) (i : Nat) : Binding :=
  let o := 64 * i
  let f := fun k n => le x (o + k) n
  { number := f 0 1, priority := f 1 1, ports := f 2 2, w := f 4 2, extractor := f 6 1, fullExtractor := f 7 1, extent := f 8 4,
    matchFlags := f 0xC 1, ethertype := f 0xE 2, vlan := f 0x10 2, udpPort := f 0x12 2, qpLo := f 0x14 4, qpHi := f 0x18 4,
    pTimeout := f 0x1C 4, steerHold := f 0x20 4, retain := f 0x24 4, slip := f 0x28 1, unjudgedAs := f 0x29 1,
    checkPolicy := f 0x2A 1, replyPort := f 0x2B 1, replyGuard := f 0x2C 1, templates := f 0x2D 1, steerTable := f 0x2E 2,
    mirrorTable := f 0x30 1, guard := f 0x31 1 }

def imgBindings (b : Bytes) : List Binding :=
  match secOf (imgDir b) 0x10 0xFF with
  | some x => (List.range (min x.count 16)).map (bindingAt (secBytes b (some x)))
  | none => []

def bindingOk (b : Bytes) (x : Bytes) (i : Nat) : Bool :=
  let k := bindingAt x i
  k.number < 64 && k.priority < 16 && 0 < k.ports && 1 ≤ k.w && k.w ≤ 4096
  && (if imgFull b then k.w ≤ k.extent && k.extent ≤ 1048576 else k.fullExtractor = 255 && k.extent = 0 && k.retain = 0)
  && k.matchFlags < 16 && byteAt x (64 * i + 0xD) = 0 && k.vlan < 4096 && k.qpLo < 2 ^ 24 && k.qpHi < 2 ^ 24 && k.qpLo ≤ k.qpHi
  && 1000 ≤ k.pTimeout && k.pTimeout ≤ 10000000 && 1000 ≤ k.steerHold && k.steerHold ≤ 1000000
  && k.retain ≤ 2 ^ 30 && k.retain % 4096 = 0 && k.slip ≤ 64 && k.unjudgedAs ≤ 1 && k.checkPolicy ≤ 1
  && (k.replyPort < 16 || k.replyPort = 255) && k.replyGuard ≤ 1 && k.templates ≤ 16 && k.steerTable ≤ 256 && k.mirrorTable ≤ 16
  && k.guard = b2n (imgGuard b) && zeroAt x (64 * i + 0x32) 14

/-- Extractor records: head and steps, one after the other. -/
def extractorsFrom (x : Bytes) : Nat → Nat → List (Nat × Nat × List ExtStep)
  | 0, _ => []
  | n + 1, o =>
    let c := byteAt x (o + 1)
    let steps := (List.range c).map fun i =>
      let p := o + 8 + 16 * i
      { step := byteAt x p, chan := byteAt x (p + 1), arg := byteAt x (p + 2), offset := le x (p + 4) 4, length := le x (p + 8) 4 }
    (byteAt x o, o, steps) :: extractorsFrom x n (o + 8 + 16 * c)

def imgExtractors (b : Bytes) : List (Nat × Nat × List ExtStep) :=
  match secOf (imgDir b) 0x11 0xFF with
  | some x => extractorsFrom (secBytes b (some x)) (recordsUpTo x 8) 0
  | none => []

/-- One step under a window length (R51, R52, R235, R236). -/
def stepOk (w : Nat) (k : ExtStep) : Bool :=
  let lim := max 4096 w
  k.chan < 16 &&
  (if k.step = 1 then k.arg ≤ 1 && 1 ≤ k.length && k.length ≤ 8 && k.offset + k.length ≤ w
   else if k.step = 2 ∨ k.step = 3 then k.arg = 0 && 1 ≤ k.length && k.length ≤ lim && k.offset + k.length ≤ w
   else if k.step = 4 then k.arg = 0 && k.offset = 0 && k.length = 0
   else if k.step = 5 then k.arg ≤ 3 && k.offset = 0 && k.length = 0
   else k.step = 6 && 1 ≤ k.arg && k.arg ≤ 15 && k.offset = 0 && k.length = 0)

/-- DATA tokens of a step. -/
def stepTokens (k : ExtStep) : Nat := if k.step = 2 then ceilDiv k.length 8 else if k.step = 6 then 0 else 1

def extractorFits (w : Nat) (steps : List ExtStep) : Bool :=
  1 ≤ steps.length && steps.length ≤ 64 && steps.all (stepOk w) && 8 * (steps.map stepTokens).sum ≤ w + 64

def findExt (b : Bytes) (id : Nat) : Option (List ExtStep) :=
  ((imgExtractors b).find? (·.1 = id)).map (·.2.2)

def extractorsOk (b : Bytes) : Bool :=
  let x := secBytes b (secOf (imgDir b) 0x11 0xFF)
  let es := imgExtractors b
  let bs := imgBindings b
  es.all (fun e => e.2.1 + 8 + 16 * e.2.2.length ≤ x.length && zeroAt x (e.2.1 + 2) 6
      && (List.range e.2.2.length).all (fun i => byteAt x (e.2.1 + 8 + 16 * i + 3) = 0 && zeroAt x (e.2.1 + 8 + 16 * i + 12) 4))
  && rising (es.map (·.1))
  && es.all (fun e => bs.any fun k => k.extractor = e.1 || (imgFull b && k.fullExtractor = e.1))
  && bs.all (fun k => (match findExt b k.extractor with | some st => extractorFits k.w st | none => false)
      && (!imgFull b || match findExt b k.fullExtractor with | some st => extractorFits k.extent st | none => false))

/-- Template records of one section. -/
def templatesFrom (x : Bytes) (binding : Nat) : Nat → Nat → List (Nat × Template)
  | 0, _ => []
  | n + 1, o =>
    let il := le x (o + 4) 2
    let fo := o + 0x10 + roundUp il 8
    let t : Template :=
      { binding := binding, number := byteAt x (o + 2), flags := byteAt x (o + 3), image := sliceZ x (o + 0x10) il,
        payloadOff := le x (o + 6) 2,
        fields := (List.range (byteAt x (o + 8))).map fun i =>
          { op := byteAt x (fo + 8 * i), len := byteAt x (fo + 8 * i + 1), dst := le x (fo + 8 * i + 2) 2,
            src := le x (fo + 8 * i + 4) 2 } }
    (o, t) :: templatesFrom x binding n (o + le x o 2)

def imgTemplateSecs (b : Bytes) : List Sec := secAll (imgDir b) 0x12 0xFF

def imgTemplates (b : Bytes) : List Template :=
  (imgTemplateSecs b).flatMap fun s => (templatesFrom (secBytes b (some s)) s.tag (min s.count 16) 0).map (·.2)

def fieldLenOk (k : FieldOp) : Bool :=
  if k.op = 1 ∨ k.op = 2 then 1 ≤ k.len && k.len ≤ 64
  else if k.op = 3 then k.len = 4
  else if k.op = 4 then k.len = 8
  else if 5 ≤ k.op ∧ k.op ≤ 9 then k.len = 2
  else k.op = 0xA && k.len = 1

def templateOk (b : Bytes) (k : Binding) (x : Bytes) (r : Nat × Template) : Bool :=
  let o := r.1
  let t := r.2
  let il := t.image.length
  let rl := 0x10 + roundUp il 8 + 8 * t.fields.length
  let fo := o + 0x10 + roundUp il 8
  o + rl ≤ x.length && le x o 2 = rl && t.number < 16 && t.flags < 16 && 42 ≤ il && il ≤ 512 && t.payloadOff ≤ 108
  && t.fields.length ≤ 32 && zeroAt x (o + 9) 7
  && (List.range t.fields.length).all (fun i => zeroAt x (fo + 8 * i + 6) 2)
  && t.fields.all (fun f => fieldLenOk f && f.dst + f.len ≤ il && (f.op ≠ 1 || f.src + f.len ≤ k.w)
      && (f.op ≠ 2 || f.src + f.len ≤ 64) && (f.op ≠ 9 || bit t.flags 1))
  && (bit t.flags 0 || (k.checkPolicy = 0 && !imgFull b))

def templatesOk (b : Bytes) : Bool :=
  let ss := imgTemplateSecs b
  let bs := imgBindings b
  decide ((ss.map (·.tag)).Pairwise (· ≠ ·))
  && ss.all (fun s => bs.any fun k => k.number = s.tag && 0 < k.templates)
  && bs.all fun k =>
    match ss.find? (·.tag = k.number) with
    | none => k.templates = 0
    | some s =>
      let x := secBytes b (some s)
      let ts := templatesFrom x s.tag (min s.count 16) 0
      s.count = k.templates && ts.all (templateOk b k x) && decide ((ts.map (·.2.number)).Pairwise (· ≠ ·))

def bindingsOk (b : Bytes) : Bool :=
  match secOf (imgDir b) 0x10 0xFF with
  | none => false
  | some s =>
    let x := secBytes b (some s)
    1 ≤ s.count && s.count ≤ 16 && 64 * s.count ≤ s.len && (List.range s.count).all (bindingOk b x)
    && decide (((imgBindings b).map (·.number)).Pairwise (· ≠ ·)) && extractorsOk b && templatesOk b

-- ------------------------------------------------------------------ generation (R258, R259)

def genOf (b : Bytes) : GenParams :=
  let x := secBytes b (secOf (imgDir b) 0x20 0xFF)
  { service := byteAt x 0, slots := byteAt x 1, ingestMax := byteAt x 2, vocab := le x 4 4, maxCtx := le x 8 2, onCtx := le x 0xA 2,
    kvBytes := le x 0xC 4, latBase := le x 0x10 4, ctxCost := le x 0x14 2, spillCost := le x 0x16 2,
    spillBw := (List.range 4).map fun i => le x (0x18 + 2 * i) 2, spillBytes := le x 0x20 8 }

def generationOk (b : Bytes) : Bool :=
  let x := secBytes b (secOf (imgDir b) 0x20 0xFF)
  let g := genOf b
  let v := variantOf b 0
  let bw := g.spillBw.sum
  64 ≤ x.length && g.service < 16 && 1 ≤ g.slots && g.slots ≤ 64 && 1 ≤ g.ingestMax && g.ingestMax ≤ 32 && byteAt x 3 = 0
  && 2 ≤ g.vocab && g.vocab ≤ 262144 && 16 ≤ g.maxCtx && g.maxCtx ≤ 2048 && 16 ≤ g.onCtx && g.onCtx ≤ g.maxCtx
  && 1 ≤ g.kvBytes && g.kvBytes ≤ 65536 && 16 ≤ g.latBase && g.latBase ≤ 16777215 && g.spillBw.all (· ≤ 1500)
  && (g.onCtx < g.maxCtx || (g.spillCost = 0 && bw = 0))
  && g.spillBytes = g.slots * (g.maxCtx - g.onCtx) * g.kvBytes && zeroAt x 0x28 24
  && imgVariants (imgDir b) = [0] && v.critN = 0 && v.fullLat = 0 && v.streamBw.all (· = 0)
  && g.ingestMax * v.ii ≤ v.firing
  && (g.onCtx = g.maxCtx || (0 < bw && ceilDiv (g.slots * g.kvBytes * 16) (10 * bw) ≤ g.spillCost))

-- ------------------------------------------------------------------ core configuration (R226, R227, R100)

/-- The records of a CORE_CONFIG section: (offset in the section, record). -/
def configsFrom (x : Bytes) : Nat → Nat → List (Nat × CoreConfig)
  | 0, _ => []
  | n + 1, o =>
    let ops := le x (o + 4) 2
    let size := fun l => if l = 0 then 0 else 2 ^ l
    (o, { core := le x o 2, shelfRel := byteAt x (o + 2), csBase := le x (o + 8) 2, csSize := size (byteAt x (o + 0xA)),
          clBase := le x (o + 0xC) 4, clSize := size (byteAt x (o + 0xB)),
          counters := (List.range 4).map fun i => (le x (o + 0x10 + 8 * i) 4, le x (o + 0x14 + 8 * i) 4),
          regs := (List.range 32).map fun i => le x (o + 0x30 + 8 * i) 8, route := sliceZ x (o + 0x130) 64,
          ops := (List.range ops).map fun i => le x (o + 0x170 + 16 * i) 16 })
      :: configsFrom x n (o + 0x170 + 16 * ops)

def imgConfigs (b : Bytes) (v : Nat) : List (Nat × CoreConfig) :=
  match secOf (imgDir b) 2 v with
  | some s => configsFrom (secBytes b (some s)) (recordsUpTo s 0x170) 0
  | none => []

/-- A range of SRAM: space (a core, or 20 480 + a cluster), base, size. -/
abbrev SRange := Nat × Nat × Nat

/-- The partitions that records give, a cluster's once for each shelf (R227). -/
def rangesOf (cs : List CoreConfig) : List SRange :=
  (cs.filterMap fun c => if c.csSize = 0 then none else some (c.core, c.csBase, c.csSize))
  ++ ((cs.filterMap fun c => if c.clSize = 0 then none else some (clusterOf c.core, c.shelfRel, c.clBase, c.clSize)).dedup.map
      fun r => (20480 + r.1, r.2.2.1, r.2.2.2))

def overlapBytes (x y : SRange) : Nat :=
  if x.1 = y.1 then min (x.2.1 + x.2.2) (y.2.1 + y.2.2) - max x.2.1 y.2.1 else 0

/-- R226, R227 and R100 on the fields that admission reads. -/
def configsOk (b : Bytes) (v : Variant) : Bool :=
  let x := secBytes b (secOf (imgDir b) 2 v.code)
  let rs := imgConfigs b v.code
  let cs : List CoreConfig := rs.map (·.2)
  rs.all (fun r =>
    let c := r.2
    let lg := byteAt x (r.1 + 0xA)
    let cl := byteAt x (r.1 + 0xB)
    r.1 + 0x170 + 16 * c.ops.length ≤ x.length && v.clusters.contains (clusterOf c.core) && c.shelfRel < v.fold
    && c.ops.length ≤ 256 && (lg = 0 || (10 ≤ lg && lg ≤ 16)) && (cl = 0 || (12 ≤ cl && cl ≤ 20))
    && (c.csSize = 0 || (c.csBase % c.csSize = 0 && c.csBase + c.csSize ≤ 65536))
    && (c.clSize = 0 || (c.clBase % c.clSize = 0 && c.clBase + c.clSize ≤ 1048576)))
  && rising (cs.map fun c => c.core * 4 + c.shelfRel)
  && cs.all (fun c => cs.all fun d =>
      clusterOf c.core ≠ clusterOf d.core || c.shelfRel ≠ d.shelfRel || (c.clBase = d.clBase && c.clSize = d.clSize))
  && decide ((rangesOf cs).Pairwise fun x y => overlapBytes x y = 0)

-- ------------------------------------------------------------------ what is resident

/-- Does a cluster count as retired (R19, R593)? -/
def clusterRetired (s : State) (c : Nat) : Bool := (getCluster s c).retired || !bit s.dieUp.toNat (dieOfCluster c)

/-- A die-to-die module's retirement is kept as channel kind 3 with lane 0xFF (R519). -/
def moduleChan (link m : Nat) : Channel := { kind := 3, num := link + 256 * m + 65536 * 0xFF }

def moduleRetired (s : State) (link m : Nat) : Bool := (s.retired ++ s.byHand).contains (moduleChan link m)

/-- The die-to-die link and module that carry a core's crossing or I/O link (R519). -/
def moduleOf (core dir : Nat) : Option (Nat × Nat) :=
  match linkEnd core dir with
  | .core _ => none
  | .cross g => some (ringLinkOf (dieOf core) (dieOf g), (if dir % 2 = 1 then gridY core else gridX core) % 8)
  | .io => some (dieOf core, (if dir % 2 = 0 then gridX core else 64 + gridY core) % 10)

def linkRetired (s : State) (core dir : Nat) : Bool :=
  match moduleOf core dir with
  | some (l, m) => moduleRetired s l m
  | none => false

/-- Committed power in mW (R32). -/
def committedPower (s : State) : Nat :=
  150000 + ((List.range 1280).map fun c =>
    ((tvals s.units).filter fun u => u.powerHeld && u.clusters.contains c).foldl (fun m u => max m u.power) 0).sum

/-- Committed power with a further unit. -/
def committedWith (s : State) (clusters : List Nat) (power : Nat) : Nat :=
  150000 + ((List.range 1280).map fun c =>
    ((tvals s.units).filter fun u => u.powerHeld && u.clusters.contains c).foldl (fun m u => max m u.power)
      (if clusters.contains c then power else 0)).sum

/-- HBM bandwidth a unit reserves on a die (R196, R257). -/
def unitBw (u : MUnit) (d : Nat) : Nat := u.streamBw.getD d 0 + ((u.gen.map fun g => g.spillBw.getD d 0).getD 0)

def reservedBw (s : State) (d : Nat) : Nat := ((tvals s.units).map (unitBw · d)).sum
def reservedBwAll (s : State) : Nat := ((List.range 4).map (reservedBw s)).sum

/-- Bound I/O links of a die in one direction, each once (R159). -/
def ioCount (ls : List IoLink) (dir die : Nat) : Nat :=
  ((ls.filter fun i => i.dir = dir && dieOf i.core = die).map fun i => (i.core, i.side)).dedup.length

/-- The bytes an image asks of an HBM region (R490): streamed or spill bytes, and with the retention buffers. -/
def hbmBase (b : Bytes) (v : Variant) : Nat :=
  if imgKind b = 1 then (genOf b).spillBytes else v.streamBytes

def hbmLen (b : Bytes) (v : Variant) : Nat :=
  let r := ((imgBindings b).map (·.retain)).sum
  if r = 0 then hbmBase b v else (if hbmBase b v = 0 then 0 else roundUp (hbmBase b v) 4096) + r

/-- Does a unit's extent meet a range of a region (R490)? -/
def extentsMeet (s : State) (region off len : Nat) : Bool :=
  (tvals s.units).any fun u =>
    match u.extent with
    | some (r, o, l) => r = region && o < off + len && off < o + l
    | none => false

-- ------------------------------------------------------------------ admission (R188, R192-R194)

/-- The arguments of LOAD (R462). -/
structure LoadArgs where
  len : Nat
  shelves : List Nat
  maxFold : Nat
  allowStream : Nat
  region : Nat
  hbmOff : Nat
  allowance : List Nat
  argsOk : Bool
  deriving DecidableEq, Repr

def loadArgs (d : Cmd) : LoadArgs :=
  { len := le d.args 8 8, shelves := (List.range 4).filter fun i => bit (byteAt d.args 16) i, maxFold := byteAt d.args 17,
    allowStream := byteAt d.args 18, region := le d.args 20 2, hbmOff := le d.args 24 8,
    allowance := (List.range 1280).filter fun c => bit (byteAt d.buf (c / 8)) (c % 8),
    argsOk := cmdReservedOk d [(0, 19), (20, 2), (24, 8)] && d.bufLen = 160 && byteAt d.args 16 < 16 && 0 < byteAt d.args 16
      && 1 ≤ byteAt d.args 17 && byteAt d.args 17 ≤ 4 && byteAt d.args 18 ≤ 1 }

/-- Variants tried, in order (R192). -/
def triedVariants (b : Bytes) (a : LoadArgs) : List Nat :=
  (imgVariants (imgDir b)).filter fun v =>
    if v = 5 then a.allowStream = 1 else foldOf v = 1 || (foldOf v ≤ a.maxFold && foldOf v ≤ a.shelves.length)

/-- The pending shift that moves a cluster's row (R527). -/
def pendingShift (s : State) (c : Nat) : Option Shift :=
  s.shiftPend.find? fun x => x.die = dieOfCluster c && x.column = c % 16 && x.row ≤ c % 320 / 16

/-- The physical cluster of a logical cluster under one setting while a shift of its column is pending (R527), numbered
die*1000 + row*16 + column; other clusters by their logical row. -/
def physCluster (s : State) (shifted : Bool) (c : Nat) : Nat :=
  dieOfCluster c * 1000 + c % 320 + (if shifted && (pendingShift s c).isSome then 16 else 0)

/-- A core's or a cluster's SRAM range in physical terms. -/
def physRange (s : State) (shifted : Nat → Bool) (x : SRange) : SRange :=
  if x.1 < 20480 then (physCluster s (shifted (clusterOf x.1)) (clusterOf x.1) * 16 + x.1 % 16, x.2)
  else (100000 + physCluster s (shifted (x.1 - 20480)) (x.1 - 20480), x.2)

/-- The columns that a load places under the shifted setting (R527). -/
def loadShiftedCols (s : State) (clusters : List Nat) : List Nat :=
  (clusters.filterMap fun c => (pendingShift s c).map fun x => x.die * 16 + x.column).dedup

/-- Does a physical cluster of a load under a shifted setting hold a unit of another instance (R527)? -/
def physForeign (s : State) (inst : Nat) (clusters : List Nat) : Bool :=
  clusters.any fun c => (pendingShift s c).isSome && (tvals s.units).any fun u =>
    u.owner ≠ inst && u.clusters.any fun k => physCluster s (colShifted u k) k = physCluster s true c

/-- The ranges that resident shelves hold. -/
def residentRanges (s : State) : List SRange :=
  (tvals s.units).flatMap fun u => (rangesOf u.configs).map (physRange s (colShifted u))

def variantCfgs (b : Bytes) (v : Nat) : List CoreConfig := (imgConfigs b v).map (·.2)

def outsideOf (b : Bytes) (a : LoadArgs) (v : Nat) : List Nat := (variantOf b v).clusters.filter fun c => !a.allowance.contains c

def overlapOf (s : State) (b : Bytes) (v : Nat) : Nat :=
  ((rangesOf (variantCfgs b v)).map fun x => ((residentRanges s).map (overlapBytes (physRange s (fun _ => true) x))).sum).sum

/-- R192: does a variant fit? -/
def fits (s : State) (b : Bytes) (a : LoadArgs) (v : Nat) : Bool := (outsideOf b a v).isEmpty && overlapOf s b v = 0

/-- The variants admission tries: up to the first that fits. -/
def readVariants (s : State) (b : Bytes) (a : LoadArgs) : List Nat :=
  let t := triedVariants b a
  match t.findIdx? (fits s b a) with
  | some i => t.take (i + 1)
  | none => t

/-- BAD_PARAM conditions of admission (R188, R238, R259, and note 3 of R560). -/
def imageOk (s : State) (b : Bytes) (a : LoadArgs) : Bool :=
  headerOk b a.len && dirOk b && (imgVariants (imgDir b)).all (variantOk b)
  && (if imgKind b = 0 then bindingsOk b else generationOk b)
  && (imgBindings b).all (fun k => (List.range 16).all (fun p => !bit k.ports p || portExists s p)
      && (k.replyPort = 255 || portExists s k.replyPort))
  && (readVariants s b a).all fun v => configsOk b (variantOf b v)

def regionLen (s : State) (r : Nat) : Nat := ((tget s.regions r).map fun x => x.blocks.length * 2 ^ 28).getD 0

/-- Bytes of an HBM region that no unit's extent holds. -/
def regionFree (s : State) (r : Nat) : Nat :=
  regionLen s r - ((tvals s.units).filterMap fun u => (u.extent.filter (·.1 = r)).map (·.2.2)).sum

/-- The shortfall of TOO_LARGE (R194): variant, CORES_SHORT, BYTES_SHORT. -/
def shortfall (s : State) (b : Bytes) (a : LoadArgs) : Nat × Nat × Nat :=
  match triedVariants b a with
  | [] => (0xFF, 0, 0)
  | v0 :: t =>
    let v := t.foldl (fun m v => if (outsideOf b a v).length ≤ (outsideOf b a m).length then v else m) v0
    let out := outsideOf b a v
    let placed := ((rangesOf (variantCfgs b v)).filter fun x =>
      out.contains (if x.1 < 20480 then clusterOf x.1 else x.1 - 20480)).map (·.2.2)
    let w := if v = 5 then (variantOf b 5).streamBytes - regionFree s a.region else 0
    (v, 16 * out.length, placed.sum + overlapOf s b v + w)

/-- Binding numbers of an instance's or another instance's units. -/
def bindingLimitsOk (s : State) (inst : Nat) (bs : List Binding) : Bool :=
  let others := (tvals s.units).filter fun u => u.owner ≠ inst
  bs.all (fun k => !(others.any fun u => u.bindings.any (·.number = k.number)))
  && (List.range 16).all fun p =>
    ((((tvals s.units).flatMap (·.bindings) ++ bs).filter fun k => bit k.ports p).map (·.number)).dedup.length ≤ 16

/-- Is the cluster outside the instance's saggar for a LOAD taken now (R484, R487)? -/
def clusterForeign (s : State) (inst c : Nat) : Bool := (getCluster s c).owner ≠ some inst || (getCluster s c).leaving

/-- The limit after a write of PWR_LIMIT that is not ignored (R35, R564). -/
def limitAfter (limit : Nat) (c : Instr) : Nat :=
  let set := fun (v : Nat) => if 200 ≤ v ∧ v ≤ 520 then v else limit
  match c with
  | .pwrLimitWrite v => set v.toNat
  | .registerWrite off size all v => if off = pwrLimit ∧ all = true ∧ (size = 4 ∨ size = 8) then set (v.toNat % 2 ^ 32) else limit
  | _ => limit

/-- The power limit that a LOAD is checked against: that of the writes which come in its FAB cycle, those behind it in the queue included
(R37). -/
def limitNow (s : State) : Nat :=
  let l := regBits s pwrLimit 9 0
  if ready s rdyMgmt then s.pending.foldl limitAfter l else l

/-- Power: with the new shelf, committed power would exceed the limit (R34, R36). -/
def powerRefused (s : State) (v : Variant) : Bool := limitNow s * 1000 < committedWith s v.clusters v.power

/-- Power, I/O links, streaming pool and HBM extent of the chosen variant (R159, R34, R196, R198, R257, R490). -/
def resourcesRefused (s : State) (b : Bytes) (a : LoadArgs) (v : Variant) : Bool :=
  let ios := (tvals s.units).flatMap (·.io) ++ v.io
  let bw := fun d => v.streamBw.getD d 0 + (if imgKind b = 1 then (genOf b).spillBw.getD d 0 else 0)
  let all := ((List.range 4).map bw).sum
  (List.range 4).any (fun d => 64 < ioCount ios 0 d || 64 < ioCount ios 1 d)
  || powerRefused s v
  || (v.code = 5 && regBits s shfStreamPool 11 0 < reservedBwAll s)
  || (0 < all && (regBits s shfStreamPool 11 0 < reservedBwAll s + all || (List.range 4).any fun d => 1500 < reservedBw s d + bw d))
  || (0 < hbmLen b v && (regionLen s a.region < a.hbmOff + hbmLen b v || extentsMeet s a.region a.hbmOff (hbmLen b v)))

/-- What admission finds: a status with RESULT fields and whether power was refused, or the chosen variant and unit number. -/
inductive Admission where
  | refuse (status : Nat) (result : List (Nat × Nat × Nat)) (power : Bool)
  | take (unit : Nat) (v : Variant)
  deriving DecidableEq, Repr

def admitLoad (s : State) (inst : Nat) (d : Cmd) : Admission :=
  let a := loadArgs d
  let b := d.ext
  let ok := a.argsOk && imageOk s b a
  let chosen := if ok then (triedVariants b a).find? (fits s b a) else none
  let v := variantOf b (chosen.getD 0)
  let pick := chosen.isSome
  let held := fun p : MUnit → Bool => a.allowance.any fun c => a.shelves.any fun k =>
    match unitAt s c k with | some (_, u) => p u | none => false
  let unit := lowestFree s.units 1024
  let fail := firstFail
    [(!ready s rdyArr || !ready s rdyShf, stNotReady),
     (a.allowance.any (clusterForeign s inst), stNotPermitted),
     (pick && 0 < hbmLen b v && ((tget s.regions a.region).map (·.owner)) ≠ some inst, stNotPermitted),
     (pick && physForeign s inst v.clusters, stNotPermitted),
     (held (·.retired), stRetired),
     (pick && v.clusters.any (clusterRetired s), stRetired),
     (!ok || chosen.any (fun v => !variantListOk b v), stBadParam),
     (held fun _ => true, stStateConflict),
     (unit.isNone || (getInst s inst).shares.units ≤ ((tvals s.units).filter (·.owner = inst)).length
        || !bindingLimitsOk s inst (imgBindings b), stNoResource),
     (pick && resourcesRefused s b a v, stNoResource),
     (!pick, stTooLarge)]
  match fail, unit with
  | some st, _ =>
    let r := shortfall s b a
    .refuse st (if st = stTooLarge then [(2, 1, r.1), (16, 4, r.2.1), (24, 8, r.2.2)] else [])
      (st = stNoResource && pick && powerRefused s v)
  | none, some u => .take u v
  | none, none => .refuse stNoResource [] false

-- ------------------------------------------------------------------ what verification reads again (R219)

/-- The fields that admission read (R219): the header, the directory, the VARIANT section heads with the cluster list and the I/O entries behind them
(R188, R192 judge both, R223), the binding, extractor and template sections, a generation image's GENERATION section, and CORE, SHELF_REL, OP_COUNT
and the partition fields of every record of the variants tried. -/
def admissionFields (tried : List Nat) (b : Bytes) : List Bytes :=
  let dir := imgDir b
  [sliceZ b 0 (0x80 + 32 * le b 0x12 2)]
  ++ (dir.filter fun x => x.type = 1).map (fun x =>
      let y := secBytes b (some x)
      sliceZ y 0 (64 + roundUp (2 * le y 4 2) 8 + 8 * le y 6 2))
  ++ (dir.filter fun x => 0x10 ≤ x.type).map (fun x => secBytes b (some x))
  ++ tried.flatMap fun v =>
    let x := secBytes b (secOf dir 2 v)
    (imgConfigs b v).map fun r => sliceZ x r.1 3 ++ sliceZ x (r.1 + 4) 2 ++ sliceZ x (r.1 + 8) 8

/-- R218: SHA-256 of the whole image with DIGEST read as zero. -/
def digestOk (b : Bytes) : Bool :=
  sha256 (overlay (sliceZ b 0 (le b 8 8)) 0x40 (List.replicate 32 0#8)) = sliceZ b 0x40 32

-- ------------------------------------------------------------------ following routes (R154, R225)

/-- A placement as the loader follows it: clusters, fold factor, I/O and the records, by core*4 + relative shelf. -/
structure Place where
  clusters : List Nat
  fold : Nat
  io : List IoLink
  cfg : Table CoreConfig
  deriving DecidableEq, Repr

def placeOf (v : Variant) (cs : List CoreConfig) : Place :=
  { clusters := v.clusters, fold := v.fold, io := v.io, cfg := cs.foldl (fun t c => tset t (c.core * 4 + c.shelfRel) c) [] }

def Place.route (p : Place) (core rel dir chan : Nat) : Nat :=
  ((tget p.cfg (core * 4 + rel)).map fun c => byteAt c.route (dir * 16 + chan)).getD 0

def Place.ops (p : Place) (core rel : Nat) : List OpF :=
  ((tget p.cfg (core * 4 + rel)).map fun c => c.ops.map fun w => opDecode (BitVec.ofNat 128 w)).getD []

/-- A queue position a token can reach: core, relative shelf, arrival direction, channel. -/
abbrev Node := Nat × Nat × Nat × Nat

/-- A link out of a core that tokens take, with the shelf and channel they carry there. -/
abbrev Hop := Nat × Nat × Nat × Nat

/-- The hops of a record's emissions. -/
def Place.emits (p : Place) (core rel : Nat) (f : OpF) : List Hop :=
  (opOuts f).map fun d => (core, d, bits (p.route core rel d f.chan) 5 4, f.chan)

/-- Where a hop arrives; none on an outer edge. -/
def hopNode (h : Hop) : Option Node :=
  match linkEnd h.1 h.2.1 with
  | .core g | .cross g => some (g, h.2.2.1, oppDir h.2.1, h.2.2.2)
  | .io => none

/-- The hops that a token at a position takes next: a PASS, or the emissions of the entries that consume it. -/
def Place.next (p : Place) (n : Node) : List Hop :=
  let act := bits (p.route n.1 n.2.1 n.2.2.1 n.2.2.2) 2 0
  if 2 ≤ act ∧ act ≤ 5 then [(n.1, act - 2, n.2.1, n.2.2.2)]
  else if act = 1 then
    ((p.ops n.1 n.2.1).filter fun f => (opPairs f).contains (n.2.2.1, n.2.2.2)).flatMap (p.emits n.1 n.2.1)
  else []

/-- Every hop of the placement: all its PASS entries and all its emissions. -/
def Place.hops (p : Place) : List Hop :=
  p.cfg.flatMap fun e =>
    let core := e.1 / 4
    let rel := e.1 % 4
    ((List.range 64).filterMap fun i =>
      let act := bits (byteAt e.2.route i) 2 0
      if 2 ≤ act ∧ act ≤ 5 then some (core, act - 2, rel, i % 16) else none)
    ++ (p.ops core rel).flatMap (p.emits core rel)

/-- Does a chain of PASS actions end within a number of hops? -/
def Place.chainEnds (p : Place) : Nat → Node → Bool
  | 0, _ => false
  | k + 1, n =>
    let act := bits (p.route n.1 n.2.1 n.2.2.1 n.2.2.2) 2 0
    if 2 ≤ act ∧ act ≤ 5 then
      match hopNode (n.1, act - 2, n.2.1, n.2.2.2) with
      | some m => p.chainEnds k m
      | none => true
    else true

/-- The positions reached from a list of positions (R225). -/
def Place.reach (p : Place) : Nat → List Node → List Node → List Node
  | 0, _, seen => seen
  | _ + 1, [], seen => seen
  | k + 1, n :: todo, seen =>
    if seen.contains n then p.reach k todo seen else p.reach k ((p.next n).filterMap hopNode ++ todo) (n :: seen)

def Place.bound (p : Place) (dir core side : Nat) : Bool := p.io.any fun i => i.dir = dir && i.core = core && i.side = side

/-- The cores and links of each copy of each lane. -/
def Place.copySets (p : Place) : List CopySet :=
  ((p.io.map fun i => (i.lane, i.copy)).dedup).map fun lc =>
    let entries := (p.io.filter fun i => i.dir = 0 && i.lane = lc.1 && i.copy = lc.2).map fun i => (i.core, 0, i.side, i.chan)
    let ns := p.reach (2 ^ 24) entries []
    { lane := lc.1, copy := lc.2, cores := (ns.map (·.1)).dedup, links := (ns.map fun n => (n.1, n.2.2.1)).dedup }

/-- Is a core outside the instance's clusters for a LOAD that was taken when the clusters left were LEAVING (R487)? -/
def coreForeign (s : State) (inst : Nat) (left : List Nat) (core : Nat) : Bool :=
  (getCluster s (clusterOf core)).owner ≠ some inst || left.contains (clusterOf core)

/-- R154's NOT_PERMITTED: a used link joins a core outside the instance's clusters. A cluster that was LEAVING when the LOAD was taken is outside; one
that became LEAVING afterwards still counts as owned (R487). -/
def routeForeign (s : State) (inst : Nat) (left : List Nat) (p : Place) : Bool :=
  p.hops.any fun h => match hopNode h with | some n => coreForeign s inst left n.1 | none => false

/-- The clusters that are LEAVING now (R487). -/
def leavingNow (s : State) : List Nat := (List.range 1280).filter fun c => (getCluster s c).leaving

/-- R154's RETIRED. -/
def routeRetired (s : State) (p : Place) : Bool :=
  p.clusters.any (clusterRetired s)
  || p.hops.any (fun h => linkRetired s h.1 h.2.1 || match hopNode h with | some n => clusterRetired s (clusterOf n.1) | none => false)
  || p.io.any fun i => linkRetired s i.core i.side

/-- R154's BAD_PARAM, and an EMIT_SHELF outside the placement (R152, R227). -/
def routeBad (p : Place) : Bool :=
  p.cfg.any fun e =>
    let core := e.1 / 4
    let rel := e.1 % 4
    let ops := p.ops core rel
    (List.range 64).any (fun i =>
      let v := byteAt e.2.route i
      let act := bits v 2 0
      let dir := i / 16
      6 ≤ act || bit v 7 || bit v 6 || bit v 3 || p.fold ≤ bits v 5 4
      || (2 ≤ act && act - 2 = dir)
      || (2 ≤ act && !p.chainEnds 1025 (core, rel, dir, i % 16))
      || (act = 1 && !(ops.any fun f => (opPairs f).contains (dir, i % 16))))
    || ops.any (fun f => f.op ≠ 0 && [f.a, f.b, f.c].any fun x =>
        srcEats x && bits (p.route core rel (srcDir x) (srcChan x)) 2 0 ≠ 1)

/-- Hops that reach nothing: an unbound outer link, a shelf outside the placement, or a queue whose entry is NONE. -/
def hopsBad (p : Place) : Bool :=
  p.hops.any fun h =>
    p.fold ≤ h.2.2.1 ||
    match hopNode h with
    | none => !p.bound 1 h.1 h.2.1
    | some n => bits (p.route n.1 n.2.1 n.2.2.1 n.2.2.2) 2 0 = 0

/-- R139 over every record. -/
def opsBad (p : Place) : Bool :=
  p.cfg.any fun e =>
    let ops := p.ops (e.1 / 4) (e.1 % 4)
    ops.any (fun f => !opLoadOk f e.2.csSize e.2.clSize) || !decide ((ops.flatMap fun f => (opPairs f).dedup).Pairwise (· ≠ ·))

-- ------------------------------------------------------------------ I/O entries and copies (R224, R225, R92, R260)

def extChannels (steps : List ExtStep) : List Nat := (steps.map (·.chan)).dedup

/-- Channels of the extractors that feed a copy. -/
def copyChannels (b : Bytes) (copy : Nat) : List Nat :=
  if imgKind b = 1 then [0, 1]
  else ((imgBindings b).flatMap fun k =>
    extChannels ((findExt b (if copy = 3 then k.fullExtractor else k.extractor)).getD [])).dedup

def ioOk (b : Bytes) (v : Variant) : Bool :=
  let x := secBytes b (secOf (imgDir b) 1 v.code)
  let base := 64 + roundUp (2 * v.clusters.length) 8
  let lcs := (v.io.map fun i => (i.lane, i.copy)).dedup
  v.io.all (fun i => i.dir ≤ 1 && i.lane < v.lanes && i.copy ≤ 3 && (i.copy ≠ 3 || imgFull b)
      && (i.copy = 0 || i.copy = 3 || imgGuard b) && i.chan < 16 && (i.dir = 0 || i.chan = 0) && i.core < 20480 && i.side < 4
      && v.clusters.contains (clusterOf i.core) && decide (linkEnd i.core i.side = .io))
  && (List.range v.io.length).all (fun i => byteAt x (base + 8 * i + 7) = 0)
  && decide ((v.io.map fun i => (i.dir, i.core, i.side)).Pairwise (· ≠ ·))
  && decide (((v.io.filter (·.dir = 0)).map fun i => (i.lane, i.copy, i.chan)).Pairwise (· ≠ ·))
  && lcs.all (fun lc =>
      (v.io.countP fun i => i.dir = 1 && i.lane = lc.1 && i.copy = lc.2) = 1
      && let chans := (v.io.filter fun i => i.dir = 0 && i.lane = lc.1 && i.copy = lc.2).map (·.chan)
         (copyChannels b lc.2).all chans.contains && chans.all (copyChannels b lc.2).contains)
  && (List.range v.lanes).all (fun l => lcs.contains (l, 0) && (!imgGuard b || (lcs.contains (l, 1) && lcs.contains (l, 2)))
      && (!imgFull b || lcs.contains (l, 3)))
  && (imgKind b = 0 || v.io.length = 3)

def diesOf (cores : List Nat) : List Nat := (List.range 4).filter fun d => cores.any fun c => dieOf c = d

/-- R225, R92: the copies of a guarded lane are disjoint in cores and links and lie on the same dies. -/
def copiesOk (b : Bytes) (cs : List CopySet) : Bool :=
  !imgGuard b ||
  cs.all fun x => cs.all fun y =>
    x.lane ≠ y.lane || 3 ≤ x.copy || 3 ≤ y.copy || x.copy = y.copy
    || (!(x.cores.any y.cores.contains) && !(x.links.any y.links.contains) && diesOf x.cores = diesOf y.cores)

-- ------------------------------------------------------------------ weights and stream plan (R228, R229)

def weightsFrom (x : Bytes) : Nat → Nat → List (Nat × Weights)
  | 0, _ => []
  | n + 1, o =>
    let l := le x (o + 12) 4
    (o, { target := byteAt x o, shelfRel := byteAt x (o + 1), loc := le x (o + 4) 2, offset := le x (o + 8) 4,
          data := sliceZ x (o + 16) l }) :: weightsFrom x n (o + 16 + roundUp l 8)

def imgWeights (b : Bytes) (v : Nat) : List (Nat × Weights) :=
  match secOf (imgDir b) 3 v with
  | some s => weightsFrom (secBytes b (some s)) (recordsUpTo s 16) 0
  | none => []

/-- The cluster partition (base, size) that a placement gives a cluster and relative shelf (R227). -/
def Place.clPart (p : Place) (cluster rel : Nat) : Nat × Nat :=
  match (tvals p.cfg).find? fun c => clusterOf c.core = cluster && c.shelfRel = rel with
  | some c => (c.clBase, c.clSize)
  | none => (0, 0)

def Place.csPart (p : Place) (core rel : Nat) : Nat × Nat :=
  match tget p.cfg (core * 4 + rel) with
  | some c => (c.csBase, c.csSize)
  | none => (0, 0)

def Place.partOf (p : Place) (w : Weights) : Nat × Nat :=
  if w.target = 0 then p.csPart w.loc w.shelfRel else p.clPart w.loc w.shelfRel

def weightsOk (b : Bytes) (v : Variant) (p : Place) : Bool :=
  let x := secBytes b (secOf (imgDir b) 3 v.code)
  let ws := imgWeights b v.code
  ws.all (fun r =>
    let w := r.2
    let n := w.data.length
    r.1 + 16 + roundUp n 8 ≤ x.length && w.target ≤ 1 && w.shelfRel < v.fold && zeroAt x (r.1 + 2) 2 && zeroAt x (r.1 + 6) 2
    && v.clusters.contains (if w.target = 0 then clusterOf w.loc else w.loc) && 1 ≤ n && n ≤ 1048576
    && w.offset + n ≤ (p.partOf w).2 && zeroAt x (r.1 + 16 + n) (roundUp n 8 - n))
  && decide (ws.Pairwise fun x y => x.2.target ≠ y.2.target ∨ x.2.loc ≠ y.2.loc ∨ x.2.shelfRel ≠ y.2.shelfRel
      ∨ x.2.offset + x.2.data.length ≤ y.2.offset ∨ y.2.offset + y.2.data.length ≤ x.2.offset)

def imgStreamPlan (b : Bytes) : List StreamCopy :=
  match secOf (imgDir b) 6 5 with
  | none => []
  | some s =>
    let x := secBytes b (some s)
    (List.range (recordsUpTo s 24)).map fun i =>
      let o := 24 * i
      { cluster := le x o 2, shelfRel := byteAt x (o + 2), sramOff := le x (o + 4) 4, length := le x (o + 8) 4,
        due := le x (o + 12) 4, hbmOff := le x (o + 16) 8 }

def streamOk (b : Bytes) (v : Variant) (p : Place) : Bool :=
  v.code ≠ 5 ||
  let x := secBytes b (secOf (imgDir b) 6 5)
  let sp := imgStreamPlan b
  24 * sp.length ≤ x.length
  && (List.range sp.length).all (fun i => byteAt x (24 * i + 3) = 0)
  && sp.all (fun e => v.clusters.contains e.cluster && e.shelfRel < v.fold && 64 ≤ e.length && e.length ≤ 65536 && e.length % 64 = 0
      && e.due ≤ v.firing && e.sramOff + e.length ≤ (p.clPart e.cluster e.shelfRel).2 && e.hbmOff + e.length ≤ v.streamBytes)
  && (List.range 4).all fun d =>
    ((sp.filter fun e => dieOfCluster e.cluster = d).map (·.length)).sum * v.lanes * 16 ≤ v.streamBw.getD d 0 * v.ii * 10

/-- Reserved bytes of the chosen variant's records (R226, R5). -/
def recordsReservedOk (b : Bytes) (v : Nat) : Bool :=
  let x := secBytes b (secOf (imgDir b) 2 v)
  (imgConfigs b v).all fun r => byteAt x (r.1 + 3) = 0 && zeroAt x (r.1 + 6) 2

-- ------------------------------------------------------------------ the entry check (R162, R594)

/-- Time per byte at a port's rate, in 1/600 ns (R355, R357): that of its lanes, or of the split before it has trained. -/
def byteTime (s : State) (p : Nat) : Nat :=
  match (getPort s p).lanes with | 0 => 3 * 2 ^ s.split | n => 24 / n

/-- The core cycle of the arrival of the window's byte n (R44), counted from the window's first byte; pb is the time per byte. -/
def byteCycle (pb n : Nat) : Nat := (n + 1) * pb / coreCycle

/-- The core cycles in which an extractor's tokens become ready, counted from the window's first byte, by channel, in order; w is
the window length (R594). -/
def tokenReady (w pb : Nat) (steps : List ExtStep) : List (Nat × Nat) :=
  let at_ := byteCycle pb
  let go := steps.foldl (fun (acc : List (Nat × Nat) × Nat) k =>
    let ts := if k.step = 1 ∨ k.step = 3 then [at_ (k.offset + k.length - 1)]
      else if k.step = 2 then
        (List.range (ceilDiv k.length 8)).map fun i => at_ (min (k.offset + 8 * i + 7) (k.offset + k.length - 1))
      else if k.step = 4 then [at_ (w - 1)]
      else if k.step = 5 then [at_ 127]
      else [acc.2]
    (acc.1 ++ ts.map fun t => (k.chan, t), ts.getLastD acc.2)) ([], at_ 0)
  go.1 ++ (extChannels steps).map fun c => (c, at_ (w - 1))

/-- The computation of R162 on one channel, in core cycles: the cycle of the last entry, if any, and n. -/
def entryTimes (ts : List Nat) : Option Nat × Nat :=
  ts.foldl (fun (acc : Option Nat × Nat) r =>
    match acc.1 with
    | none => (some r, 1)
    | some l =>
      if acc.2 = 2 ∧ r ≤ l then (some (l + 1), 1)
      else (some (max r l), if l < r then 1 else acc.2 + 1)) (none, 0)

def entryOk (w pb : Nat) (steps : List ExtStep) : Bool :=
  (extChannels steps).all fun c =>
    match (entryTimes (((tokenReady w pb steps).filter (·.1 = c)).map (·.2))).1 with
    | none => true
    | some l => l ≤ byteCycle pb (w - 1) + 8

def bindingsEnter (s : State) (b : Bytes) : Bool :=
  (imgBindings b).all fun k =>
    match ((portsOf s).filter fun p => bit k.ports p).map (byteTime s) with
    | [] => true
    | t :: ts =>
      let pb := ts.foldl min t
      entryOk k.w pb ((findExt b k.extractor).getD [])
        && (!imgFull b || entryOk k.extent pb ((findExt b k.fullExtractor).getD []))

end Sys2Proof.Machine
end

