-- ==== Sys2Proof/Machine/Cipher.lean ====
section
/-! DEFINITION. AES-256-GCM, the cipher that R282 and R343 name: the block cipher of FIPS 197 and the mode of NIST SP 800-38D with a
96-bit nonce and a 16-byte tag; and the XTS mode of IEEE 1619 that R489 names. -/

namespace Sys2Proof.Machine

open Sys2Proof

-- ------------------------------------------------------------------ AES-256 (FIPS 197)

def xorBytes (a b : Bytes) : Bytes := List.zipWith (· ^^^ ·) a b

/-- Multiplication by x in GF(2^8). -/
def gfDouble (a : Byte) : Byte := (a <<< 1) ^^^ (if a.getLsbD 7 then 0x1B#8 else 0#8)

def gfMul (a b : Byte) : Byte :=
  ((List.range 8).foldl (fun (p : Byte × Byte) i => (if b.getLsbD i then p.1 ^^^ p.2 else p.1, gfDouble p.2)) (0#8, a)).1

/-- The inverse in GF(2^8), zero for zero: a to the power 254. -/
def gfInv (a : Byte) : Byte :=
  let sq := fun x => gfMul x x
  let step := fun x => gfMul (sq x) a
  sq (step (step (step (step (step (step a))))))

/-- SubBytes of one byte. -/
def aesSub (a : Byte) : Byte :=
  let i := gfInv a
  i ^^^ i.rotateLeft 1 ^^^ i.rotateLeft 2 ^^^ i.rotateLeft 3 ^^^ i.rotateLeft 4 ^^^ 0x63#8

/-- Word n of the key schedule from the words before it, newest first. -/
def keyWord (newest : List Bytes) (n : Nat) : Bytes :=
  let prev := newest.getD 0 []
  let t :=
    if n % 8 = 0 then xorBytes ((prev.drop 1 ++ prev.take 1).map aesSub) [BitVec.ofNat 8 (2 ^ (n / 8 - 1)), 0#8, 0#8, 0#8]
    else if n % 8 = 4 then prev.map aesSub
    else prev
  xorBytes (newest.getD 7 []) t

/-- The 15 round keys of 16 bytes. -/
def roundKeys (key : BitVec 256) : List Bytes :=
  let k := toBe 32 key.toNat
  let first := ((List.range 8).map fun i => slice k (4 * i) 4).reverse
  let all := ((List.range 52).foldl (fun ws i => keyWord ws (i + 8) :: ws) first).reverse
  (List.range 15).map fun r => ((all.drop (4 * r)).take 4).flatten

/-- ShiftRows on a block held column by column. -/
def shiftRows (b : Bytes) : Bytes := (List.range 16).map fun i => b.getD ((i + 4 * (i % 4)) % 16) 0#8

/-- MixColumns on one column. -/
def mixColumn (c : Bytes) : Bytes :=
  (List.range 4).map fun r =>
    let at_ := fun k => c.getD ((r + k) % 4) 0#8
    gfDouble (at_ 0) ^^^ gfMul (at_ 1) 3#8 ^^^ at_ 2 ^^^ at_ 3

def mixColumns (b : Bytes) : Bytes := (List.range 4).flatMap fun c => mixColumn (slice b (4 * c) 4)

/-- One block under round keys: thirteen full rounds and a last one without MixColumns. -/
def aesBlock (keys : List Bytes) (b : Bytes) : Bytes :=
  let start := xorBytes b (keys.getD 0 [])
  let mid := ((keys.drop 1).take 13).foldl (fun b k => xorBytes (mixColumns (shiftRows (b.map aesSub))) k) start
  xorBytes (shiftRows (mid.map aesSub)) (keys.getD 14 [])

-- ------------------------------------------------------------------ GCM (NIST SP 800-38D)

/-- The product of two blocks in GF(2^128). -/
def ghashMul (x y : BitVec 128) : BitVec 128 :=
  ((List.range 128).foldl (fun (p : BitVec 128 × BitVec 128) i =>
    (if x.getLsbD (127 - i) then p.1 ^^^ p.2 else p.1,
     if p.2.getLsbD 0 then (p.2 >>> 1) ^^^ (0xE1#128 <<< 120) else p.2 >>> 1)) (0#128, y)).1

/-- GHASH over whole blocks: the last one is filled up with zero bytes. -/
def ghashBlocks (h : BitVec 128) (acc : BitVec 128) (bs : Bytes) : BitVec 128 :=
  (List.range (ceilDiv bs.length 16)).foldl (fun a i => ghashMul (a ^^^ BitVec.ofNat 128 (be (sliceZ bs (16 * i) 16) 0 16)) h) acc

/-- The key stream over n bytes from counter 2 on. -/
def gcmStream (keys : List Bytes) (nonce : BitVec 96) (n : Nat) : Bytes :=
  ((List.range (ceilDiv n 16)).flatMap fun i => aesBlock keys (toBe 12 nonce.toNat ++ toBe 4 (i + 2))).take n

/-- Authenticated encryption (R282, R343): the ciphertext and then the 16-byte tag. -/
def gcmSeal (key : BitVec 256) (nonce : BitVec 96) (aad plain : Bytes) : Bytes :=
  let keys := roundKeys key
  let c := xorBytes plain (gcmStream keys nonce plain.length)
  let h := BitVec.ofNat 128 (be (aesBlock keys (List.replicate 16 0#8)) 0 16)
  let s := ghashBlocks h (ghashBlocks h (ghashBlocks h 0#128 aad) c) (toBe 8 (8 * aad.length) ++ toBe 8 (8 * c.length))
  c ++ xorBytes (toBe 16 s.toNat) (aesBlock keys (toBe 12 nonce.toNat ++ toBe 4 1))

/-- Decryption of a ciphertext without its tag (R343, R344); the tag is checked apart, by sealing again. -/
def gcmOpen (key : BitVec 256) (nonce : BitVec 96) (c : Bytes) : Bytes :=
  xorBytes c (gcmStream (roundKeys key) nonce c.length)

-- ------------------------------------------------------------------ XTS (IEEE 1619)

/-- A tweak times x in GF(2^128), its bytes little-endian. -/
def xtsDouble (t : Bytes) : Bytes :=
  let x := BitVec.ofNat 128 (le t 0 16)
  toLe 16 ((x <<< 1) ^^^ (if x.getLsbD 127 then 0x87#128 else 0#128)).toNat

/-- The blocks of a data unit from a tweak on. -/
def xtsBlocks (keys : List Bytes) : Nat → Bytes → Bytes → Bytes
  | 0, _, _ => []
  | n + 1, t, d => xorBytes (aesBlock keys (xorBytes (sliceZ d 0 16) t)) t ++ xtsBlocks keys n (xtsDouble t) (d.drop 16)

/-- A sector of 32 bytes as one XTS data unit under a tweak (R489): the key's first half enciphers the data, its second the tweak. -/
def xtsSector (key : BitVec 512) (tweak : Nat) (d : Bytes) : Bytes :=
  xtsBlocks (roundKeys (key.extractLsb' 256 256)) 2 (aesBlock (roundKeys (key.extractLsb' 0 256)) (toLe 16 tweak)) d

end Sys2Proof.Machine
end

