-- ==== Sys2Proof/Machine/Net.lean ====
section
/-! DEFINITION. Frames and ports: reading a frame's headers (R362, R363), times and timestamps (R397, R412, R552), token buckets
(R387-R389), receive occupancy and pause (R364, R374), gate lists and armature windows (R306, R380, R382, R551), the transmit
queues and the frames that leave (R65, R85, R316, R368, R379-R381, R416). Frames are held without their FCS. -/

namespace Sys2Proof.Machine

open Sys2Proof

-- ------------------------------------------------------------------ frames

def frameTagged (f : Bytes) : Bool := be f 12 2 = 0x8100
def frameTci (f : Bytes) : Nat := if frameTagged f then be f 14 2 else 0
def frameVid (f : Bytes) : Option Nat := if frameTagged f then some (be f 14 2 % 4096) else none
/-- The EtherType after any 802.1Q tag (R363). -/
def frameType (f : Bytes) : Nat := if frameTagged f then be f 16 2 else be f 12 2
def l3Off (f : Bytes) : Nat := if frameTagged f then 18 else 14

def ipVer (f : Bytes) : Nat :=
  if frameType f = 0x0800 ∧ byteAt f (l3Off f) / 16 = 4 then 4 else if frameType f = 0x86DD then 6 else 0

/-- Offset of the UDP header of an IPv4 or IPv6 frame without options or extension headers (R363). -/
def udpOff (f : Bytes) : Option Nat :=
  if frameType f = 0x0800 ∧ byteAt f (l3Off f) = 0x45 ∧ byteAt f (l3Off f + 9) = 17 then some (l3Off f + 20)
  else if frameType f = 0x86DD ∧ byteAt f (l3Off f + 6) = 17 then some (l3Off f + 40)
  else none

def udpDst (f : Bytes) : Option Nat := (udpOff f).map fun o => be f (o + 2) 2

def ipSrc (f : Bytes) : Nat := if ipVer f = 4 then be f (l3Off f + 12) 4 else be f (l3Off f + 8) 16

/-- Is it a fragment (R316)? -/
def ipFragment (f : Bytes) : Bool := ipVer f = 4 && be f (l3Off f + 6) 2 % 0x4000 ≠ 0

/-- Offset of the UDP header whose checksum STORE_FORWARD checks and writes (R368): IPv4 options do not hide it. A fragment does not hold
the datagram that its checksum covers, and is left alone. -/
def udpHdr (f : Bytes) : Option Nat :=
  let o := if ipVer f = 4 then l3Off f + 4 * (byteAt f (l3Off f) % 16) else l3Off f + 40
  let proto := if ipVer f = 4 then byteAt f (l3Off f + 9) else byteAt f (l3Off f + 6)
  if ipVer f ≠ 0 ∧ proto = 17 ∧ l3Off f + 20 ≤ o ∧ o + 8 ≤ f.length ∧ ipFragment f = false then some o else none

/-- The ECN field: 0 Not-ECT, 1 ECT(1), 2 ECT(0), 3 CE. -/
def ipEcn (f : Bytes) : Nat :=
  if ipVer f = 4 then byteAt f (l3Off f + 1) % 4 else if ipVer f = 6 then be f (l3Off f) 4 / 2 ^ 20 % 4 else 0

def ipCsumOk (f : Bytes) : Bool := ipVer f ≠ 4 || ipChecksum (slice f (l3Off f) (4 * (byteAt f (l3Off f) % 16))) = 0

/-- The pseudo-header a UDP checksum covers. -/
def udpPseudo (f : Bytes) (o n : Nat) : Bytes :=
  if ipVer f = 4 then slice f (l3Off f + 12) 8 ++ [0#8, 17#8] ++ toBe 2 n
  else slice f (l3Off f + 8) 32 ++ toBe 4 n ++ [0#8, 0#8, 0#8, 17#8]

/-- The UDP checksum to write over a frame's datagram: an all-zero result is sent as all ones. -/
def udpChecksum (f : Bytes) (o : Nat) : Nat :=
  let n := be f (o + 4) 2
  let c := ipChecksum (udpPseudo f o n ++ overlay (sliceZ f o n) 6 [0#8, 0#8])
  if c = 0 then 65535 else c

/-- A nonzero received UDP checksum holds (R368). -/
def udpCsumOk (f : Bytes) : Bool :=
  match udpHdr f with
  | none => true
  | some o => be f (o + 6) 2 = 0 || ipChecksum (udpPseudo f o (be f (o + 4) 2) ++ sliceZ f o (be f (o + 4) 2)) = 0

/-- Writes the IPv4 header checksum. -/
def fixIpCsum (f : Bytes) : Bytes :=
  if ipVer f = 4 then
    let g := overlay f (l3Off f + 10) [0#8, 0#8]
    overlay f (l3Off f + 10) (toBe 2 (ipChecksum (slice g (l3Off f) (4 * (byteAt f (l3Off f) % 16)))))
  else f

/-- Writes the UDP checksum. -/
def fixUdpCsum (f : Bytes) : Bytes :=
  match udpHdr f with
  | some o => overlay f (o + 6) (toBe 2 (udpChecksum f o))
  | none => f

/-- Zero bytes up to the minimum frame of 60 bytes without the FCS. -/
def padFrame (f : Bytes) : Bytes := f ++ List.replicate (60 - f.length) 0#8

-- ------------------------------------------------------------------ ports, times and timestamps

/-- 1/600 ns per byte at the port's present rate (R355, R357). -/
def portByteTime (s : State) (p : Nat) : Nat :=
  match (getPort s p).lanes with | 0 => 24 | n => 24 / n

/-- Wire bytes of a frame: with the FCS, the preamble and the gap (R387). -/
def wireBytes (n : Nat) : Nat := n + 24

def wireTime (s : State) (p n : Nat) : Nat := wireBytes n * portByteTime s p

/-- The time from a frame's first bit to the end of its FCS. -/
def lineTime (s : State) (p n : Nat) : Nat := (n + 4) * portByteTime s p

/-- The network clock in 1/600 ns. -/
def net600 (s : State) : Nat := s.tb.clock * 600 / 2 ^ 48

/-- The rate code of R393's RATE: 1 200G, 2 400G, 3 800G, 4 1.6T, 0 down. -/
def rateCode (lanes : Nat) : Nat := match lanes with | 1 => 1 | 2 => 2 | 4 => 3 | 8 => 4 | _ => 0

/-- C(p, x) of R412 in 2^-16 ns, x being 0 receive or 3 transmit: the OTP latency, the user offset and W/2. -/
def stampCorr (s : State) (p x : Nat) : Int :=
  sgn 32 (Config.otp (calTs p x) (rateCode (getPort s p).lanes)).toNat + sgn 32 (regRaw s (calTs p (x + 1))) + 0x4000

/-- One step of the jitter LFSR and its offset in ns (R552). -/
def lfsrStep (l : Word) (j : Nat) : Word × Int :=
  let h := l >>> 1
  let n := if l.getLsbD 0 then h ^^^ 0x80200003#32 else h
  (n, (n.toNat % (2 * j + 1) : Nat) - (j : Int))

/-- The jitter on a timestamp of a port: bit 8 selects receive, bit 9 transmit (R552); in force while TST_CTRL.ENABLE is set. -/
def jitter (s : State) (p : Nat) (tx : Bool) : Int × State :=
  let r := regRaw s (tstTsJitter + 4 * p)
  if regBit s tstCtrl 0 && bit r (if tx then 9 else 8) then
    let (l, d) := lfsrStep s.lfsr (bits r 7 0)
    (d * 65536, { s with lfsr := l })
  else (0, s)

/-- The raw capture of a frame that crosses the plane now: the network clock, the latency of the port's receive path, and the capture's error of
at most 1.5 ns (R412, R413), in 2^-16 ns. The clock read is the one before or after a step as the crossing is (R411). -/
def rawCapture (s : State) (p : Nat) (err : Int) : Int :=
  (net16 s : Int) + Config.rxPath p (rateCode (getPort s p).lanes) + clampI (-98304) 98304 err

/-- A receive timestamp: the raw capture less C, in 2^-16 ns (R412). -/
def rxStamp (s : State) (p : Nat) (err : Int) : Nat × State :=
  let (j, s) := jitter s p false
  ((rawCapture s p err - stampCorr s p 0 + j).toNat, s)

/-- A transmit timestamp: the clock at the frame's start plus C, in 2^-16 ns (R412, R413). -/
def txStamp (s : State) (p : Nat) : Nat × State :=
  let (j, s) := jitter s p true
  (((net16 s : Int) + stampCorr s p 3 + j).toNat, s)

/-- Is a port in loopback (R369; TST_LOOP_p)? -/
def portLoop (s : State) (p : Nat) : Nat := regBits s (tstLoop + 4 * p) 1 0

/-- STORE_FORWARD as selected: PATH_MODE, or forced by the recovery loader or a loopback (R369). -/
def sfWanted (s : State) (p : Nat) : Bool := regBit s (macCtrl p) 1 || s.mgmt.recovery || portLoop s p ≠ 0

-- ------------------------------------------------------------------ token buckets

def classBucket (p c : Nat) (rx : Bool) : Nat := (p * 8 + c) * 2 + b2n rx
def instBucket (n : Nat) (rx : Bool) : Nat := 1024 + n * 2 + b2n rx
def qpBucket (i : Nat) (rx : Bool) : Nat := 4096 + i * 2 + b2n rx

/-- A bucket brought up to a time: credit in 1/1 024 byte grows at RATE Mb/s up to BURST; a closed bucket does not refill, an
unlimited one is not used (R387, R388). -/
def refill (b : Bucket) (now : Nat) : Bucket :=
  if b.rate = 0x1FFFFF ∨ b.rate = 0 then { b with at_ := now }
  else { b with credit := min ((b.burst : Int) * 1024) (b.credit + ((now - b.at_) * b.rate * 1024 / 4800000 : Nat)), at_ := now }

def getBucket (s : State) (k : Nat) : Bucket := refill (tgetD s.buckets k {}) s.now

/-- A bucket as a frame that starts now meets it: a write of RATE in the same FAB cycle applies after the frame (R392). -/
def beforeWrite (s : State) (b : Bucket) : Bucket :=
  match b.wrote with
  | some (c, rate, credit, _) => if c = fabOf s then { b with rate := rate, credit := credit } else b
  | none => b

/-- R387, R388. -/
def bucketPermits (s : State) (k : Nat) : Bool :=
  let b := beforeWrite s (getBucket s k)
  b.rate = 0x1FFFFF || (b.rate ≠ 0 && 0 ≤ b.credit)

/-- A bucket's credit after a change of RATE (R387, R388): debt carries over, FORGIVE zeroes it; from unlimited to limited it is BURST. -/
def rateCredit (b : Bucket) (rate : Nat) (forgive : Bool) : Int :=
  let c := if b.rate = 0x1FFFFF ∧ rate ≠ 0x1FFFFF then (b.burst : Int) * 1024 else b.credit
  if forgive then max c 0 else c

/-- A frame is charged; where RATE was written in this FAB cycle, before the write (R392). -/
def bucketCharge (s : State) (k bytes : Nat) : State :=
  let b := getBucket s k
  let old := beforeWrite s b
  if old.rate = 0x1FFFFF then s
  else
    let charged := { old with credit := old.credit - bytes * 1024 }
    let new := match b.wrote with
      | some (c, rate, _, forgive) =>
        if c = fabOf s then
          { b with credit := rateCredit charged b.rate forgive, wrote := some (c, rate, charged.credit, forgive) }
        else charged
      | none => charged
    { s with buckets := tset s.buckets k new }

/-- A change of RATE (R387, R388). That of a shaper is remembered for its FAB cycle (R392). -/
def bucketRate (s : State) (k rate : Nat) (forgive : Bool) : State :=
  let b := getBucket s k
  let old := beforeWrite s b
  let wrote := if k % 2 = 0 then some (fabOf s, old.rate, old.credit, forgive) else none
  { s with buckets := tset s.buckets k { b with rate := rate, credit := rateCredit b rate forgive, wrote := wrote } }

/-- A change of BURST (R388). -/
def bucketBurst (s : State) (k burst : Nat) : State :=
  let b := getBucket s k
  { s with buckets := tset s.buckets k { b with burst := burst, credit := min b.credit ((burst : Int) * 1024) } }

-- ------------------------------------------------------------------ queues of a port

def txFrameLen (f : TxFrame) : Nat := f.data.length

def queueBytes (q : List TxFrame) : Nat := (q.map txFrameLen).sum

/-- Does a port take frames to transmit: its link is up and it is not in REMOTE loopback (R381, R547)? -/
def txOpen (s : State) (p : Nat) : Bool := (getPort s p).linkUp && portLoop s p ≠ 3

def tcQueue (pt : Port) (c : Nat) : List TxFrame := tgetD pt.txQ c []

/-- Where a WGT base header starts in a frame. -/
def wgtOff (f : Bytes) : Nat := (udpOff f).getD 0 + 8

/-- Bytes a frame takes without its FCS: a WGT frame gains its trailer at departure. -/
def outLen (f : TxFrame) : Nat :=
  if f.kind = .wgt then
    max 60 (f.data.length + 4 + (if bit (byteAt f.data (wgtOff f.data + 2)) 4 then 16 else 0))
  else max 60 f.data.length

/-- In STORE_FORWARD a frame is held whole before it may start: the time to store it at the port rate passes (R368, R370; DEDUCED for a frame that is
no reply: log entry 101). -/
def stored (s : State) (p : Nat) (f : TxFrame) : TxFrame :=
  if (getPort s p).sfTx then { f with ready := max f.ready (f.queuedAt + lineTime s p (outLen f)) } else f

/-- The queue in the order in which its frames enter it: a mirror copy enters when its checks end (R597). -/
def insQueued (f : TxFrame) (l : List TxFrame) : List TxFrame :=
  l.takeWhile (fun g => g.queuedAt ≤ f.queuedAt) ++ f :: l.dropWhile (fun g => g.queuedAt ≤ f.queuedAt)

/-- A frame for a class queue; while the link is down it is discarded and counted (R381). -/
def queueTc (s : State) (p c : Nat) (f : TxFrame) : State :=
  if txOpen s p then modPort s p fun q => { q with txQ := tmodD q.txQ c [] (insQueued (stored s p f)) }
  else regAdd s (macTxDiscard p) 1

def isRescind (f : TxFrame) : Bool := f.kind = .rescind

/-- Bytes of one half of the reply queue (R65). -/
def replyHalf (pt : Port) (rescinds : Bool) : Nat := queueBytes (pt.replyQ.filter fun f => isRescind f = rescinds)

/-- Does a reply or follow-up fit (R65)? -/
def replyFits (s : State) (p n : Nat) : Bool := replyHalf (getPort s p) false + n ≤ 32768

def queueReply (s : State) (p : Nat) (f : TxFrame) : State :=
  if txOpen s p then modPort s p fun q => { q with replyQ := q.replyQ ++ [f] }
  else regAdd s (macTxDiscard p) 1

/-- A RESCIND enters at the head when it is handed over (R85): ahead of all but the RESCINDs that are handed over after it. -/
def queueRescind (s : State) (p : Nat) (f : TxFrame) : State :=
  let later := fun g : TxFrame => isRescind g && f.queuedAt < g.queuedAt
  if txOpen s p then modPort s p fun q => { q with replyQ := q.replyQ.takeWhile later ++ f :: q.replyQ.dropWhile later }
  else regAdd s (macTxDiscard p) 1

def queueCtrl (s : State) (p : Nat) (data : Bytes) : State :=
  if txOpen s p then
    modPort s p fun q => { q with ctrlQ := q.ctrlQ ++ [{ kind := .control, data := padFrame data, queuedAt := s.now }] }
  else regAdd s (macTxDiscard p) 1

-- ------------------------------------------------------------------ pause (R371-R375)

/-- An IEEE 802.3 Annex 31B PAUSE frame. -/
def pauseFrame (p quanta : Nat) : Bytes :=
  toBe 6 0x0180C2000001 ++ toBe 6 (Config.portMac p) ++ toBe 2 0x8808 ++ toBe 2 1 ++ toBe 2 quanta

/-- An IEEE 802.1Qbb PFC frame for one priority. -/
def pfcFrame (p c quanta : Nat) : Bytes :=
  toBe 6 0x0180C2000001 ++ toBe 6 (Config.portMac p) ++ toBe 2 0x8808 ++ toBe 2 0x101 ++ toBe 2 (2 ^ c)
  ++ (List.range 8).flatMap fun i => toBe 2 (if i = c then quanta else 0)

def fcMode (s : State) (p : Nat) : Nat := regBits s (macFc p) 1 0
def pfcEn (s : State) (p c : Nat) : Bool := regBit s (macFc p) (2 + c)

/-- Does the adapter pause this class (R371)? -/
def fcSends (s : State) (p c : Nat) : Bool := fcMode s p = 1 || (fcMode s p = 2 && pfcEn s p c)

/-- The occupancy compared with the thresholds (R374): of the class, or under PAUSE of the whole port. -/
def occOf (s : State) (p c : Nat) : Nat :=
  if fcMode s p = 1 then (tvals (getPort s p).occupancy).sum else tgetD (getPort s p).occupancy c 0

def xoffBytes (s : State) (p : Nat) : Nat := regBits s (macFcThresh p) 15 0 * KiB
def xonBytes (s : State) (p : Nat) : Nat := regBits s (macFcThresh p) 31 16 * KiB

/-- Sends a pause for a class with a time in quanta. -/
def sendPause (s : State) (p c quanta : Nat) : State :=
  queueCtrl s p (if fcMode s p = 1 then pauseFrame p quanta else pfcFrame p c quanta)

/-- Under PAUSE one pause holds the whole port; under PFC each class has its own (R371, R374). -/
def xoffKey (s : State) (p c : Nat) : Nat := if fcMode s p = 1 then 0 else c

/-- Has the adapter paused a class (R374)? -/
def xoffOn (s : State) (p c : Nat) : Bool := (tget (getPort s p).xoffAt (xoffKey s p c)).isSome

/-- The first pause when occupancy reaches XOFF (R374). -/
def checkXoff (s : State) (p c : Nat) : State :=
  if fcSends s p c && xoffBytes s p ≤ occOf s p c && !xoffOn s p c then
    modPort (sendPause s p c (regBits s (macFcQuanta p) 15 0)) p fun q => { q with xoffAt := tset q.xoffAt (xoffKey s p c) s.now }
  else s

def rxBufBytes : Nat := 32 * MiB

/-- Takes room in the receive buffer; above 90 % WGT_EVENT.RX_BUF_HIGH is set (R354). -/
def takeBuf (s : State) (n : Nat) : State :=
  let s := { s with rxBufUsed := s.rxBufUsed + n }
  if rxBufBytes * 9 < s.rxBufUsed * 10 then regOr s wgtEvent 8 else s

def addOcc (s : State) (p c n : Nat) : State :=
  checkXoff (modPort s p fun q => { q with occupancy := tmodD q.occupancy c 0 (· + n) }) p c

/-- The class a received frame takes (R364). -/
def rxClass (s : State) (p : Nat) (f : Bytes) : Nat :=
  if frameTagged f then
    let i := be f 14 2 / 2 ^ 13
    regBits s (macPcpMap p) (3 * i + 2) (3 * i)
  else regBits s (macCtrl p) 4 2

/-- Is a class (8 for the reply queue) held by a received pause now (R371, R372)? -/
def held (s : State) (p c : Nat) : Bool :=
  match tget (getPort s p).hold c with
  | some t => s.now < t && tgetD (getPort s p).heldSince c 0 ≤ s.now
  | none => false

/-- A pause received at a time for a class: a new time replaces the remaining one, zero ends the hold (R372). The hold takes effect at the
end of a frame in transmission; the time since which the class is held without a break is kept (R375). -/
def applyPause (s : State) (p c at_ quanta : Nat) : State :=
  if quanta = 0 then modPort s p fun q => { q with hold := tdel q.hold c, heldSince := tdel q.heldSince c }
  else
    let since := if held s p c then tgetD (getPort s p).heldSince c at_ else max at_ (getPort s p).txBusyUntil
    modPort s p fun q => { q with hold := tset q.hold c (at_ + quanta * 64 * portByteTime s p), heldSince := tset q.heldSince c since }

-- ------------------------------------------------------------------ armature windows (R273, R285, R306)

/-- A transmit window of an armature on a port: slot, stream, offset in the period, length, EPOCH, period length, first period. -/
structure ArmWin where
  slot : Nat
  stream : Nat
  off : Nat
  len : Nat
  epoch : Nat
  period : Nat
  from_ : Nat
  deriving DecidableEq, Repr

def periodNs (p : Plan) : Nat := p.periodBeats * p.beat

def findShard (p : Plan) (n : Nat) : Option Shard := p.shards.find? (·.num = n)

/-- The port on which a member owns a stream's window: PRI_PORT on the source primary, STB_PORT on its standby. -/
def windowPort (a : Armature) (st : Stream) : Option Nat :=
  match findShard a.plan st.src with
  | none => none
  | some sh =>
    if st.kind ≠ 0 then none
    else if sh.primary = a.member then some st.priPort
    else if sh.standby = a.member then some st.stbPort
    else none

/-- The shift a gate stretch with ARM set adds to every window of a port (R551). -/
def stretchNs (s : State) (p : Nat) : Nat := if regBit s tstCtrl 0 then regBits s (tstGateStretch + 4 * p) 15 0 else 0
def armShift (s : State) (p : Nat) : Nat := if regBit s (tstGateStretch + 4 * p) 31 then stretchNs s p else 0

/-- The windows on a port of the armatures that are ARMED or RUNNING. -/
def armWins (s : State) (p : Nat) : List ArmWin :=
  s.arms.flatMap fun a =>
    if a.2.st = .idle then []
    else a.2.plan.streams.filterMap fun st =>
      if windowPort a.2 st = some p then
        some { slot := a.1, stream := st.num, off := st.sendBeat * a.2.plan.beat + st.sendOff + armShift s p, len := st.windowNs,
               epoch := a.2.plan.epoch, period := periodNs a.2.plan, from_ := a.2.startK }
      else none

/-- The period of a window whose opening is the last at or before a network time in ns. -/
def winPeriod (w : ArmWin) (t : Nat) : Nat := (t - w.epoch - w.off) / w.period

def winStart (w : ArmWin) (k : Nat) : Nat := w.epoch + k * w.period + w.off

/-- Is the window open at a time? -/
def winOpen (w : ArmWin) (t : Nat) : Bool :=
  winStart w w.from_ ≤ t && t < winStart w (winPeriod w t) + w.len

/-- The next opening after a time. -/
def winNext (w : ArmWin) (t : Nat) : Nat :=
  if t < winStart w w.from_ then winStart w w.from_ else winStart w (winPeriod w t + 1)

/-- May a transmission of some length (1/600 ns) start now without meeting an armature window (R306)? -/
def clearOfWindows (s : State) (p dur : Nat) : Bool :=
  (armWins s p).all fun w => !winOpen w (netNs s) && net600 s + dur ≤ winNext w (netNs s) * 600

-- ------------------------------------------------------------------ gate lists (R380, R382, R384, R551)

def gateCycle (g : GateList) : Nat := (g.entries.map (·.2)).sum

/-- The entry in force at an offset in the cycle and the offset at which it ends. -/
def entryIn : List (Byte × Nat) → Nat → Nat → Byte × Nat
  | [], _, acc => (0xFF#8, acc)
  | e :: t, off, acc => if off < acc + e.2 then (e.1, acc + e.2) else entryIn t off (acc + e.2)

/-- The gate states a list gives at a network time, and the time at which its entry ends. -/
def gateAt (g : GateList) (t : Nat) : Byte × Nat :=
  let c := gateCycle g
  if !g.en || c = 0 then (0xFF#8, t + 1000000000)
  else
    let off := (((t : Int) - g.base) % c).toNat
    let e := entryIn g.entries off 0
    (e.1, t + (e.2 - off))

/-- The list in force at a time, with a takeover that comes before then (R384), and when it stops being in force. -/
def listAt (pt : Port) (t : Nat) : GateList × Option Nat :=
  match pt.pendGate with
  | some (g, at_) => if at_ ≤ t then (g, none) else (pt.oper, some at_)
  | none => (pt.oper, none)

/-- Is a class's gate open at a time, an open gate's closing put off by a stretch (R551)? -/
def gateOpen (pt : Port) (stretch c t : Nat) : Bool :=
  (List.range (stretch + 1)).any fun i => bit (gateAt (listAt pt (t - i)).1 (t - i)).1.toNat c

/-- Does a class's gate stay open from t to t1? -/
def gateFits (pt : Port) (stretch c : Nat) : Nat → Nat → Nat → Bool
  | 0, _, _ => false
  | k + 1, t, t1 =>
    if t1 ≤ t then true
    else
      let l := listAt pt t
      let e := (gateAt l.1 t).2
      let stop := match l.2 with | some x => min e x | none => e
      if bit (gateAt l.1 t).1.toNat c then gateFits pt stretch c k stop t1
      else gateOpen pt stretch c t && gateFits pt stretch c k (t + 1) t1

/-- The longest open interval of a class in a list's cycle, none if the gate is always open (R380). -/
def longestOpen (g : GateList) (c : Nat) : Option Nat :=
  if !g.en || g.entries.all (fun e => bit e.1.toNat c) then none
  else
    some ((g.entries ++ g.entries).foldl (fun (m : Nat × Nat) e =>
      let run := if bit e.1.toNat c then m.2 + e.2 else 0
      (max m.1 run, run)) (0, 0)).1

-- ------------------------------------------------------------------ what leaves

/-- Lays a timestamp of R396 into bytes: SECONDS (6) and NS (4), big-endian. -/
def stampBytes (t16 : Nat) : Bytes := toBe 6 (secsOf t16) ++ toBe 4 (nsOf t16)

/-- Writes the transmit time into a WGT frame that ends with its payload, and appends the GCM tag and the CRC32C over what is
sent (R311, R316, R343). -/
def finishWgt (s : State) (f : TxFrame) (t16 : Nat) : Bytes :=
  let o := wgtOff f.data
  let d := overlay f.data (o + 20) (toBe 4 (secsOf t16) ++ toBe 4 (nsOf t16))
  let ext := byteAt d (o + 3)
  let body := o + 32 + 8 * ext
  let d :=
    if bit (byteAt d (o + 2)) 4 then
      let key := ((f.qp.bind (tget s.qps ·)).bind (·.txKey)).getD 0
      let nonce := be d (o + 8) 4 * 2 ^ 64 + be d (o + 32) 8
      let aad := slice d o 32 ++ slice d (o + 40) (8 * ext - 8)
      d.take body ++ gcmSeal key (BitVec.ofNat 96 nonce) aad (d.drop body)
    else d
  d ++ toBe 4 (crc32c (d.drop o)).toNat

/-- Writes the fields a raw or time frame asks for at its start (R416). -/
def insertTimes (f : TxFrame) (t16 : Nat) : Bytes :=
  let d := match f.tsOff with | some o => overlay f.data o (stampBytes t16) | none => f.data
  match f.cfOff with
  | some o =>
    let add : Int := match f.reqStamp with | some r => (t16 : Int) - r | none => fracOf t16
    overlay d o (toBe 8 ((((be f.data o 8 : Nat) : Int) + add) % 2 ^ 64).toNat)
  | none => d

/-- Over IPv6, sets the two trailing bytes of the datagram so that the UDP checksum in place holds (R417). In a datagram of odd length the two
bytes lie across two words of the sum, the first of them in its low half. -/
def fixTrail (d : Bytes) (o : Nat) : Bytes :=
  let n := be d (o + 4) 2
  let z := overlay d (o + n - 2) [0#8, 0#8]
  let b := toBe 2 (ipChecksum (udpPseudo z o n ++ sliceZ z o n))
  overlay z (o + n - 2) (if n % 2 = 0 then b else b.reverse)

/-- Checksums over inserted fields in CUT_THROUGH (R417): none over IPv4, corrected over IPv6. -/
def cutThroughCsum (f : TxFrame) (d : Bytes) : Bytes :=
  if f.tsOff.isNone && f.cfOff.isNone then d
  else
    match udpOff d with
    | none => d
    | some o => if ipVer d = 4 then overlay d (o + 6) [0#8, 0#8] else fixTrail d o

/-- The bytes of a frame as they leave: inserted times, and in STORE_FORWARD the checksums (R316, R368, R416, R417). A
correctionField takes FRAC of the transmit time, or, for a Pdelay_Resp, the time since the request. -/
def frameOut (s : State) (p : Nat) (f : TxFrame) (t16 : Nat) : Bytes :=
  let d := if f.kind = .wgt then f.data else insertTimes f t16
  let csum := fun d => if (getPort s p).sfTx && f.kind ≠ .bundle && f.kind ≠ .control then fixUdpCsum (fixIpCsum d)
    else cutThroughCsum f d
  padFrame (if f.kind = .wgt then csum (finishWgt s { f with data := d } t16) else csum d)

/-- A frame as the line carries it: the MAC appends its FCS, least significant byte first (R367). -/
def withFcs (d : Bytes) : Bytes := d ++ toLe 4 (frameFcs d).toNat

end Sys2Proof.Machine
end

