-- ==== Sys2Proof/Machine/Wgt.lean ====
section
/-! DEFINITION. Wygor transport's shared operations (R310-R350): packets and their frames, acknowledgements, memory regions (R464),
work requests and their completions in ring order (R449-R452), flushing and errors (R321, R322), sequence numbers and the reorder
window (R324, R325), loss recovery (R329, R330) and congestion control (R338-R340). -/

namespace Sys2Proof.Machine

open Sys2Proof

-- ------------------------------------------------------------------ numbers

/-- The QP number of an index (R317). -/
def qpNum (i : Nat) (q : Qp) : Nat := q.gen * 2 ^ 18 + i

/-- The QP that a number names: index and generation (R317). -/
def qpByNum (s : State) (n : Nat) : Option (Nat × Qp) :=
  match getQp s (n % 2 ^ 18) with
  | some q => if q.gen = n / 2 ^ 18 then some (n % 2 ^ 18, q) else none
  | none => none

/-- a − b modulo 2^24. -/
def seqSub (a b : Nat) : Nat := (a + 2 ^ 24 - b % 2 ^ 24) % 2 ^ 24
def seqAdd (a b : Nat) : Nat := (a + b) % 2 ^ 24
/-- a is at or after b, within 2^23. -/
def seqGe (a b : Nat) : Bool := seqSub a b < 2 ^ 23

def packetsOf (len pmtu : Nat) : Nat := max 1 (ceilDiv len pmtu)

-- ------------------------------------------------------------------ memory regions (R464)

/-- The region a key names, if it covers a range and has some rights. -/
def regionFor (s : State) (owner key addr len access : Nat) : Option MemRegion :=
  (tget s.mrs (key / 256)).filter fun m =>
    m.live && m.owner = owner && m.variant = key % 256 && m.addr ≤ addr && addr + len ≤ m.addr + m.length
    && m.access &&& access = access

abbrev acLocalWrite : Nat := 1
abbrev acRemoteWrite : Nat := 2
abbrev acRemoteRead : Nat := 4

/-- What an access of an instance to a local range gives: NOT_PERMITTED without a region that covers it or a PASID on the region's link
(R444, R479), FLUSHED when that link is down (R429); and the link. -/
def localAccess (s : State) (owner key addr len access : Nat) : Nat × Nat :=
  match regionFor s owner key addr len access with
  | none => (stNotPermitted, 0)
  | some g =>
    if (pasidOf (getInst s owner) g.link).isNone then (stNotPermitted, g.link)
    else if linkUp s g.link then (stOK, g.link)
    else (stFlushed, g.link)

-- ------------------------------------------------------------------ frames (R310-R316)

/-- A WGT packet as it is received: the offset of its base header, and its fields (R312-R315). -/
structure Pkt where
  frame : Bytes
  off : Nat
  op : Nat
  flags : Nat
  ext : Nat
  dst : Nat
  src : Nat
  psn : Nat
  msn : Nat
  tx : Nat
  aux : Nat
  deriving DecidableEq, Repr

/-- The service that a message whose first byte came at a time goes to, and since when its queue pair is attached (R241, R242): one that came before a
detach goes to none and is no longer matched. -/
def serviceSpan (q : Qp) (t0 : Nat) : Option (Nat × Nat) :=
  if q.serviceAt ≤ t0 then
    match q.service with
    | some k => some (k, q.serviceAt)
    | none => if t0 < q.serviceEnd then some (2 ^ 20, q.serviceAt) else none
  else none

def Pkt.first (p : Pkt) : Bool := bit p.flags 0
def Pkt.last (p : Pkt) : Bool := bit p.flags 1
def Pkt.ackReq (p : Pkt) : Bool := bit p.flags 2
def Pkt.retx (p : Pkt) : Bool := bit p.flags 3
def Pkt.cipher (p : Pkt) : Bool := bit p.flags 4
def Pkt.notify (p : Pkt) : Bool := bit p.flags 5

def parsePkt (f : Bytes) : Pkt :=
  let o := wgtOff f
  { frame := f, off := o, op := byteAt f (o + 1), flags := byteAt f (o + 2), ext := byteAt f (o + 3), dst := be f (o + 4) 4,
    src := be f (o + 8) 4, psn := be f (o + 12) 4, msn := be f (o + 16) 4, tx := be f (o + 20) 4 * 1000000000 + be f (o + 24) 4,
    aux := be f (o + 28) 4 }

/-- End of the datagram: bytes past it are Ethernet padding. -/
def Pkt.dgEnd (p : Pkt) : Nat := p.off - 8 + be p.frame (p.off - 4) 2

def Pkt.bodyOff (p : Pkt) : Nat := p.off + 32 + 8 * p.ext
def Pkt.bodyEnd (p : Pkt) : Nat := p.dgEnd - 4 - (if p.cipher then 16 else 0)
/-- The bytes after the extensions, before tag and CRC32C. -/
def Pkt.body (p : Pkt) : Bytes := slice p.frame p.bodyOff (p.bodyEnd - p.bodyOff)
/-- Offset of the address extension. -/
def Pkt.addrOff (p : Pkt) : Nat := p.off + 32 + (if p.cipher then 8 else 0)
def Pkt.remoteAddr (p : Pkt) : Nat := be p.frame p.addrOff 8
def Pkt.rkey (p : Pkt) : Nat := be p.frame (p.addrOff + 8) 4
def Pkt.msgLen (p : Pkt) : Nat := be p.frame (p.addrOff + 12) 4

def pktIsData (op : Nat) : Bool := 1 ≤ op && op ≤ 4

/-- Does the packet obey R312-R315 as a packet: version, opcode, reserved bits, extensions (R313)? -/
def Pkt.formed (p : Pkt) : Bool :=
  let f := p.frame
  byteAt f p.off = 1 && (pktIsData p.op || (0x10 ≤ p.op && p.op ≤ 0x13)) && p.flags < 64
  && byteAt f (p.off + 4) = 0 && byteAt f (p.off + 8) = 0 && byteAt f (p.off + 12) = 0 && byteAt f (p.off + 16) = 0
  && p.ext = (if p.cipher then 1 else 0) + (if p.op = 2 || p.op = 3 then 2 else 0)
  && (pktIsData p.op || (!p.cipher && p.aux = 0)) && (p.op = 2 || !p.notify) && p.bodyOff ≤ p.bodyEnd

/-- The CRC32C holds (R311). -/
def Pkt.crcOk (p : Pkt) : Bool :=
  (crc32c (slice p.frame p.off (p.dgEnd - 4 - p.off))).toNat = be p.frame (p.dgEnd - 4) 4

def Pkt.nonce (p : Pkt) : BitVec 96 := BitVec.ofNat 96 (p.src * 2 ^ 64 + be p.frame (p.off + 32) 8)
def Pkt.aad (p : Pkt) : Bytes := slice p.frame p.off 32 ++ slice p.frame (p.off + 40) (8 * p.ext - 8)

/-- The payload as the wedge and memory see it: decrypted under RX_KEY (R343, R344). -/
def Pkt.plain (p : Pkt) (key : Option (BitVec 256)) : Bytes :=
  if p.cipher then gcmOpen (key.getD 0) p.nonce p.body else p.body

/-- The tag holds (R345): the ciphertext's own seal. -/
def Pkt.tagOk (p : Pkt) (key : Option (BitVec 256)) : Bool :=
  !p.cipher || gcmSeal (key.getD 0) p.nonce p.aad (p.plain key) = p.body ++ slice p.frame p.bodyEnd 16

/-- UDP and IP headers from a port's own address, with n bytes after the UDP header: don't-fragment, zero UDP checksum, flow label from
the CRC32C of a number. -/
def ipUdp (port ipv : Nat) (dst : Nat) (hop sport dport flow ecn n : Nat) : Bytes :=
  let udp := toBe 2 sport ++ toBe 2 dport ++ toBe 2 (n + 8) ++ toBe 2 0
  if ipv = 4 then
    let h := toBe 1 0x45 ++ toBe 1 (Config.ipDscp % 64 * 4 + ecn) ++ toBe 2 (n + 28) ++ toBe 2 Config.ipIdent ++ toBe 2 0x4000
      ++ toBe 1 hop ++ toBe 1 17 ++ toBe 2 0 ++ toBe 4 (Config.localIp port 4) ++ toBe 4 dst
    overlay h 10 (toBe 2 (ipChecksum h)) ++ udp
  else
    toBe 4 (6 * 2 ^ 28 + (Config.ipDscp % 64 * 4 + ecn) * 2 ^ 20 + (crc32c (toBe 4 flow)).toNat % 2 ^ 20) ++ toBe 2 (n + 8)
    ++ toBe 1 17 ++ toBe 1 hop ++ toBe 16 (Config.localIp port 6) ++ toBe 16 dst ++ udp

/-- The headers of a WGT datagram (R310, R316). -/
def wgtIpUdp (s : State) (port ipv : Nat) (dst : Nat) (hop sport srcQp ecn n : Nat) : Bytes :=
  ipUdp port ipv dst hop sport (regBits s wgtUdpPort 15 0) srcQp ecn n

/-- Base header without the transmit time, which the MAC writes (R312, R316). -/
def wgtHeader (op flags ext dst src psn msn aux : Nat) : Bytes :=
  toBe 1 1 ++ toBe 1 op ++ toBe 1 flags ++ toBe 1 ext ++ toBe 4 dst ++ toBe 4 src ++ toBe 4 psn ++ toBe 4 msn ++ toBe 8 0 ++ toBe 4 aux

def ethHeader (dst src : Nat) (vlan : Option Nat) (pcp : Nat) (type : Nat) : Bytes :=
  toBe 6 dst ++ toBe 6 src ++ (match vlan with | some v => toBe 2 0x8100 ++ toBe 2 (pcp * 8192 + v) | none => []) ++ toBe 2 type

/-- A packet of a QP to its peer, up to its payload; tag and CRC32C are appended at departure. -/
def qpFrame (s : State) (i : Nat) (q : Qp) (op flags psn msn aux : Nat) (ext body : Bytes) : Bytes :=
  let n := 32 + ext.length + body.length + 4 + (if bit flags 4 then 16 else 0)
  let ecn := if pktIsData op && q.ecn then 2 else 0
  ethHeader q.peerMac.toNat (Config.portMac q.port) q.vlan (Config.wgtPcp q.tc) (if q.ipv = 4 then 0x0800 else 0x86DD)
  ++ wgtIpUdp s q.port q.ipv q.peerIp.toNat q.hop q.sport (qpNum i q) ecn n
  ++ wgtHeader op flags (ext.length / 8) q.peerQp (qpNum i q) psn msn aux ++ ext ++ body

/-- Puts an ACK or NAK of a QP into its class queue ahead of the QP's data (R326). -/
def queueAhead (s : State) (i : Nat) (q : Qp) (data : Bytes) : State :=
  let f := stored s q.port { kind := .wgt, data := data, inst := q.owner, queuedAt := s.now, qp := some i, ack := true }
  if txOpen s q.port then
    let ins := fun l : List TxFrame =>
      let k := (l.findIdx? fun g => g.qp = some i || s.now < g.queuedAt).getD l.length
      l.take k ++ f :: l.drop k
    modPort s q.port fun pt => { pt with txQ := tmodD pt.txQ q.tc [] ins }
  else regAdd s (macTxDiscard q.port) 1

/-- May a transmit packet of a QP enter its class queue by the QP's and its instance's shapers (R386)? -/
def shapersPermit (s : State) (i : Nat) (q : Qp) : Bool :=
  bucketPermits s (qpBucket i false) && bucketPermits s (instBucket q.owner false)

/-- Both shapers are charged with a packet of n bytes without its FCS as it enters (R386). -/
def chargeShapers (s : State) (i : Nat) (q : Qp) (n : Nat) : State :=
  bucketCharge (bucketCharge s (qpBucket i false) (wireBytes n)) (instBucket q.owner false) (wireBytes n)

/-- An ACK or NAK enters its class queue, charged, or waits for the shapers behind those that wait (R386). -/
def enterCtl (s : State) (i : Nat) (q : Qp) (data : Bytes) : State :=
  if q.ctlQ.isEmpty && shapersPermit s i q then queueAhead (chargeShapers s i q (max 60 (data.length + 4))) i q data
  else modQp s i fun q => { q with ctlQ := q.ctlQ ++ [data] }

-- ------------------------------------------------------------------ acknowledgements (R326, R327, R331)

/-- The first PSN that is not acknowledged in order: ePSN, or an earlier one that was discarded for RNR (R332). -/
def ackPsn (q : Qp) : Nat :=
  ((q.rnrPsns.filter fun x => !seqGe x.2 q.ePsn).map fun x => seqSub q.ePsn x.2).foldl max 0 |> seqSub q.ePsn

/-- Has a PSN been received, and not discarded for RNR (R328, R332)? -/
def acked (q : Qp) (psn : Nat) : Bool :=
  (!seqGe psn q.ePsn || q.got.contains psn) && !q.rnrPsns.any fun x => x.2 = psn

/-- SACK: bit i is bit 7 − (i mod 8) of byte ⌊i / 8⌋, set if the PSN i after the one acknowledged in order has been received. -/
def sackBytes (q : Qp) : Bytes :=
  (List.range 32).map fun b => BitVec.ofNat 8 (((List.range 8).map fun j =>
    if acked q (seqAdd (ackPsn q) (8 * b + j)) then 2 ^ (7 - j) else 0).sum)

def ackBody (q : Qp) : Bytes :=
  toBe 4 (match q.owd with | some x => twos 32 x | none => 0x80000000) ++ toBe 4 q.echoPsn ++ toBe 4 q.creditMsn
  ++ toBe 4 q.ceBytes ++ toBe 4 q.rxBytes ++ sackBytes q ++ toBe 4 0

/-- Hands an ACK to the MAC; the counts since the previous ACK restart. -/
def sendAck (s : State) (i : Nat) : State :=
  match getQp s i with
  | none => s
  | some q =>
    let d := qpFrame s i q 0x10 0 (seqSub (ackPsn q) 1) (seqSub q.nextRxMsn 1) 0 [] (ackBody q)
    modQp (enterCtl s i q d) i fun q => { q with ceBytes := 0, rxBytes := 0, sinceAck := 0, unackedAt := none }

/-- NAK codes: 1 RNR, 2 ACCESS, 3 INVALID_REQ, 4 INVALID_QP, 5 INTEGRITY, 6 RECV_OVERFLOW (R331). -/
def sendNak (s : State) (i code psn msn : Nat) : State :=
  match getQp s i with
  | none => s
  | some q =>
    enterCtl s i q (qpFrame s i q 0x11 0 psn msn 0 [] (toBe 1 code ++ toBe 1 0 ++ toBe 2 (if code = 1 then 10 else 0) ++ toBe 4 0))

-- ------------------------------------------------------------------ credits (R335, R336)

/-- Bytes of a QP's packets that wait in the receive buffer to be written to memory (R336); not those that wait for a verdict (R63). -/
def rxWaiting (s : State) (i : Nat) : Nat :=
  ((portsOf s).map fun p => (((getPort s p).inbox.filter fun f => f.occ ≠ 0 &&
    (match f.dest with | some (.transport _) => true | _ => false) && pktIsData (parsePkt f.data).op
      && (qpByNum s (parsePkt f.data).dst).any fun x => x.1 = i).map fun f => f.data.length).sum).sum

/-- Is the QP's credit frozen: a message of it held under R61, or too many bytes that wait to be written (R336)? -/
def creditHeld (s : State) (i : Nat) : Bool :=
  (tvals s.msgs).any (fun m => m.qp = some i && m.steerUntil.isSome) || regBits s wgtRxHold 14 0 * KiB < rxWaiting s i

/-- CREDIT_MSN follows the oldest MSN not completed unless it is frozen (R335, R336); where it advances after a hold, an ACK is sent
(R326). -/
def updateCredit (s : State) (i : Nat) : State :=
  match getQp s i with
  | none => s
  | some q =>
    if creditHeld s i then modQp s i fun q => { q with frozen := true }
    else
      let msn := seqAdd q.nextRxMsn (q.msgWindow - 1)
      let s := modQp s i fun q => { q with frozen := false, creditMsn := msn }
      if q.frozen && msn ≠ q.creditMsn && (q.st = .rtr || q.st = .rts) then sendAck s i else s

-- ------------------------------------------------------------------ work requests and their completions

/-- A send descriptor (R443). -/
def parseSend (index : BitVec 32) (d : Bytes) (payload : Bytes) : SendWr :=
  { index := index, wrId := BitVec.ofNat 64 (le d 8 8), opcode := byteAt d 0, flags := byteAt d 1, length := le d 0x18 4,
    localAddr := le d 0x10 8, lkey := le d 4 4, remoteAddr := le d 0x20 8, rkey := le d 0x1C 4, payload := payload }

def parseRecv (index : BitVec 32) (d : Bytes) : RecvWr :=
  { index := index, wrId := BitVec.ofNat 64 (le d 8 8), addr := le d 0x10 8, length := le d 0x18 4, lkey := le d 4 4 }

/-- Reserved fields of a send descriptor (R443, R5). -/
def sendReservedOk (d : Bytes) : Bool :=
  byteAt d 1 < 8 && zeroAt d 2 2 && zeroAt d 0x28 24 && (byteAt d 0 ≠ 1 || (le d 0x1C 4 = 0 && le d 0x20 8 = 0))

def recvReservedOk (d : Bytes) : Bool :=
  byteAt d 1 = 0 && zeroAt d 2 2 && zeroAt d 0x1C 36

/-- A send completion (R449). -/
def sendRec (i : Nat) (q : Qp) (w : SendWr) (status : Nat) : Bytes :=
  record 64 [(0, 8, w.wrId.toNat), (8, 1, status), (9, 1, 0), (0xA, 1, w.opcode), (0xC, 4, qpNum i q), (0x10, 4, w.index.toNat),
    (0x14, 4, if status = stOK then w.length else 0)]

/-- Posts, in ring order, the send requests at the head that have finished; one without SIGNALED posts only if it failed (R450). -/
def retireList (s : State) (i : Nat) : List SendWr → State
  | [] => s
  | w :: t =>
    match w.done, getQp s i with
    | some st, some q =>
      if q.sends = w :: t then
        let s := modQp s i fun q => { q with sends := t }
        let s := if postsSend w st then cqPost s q.sendCq (sendRec i q w st) else s
        retireList s i t
      else s
    | _, _ => s

def retireSends (s : State) (i : Nat) : State :=
  match getQp s i with
  | some q => retireList s i q.sends
  | none => s

/-- A receive completion (R451). -/
structure RecvRec where
  wrId : Nat := 0
  status : Nat := 0
  opcode : Nat := 0
  flags : Nat := 0
  qp : Nat := 0
  len : Nat := 0
  msn : Nat := 0
  verdict : Nat := 0
  stamp : Nat := 0
  port : Nat := 0
  vlan : Nat := 0
  addr : Nat := 0
  deriving DecidableEq, Repr

def recvRec (r : RecvRec) : Bytes :=
  record 64 [(0, 8, r.wrId), (8, 1, r.status), (9, 1, 1), (0xA, 1, r.opcode), (0xB, 1, r.flags), (0xC, 4, r.qp), (0x10, 4, r.len),
    (0x14, 4, r.msn), (0x18, 8, r.verdict), (0x20, 6, secsOf r.stamp), (0x26, 4, nsOf r.stamp), (0x2A, 2, fracOf r.stamp),
    (0x2C, 1, r.port), (0x2E, 2, r.vlan), (0x30, 8, r.addr)]

/-- VLAN of R451: [11:0] ID, [15] tagged. -/
def vlanField (f : Bytes) : Nat := match frameVid f with | some v => v + 32768 | none => 0

def holdoverFlag (s : State) : Nat := if s.tb.st = .holdover then 4 else 0

def postRecv (s : State) (i : Nat) (q : Qp) (r : RecvRec) : State :=
  cqPost s q.recvCq (recvRec { r with qp := qpNum i q, flags := r.flags + holdoverFlag s })

/-- Takes the descriptors that wait in the send queue's ring as requests of the QP. -/
def drainSq (s : State) (i : Nat) : State × List SendWr :=
  match getRing s (ringKey rkSq i) with
  | none => (s, [])
  | some r =>
    (modRing s (ringKey rkSq i) fun r => { r with cons := r.prod, posted := [] },
     (List.range r.posted.length).map fun k => parseSend (r.cons + BitVec.ofNat 32 k) (r.posted.getD k []) [])

def stopQp (q : Qp) : Qp :=
  { q with outPkts := [], retxQ := [], rxMsgs := [], recvs := [], respQ := [], timerAt := none, rnrUntil := none, readsBusy := 0,
           unackedAt := none, seqIn := [], rnrMsgs := [], rnrPsns := [], rnrFirst := [] }

/-- The final verdict code, the first one while there is no other. -/
def codeNow (m : Message) : Nat := if m.unjudged.isSome then 6 else (m.finalCode.getD (m.firstCode.getD 0))

/-- R95. -/
def verdictWord (m : Message) : Nat :=
  match m.binding with
  | none => 0
  | some k =>
    codeNow m + 8 * b2n m.amended + 16 * b2n m.replied + 32 * b2n m.provisional + 64 * b2n (m.rescinded && !m.rescindLost) + 128 * b2n m.unretained
    + 256 * (m.unjudged.getD 0) + 4096 * b2n m.guardRetry + 65536 * k.number
    + 2 ^ 32 * (if codeNow m = 3 then m.annotation.toNat else 0)

/-- What the completion of a message that fails says of it: its verdict word, if it has been judged (R95), and its MSN, time, VLAN and opcode
(R451). -/
def failedRec (s : State) (q : Qp) (msn : Nat) (r : RxMsg) : RecvRec :=
  let judged := (r.msgId.bind (getMsg s)).filter fun m => m.binding.isSome && m.acted
  { verdict := (judged.map verdictWord).getD 0, flags := b2n judged.isSome, opcode := r.opcode, msn := msn, stamp := r.capture, vlan := r.vlan,
    port := q.port }

/-- The receive requests of a QP that are outstanding, in ring order: each with what its completion says of its message. -/
def openRecvs (s : State) (i : Nat) (q : Qp) : List (RecvWr × RecvRec) :=
  let last := ((getRing s (ringKey rkRq i)).map (·.prod)).getD 0
  ((q.rxMsgs.filterMap fun (m : Nat × RxMsg) => m.2.wr.map fun w => (w, failedRec s q m.1 m.2))
    ++ q.recvs.map fun w => (w, ({ opcode := 1, port := q.port } : RecvRec))).mergeSort fun a b =>
      (last - b.1.index).toNat ≤ (last - a.1.index).toNat

/-- The requests of a flushed queue (R322, R450): those at the head that are done keep their status; every one behind, done or not, gets the status
that f gives it, since no completion with OK may follow a flushed one. -/
def flushSends (f : SendWr → Nat) : List SendWr → List SendWr
  | [] => []
  | w :: t => if w.done.isSome then w :: flushSends f t else (w :: t).map fun w => { w with done := some (f w) }

/-- Flush (R322): every outstanding send and receive request completes with FLUSHED in ring order, but for the one that caused
the error, which completes with its own status. -/
def flushQp (s : State) (i : Nat) (sendFail recvFail : Option (BitVec 32 × Nat)) : State :=
  match getQp s i with
  | none => s
  | some q =>
    let st := fun (f : Option (BitVec 32 × Nat)) (x : BitVec 32) =>
      match f with | some (y, c) => if x = y then c else stFlushed | none => stFlushed
    let (s, more) := drainSq s i
    let all := flushSends (fun w => st sendFail w.index) (q.sends ++ more)
    let rx := openRecvs s i q
    let s := modQp (dropQueued s i) i fun q => { stopQp q with sends := all }
    let s := retireSends (dropMsgsOf s i) i
    rx.foldl (fun s w => postRecv s i q { w.2 with wrId := w.1.wrId.toNat, status := st recvFail w.1.index }) s

/-- The QP enters ERROR and is flushed (R321, R322). -/
def qpError (s : State) (i : Nat) (sendFail recvFail : Option (BitVec 32 × Nat)) : State :=
  match getQp s i with
  | none => s
  | some q =>
    if q.st = .rtr ∨ q.st = .rts then flushQp (modQp s i fun q => { q with st := .error }) i sendFail recvFail
    else s

/-- A receive completion of a message that failed, then the error (R321): the message's buffer, if it has one, completes with the
status; a WRITE posts a completion of its own. -/
def rxError (s : State) (i msn status nak psn : Nat) : State :=
  match getQp s i with
  | none => s
  | some q =>
    let m := tget q.rxMsgs msn
    let wr := m.bind (·.wr)
    let s := sendNak s i nak psn msn
    match wr with
    | some w => qpError s i none (some (w.index, status))
    | none =>
      let base := (m.map (failedRec s q msn)).getD { opcode := 2, msn := msn, port := q.port }
      postRecv (qpError s i none none) i q { base with status := status }

/-- One compact error completion for a QP of an unreachable peer (R350, R452). A request at the head that was done has its own completion; one
that waited behind another for its turn in ring order is flushed with it (R450); a message of the adapter's own (R248) is no work request. -/
def compactError (s : State) (i : Nat) : State :=
  match getQp s i with
  | none => s
  | some q =>
    if q.st = .rtr ∨ q.st = .rts then
      let (s, more) := drainSq s i
      let all := (q.sends ++ more).filter fun w => !w.own
      let ws := all.dropWhile (·.done.isSome)
      let rx := (openRecvs s i q).length
      let s := dropMsgsOf (modQp (dropQueued s i) i fun q => { stopQp q with st := .error, sends := all.takeWhile (·.done.isSome) }) i
      cqPost (retireSends s i) q.sendCq (record 64 [(0, 8, (ws.head?.map (·.wrId.toNat)).getD 0), (8, 1, stTimeout), (9, 1, 2),
        (0xC, 4, qpNum i q), (0x10, 4, (ws.head?.map (·.index.toNat)).getD 0), (0x14, 4, ws.length), (0x18, 4, rx)])
    else s

-- ------------------------------------------------------------------ peers (R347-R349)

def peerOf (s : State) (port ipv : Nat) (ip : BitVec 128) : Option Nat :=
  (s.peers.find? fun p => p.2.port = port && p.2.ipv = ipv && p.2.ip = ip).map (·.1)

def modPeer (s : State) (k : Nat) (f : Peer → Peer) : State := { s with peers := tmod s.peers k f }

/-- Any accepted packet from a peer is hearing from it. -/
def heardFrom (s : State) (port ipv : Nat) (ip : BitVec 128) : State :=
  match peerOf s port ipv ip with
  | some k => modPeer s k fun p => { p with lastHeard := s.now }
  | none => s

/-- Entries that no live QP outside RESET refers to are freed. -/
def freePeers (s : State) : State :=
  { s with peers := s.peers.filter fun p => (tvals s.qps).any fun q => q.live && q.port = p.2.port && q.ipv = p.2.ipv && q.peerIp = p.2.ip && q.st ≠ .reset }

/-- The peer entry of a pair exists, if there is room for it. -/
def addPeer (s : State) (port : Nat) (ip : BitVec 128) (ipv : Nat) : Option State :=
  if (peerOf s port ipv ip).isSome then some s
  else
    match lowestFree s.peers 65536 with
    | some k => some { s with peers := tset s.peers k { port := port, ip := ip, ipv := ipv, lastHeard := s.now } }
    | none => none

-- ------------------------------------------------------------------ timers, pacing and congestion control

/-- The retransmission timeout (R330) in 1/600 ns. -/
def rtoOf (s : State) (q : Qp) : Nat :=
  let base := max (regBits s wgtRto 15 0 * usec) ((q.srtt + 4 * q.rttvar) * nsec / 8)
  min (base * 2 ^ min q.expiries 40) (max base (regBits s wgtRto 31 16 * msec))

/-- Does a READ still wait for responses? -/
def readsOpen (q : Qp) : Bool := q.sends.any fun w => w.started && w.opcode = 3 && w.done.isNone && 0 < w.sent

/-- Starts the retransmission timer, or stops it where nothing is outstanding (R330; a READ is, until its responses are placed: R334). -/
def startTimer (s : State) (i : Nat) : State :=
  modQp s i fun q => { q with timerAt := if q.outPkts.isEmpty && !readsOpen q then none else some (s.now + rtoOf s q) }

/-- Bytes outstanding (R338): sent, not acknowledged, and not waiting to be sent again. -/
def outBytes (q : Qp) : Nat := ((q.outPkts.filter fun p => !p.sacked && !q.retxQ.contains p.psn).map (·.bytes)).sum

/-- The port's rate in bytes per ns. -/
def portRate (s : State) (p : Nat) : Rat := (600 : Rat) / portByteTime s p

def clampR (lo hi x : Rat) : Rat := if x < lo then lo else if hi < x then hi else x

def rateOf (s : State) (q : Qp) : Rat :=
  clampR (mkRat (regBits s (wgtCcReg q.profile 6) 19 0) 8000) (portRate s q.port) (mkRat (q.cwnd * 8) (max 1 q.srtt))

/-- Congestion state at RTS and on a path change (R340). -/
def ccStart (s : State) (q : Qp) : Qp :=
  let n := q.profile
  let srtt := 8 * regBits s (wgtCcReg n 7) 19 0
  let q := { q with cwnd := regBits s (wgtCcReg n 3) 23 0, srtt := srtt, rttvar := srtt / 2, alpha := 0,
                    lastMd := (s.now : Int) - srtt * nsec / 8, nextSend := s.now, ecn := regBit s (wgtCcReg n 2) 20 }
  { q with rate := rateOf s q }

/-- A packet's cost to the pacer (R338). -/
def paceBytes (s : State) (i n : Nat) : State :=
  modQp s i fun q => { q with nextSend := max s.now q.nextSend + (if q.rate = 0 then 0 else (mkRat (n * 600) 1 / q.rate).floor.toNat) }

/-- R340, given the queueing delay q in ns, whether a sample of RTT (1/8 ns) was taken, the acknowledged bytes and the ACK's
CE_BYTES and RX_BYTES. -/
def ccAck (s : State) (q : Qp) (qd : Int) (rtt : Option Nat) (acked ce rx : Nat) : Qp :=
  let n := q.profile
  let r := fun k hi lo => regBits s (wgtCcReg n k) hi lo
  let f : Rat := if rx = 0 then 0 else mkRat ce rx
  let q := { q with alpha := q.alpha + (f - q.alpha) / (2 ^ r 2 19 16 : Nat) }
  let q := match rtt with
    | some x =>
      let d := if x < q.srtt then q.srtt - x else x - q.srtt
      { q with srtt := (((q.srtt : Int) * 8 + (x - q.srtt)) / 8).toNat, rttvar := (((q.rttvar : Int) * 4 + (d - q.rttvar)) / 4).toNat }
    | none => q
  let target : Int := r 0 19 0
  let q :=
    if qd ≤ target ∧ f = 0 then { q with cwnd := q.cwnd + r 1 20 0 * acked / max 1 q.cwnd }
    else if (q.srtt : Int) * nsec / 8 ≤ s.now - q.lastMd then
      let md : Rat := if target < qd then mkRat (r 2 7 0) 256 * ((qd - target : Int) : Rat) / (qd : Rat) else 0
      let cut := min (max md (q.alpha / 2)) (mkRat (r 2 15 8) 256)
      { q with cwnd := ((q.cwnd : Rat) * (1 - cut)).floor.toNat, lastMd := s.now }
    else q
  let q := { q with cwnd := min (max q.cwnd (r 4 23 0)) (r 5 23 0) }
  { q with rate := rateOf s q }

/-- The least sample within the base window (R339). -/
def baseOf {α : Type} [Min α] (s : State) (l : List (Nat × α)) : Option α :=
  ((l.filter fun x => s.now ≤ x.1 + regBits s wgtBaseWindow 13 0 * msec).map (·.2)).min?

/-- Takes the samples of an ACK into the peer's bases; the queueing delay in ns (R339). -/
def queueDelay (s : State) (q : Qp) (owd : Option Int) (rtt : Option Nat) : Int × State :=
  match peerOf s q.port q.ipv q.peerIp with
  | none => (0, s)
  | some k =>
    let keep := fun (t : Nat) => s.now ≤ t + regBits s wgtBaseWindow 13 0 * msec
    let s := modPeer s k fun p =>
      { p with owd := (p.owd.filter fun x => keep x.1) ++ (match owd with | some x => [(s.now, x)] | none => []),
               rtt := (p.rtt.filter fun x => keep x.1) ++ (match rtt with | some x => [(s.now, x)] | none => []) }
    match tget s.peers k with
    | none => (0, s)
    | some p =>
      let a := owd.bind fun x => (baseOf s p.owd).map fun b => x - b
      let b : Option Int := rtt.bind fun x => (baseOf s p.rtt).map fun b => ((x : Int) - b) / 8
      (match a, b with
       | some x, some y => min x y
       | some x, none => x
       | none, some y => y
       | none, none => 0, s)

-- ------------------------------------------------------------------ the requester

/-- The send request that holds a PSN. -/
def sendOfPsn (q : Qp) (psn : Nat) : Option SendWr :=
  q.sends.find? fun w => w.started && w.done.isNone && seqSub psn w.firstPsn < w.packets

/-- Bytes of a READ not yet placed, from its first gap: offset and length. -/
def readGap (w : SendWr) : Nat × Nat :=
  let done := fun o => w.got.any fun g => g.1 ≤ o && o < g.1 + g.2
  let o := ((0 :: w.got.map fun g => g.1 + g.2).filter fun o => o < w.length && !done o).min?.getD w.length
  let e := ((w.got.map (·.1)).filter (o < ·)).min?.getD w.length
  (o, e - o)

/-- The send request that a PSN's MSN names. -/
def sendOfMsn (q : Qp) (msn : Nat) : Option SendWr := q.sends.find? fun w => w.started && w.done.isNone && w.msn = msn

/-- The packet of a request that carries a PSN: opcode, flags, AUX, extension and payload (R313-R315, R323). A READ_REQ sent again carries the
offset of the first byte still missing in AUX (R329), and in MSG_LEN the length of the read (R314; log entry 93). -/
def packetOf (q : Qp) (w : SendWr) (psn : Nat) (retx : Bool) : Nat × Nat × Nat × Nat × Bytes × Bytes :=
  let k := seqSub psn w.firstPsn
  let fl := (if k = 0 then 1 else 0) + (if k + 1 = w.packets then 6 else 0) + (if retx then 8 else 0)
    + (if q.txKey.isSome then 16 else 0) + (if w.opcode = 2 ∧ bit w.flags 1 = true then 32 else 0)
  let civ := if q.txKey.isSome then toBe 8 q.ivCtr else []
  let addr := fun n => toBe 8 w.remoteAddr ++ toBe 4 w.rkey ++ toBe 4 n
  if w.opcode = 3 then
    let g := readGap w
    (3, 7 + (if retx then 8 else 0) + (if q.txKey.isSome then 16 else 0), seqAdd w.firstPsn (g.1 / q.pmtu),
     if retx then g.1 else 0, civ ++ addr w.length, [])
  else
    (w.opcode, fl, psn, k * q.pmtu, civ ++ (if w.opcode = 2 then addr w.length else []), slice w.payload (k * q.pmtu) q.pmtu)

/-- A request starts its message: it takes the next MSN and its packets' PSNs (R323). -/
def beginSend (q : Qp) (w : SendWr) : Qp :=
  let n := packetsOf w.length q.pmtu
  { q with sends := q.sends ++ [{ w with msn := q.nextMsn, firstPsn := q.sqPsn, packets := n, started := true }],
           nextMsn := seqAdd q.nextMsn 1, sqPsn := seqAdd q.sqPsn n }

/-- R324: a PSN is less than 256 beyond the last one acknowledged in order; one at or behind that is not beyond it. -/
def inReorder (q : Qp) (psn : Nat) : Bool := !seqGe psn q.unaPsn || seqSub psn q.unaPsn < 255

/-- May the QP put a packet on the wire now: window, pacer, reorder window, shapers, RNR delay (R324, R332, R338, R386)? -/
def maySend (s : State) (i : Nat) (q : Qp) (psn : Nat) : Bool :=
  q.st = .rts && outBytes q < q.cwnd && q.nextSend ≤ s.now && inReorder q psn
  && shapersPermit s i q
  && (match q.rnrUntil with | some t => t ≤ s.now | none => true)

/-- Sends one packet of a request: it is charged, paced and outstanding, and the timer runs (R330, R338, R386). -/
def sendPacket (s : State) (i : Nat) (q : Qp) (w : SendWr) (psn : Nat) (retx : Bool) : State :=
  let (op, fl, n, aux, ext, body) := packetOf q w psn retx
  let data := qpFrame s i q op fl n w.msn aux ext body
  let f : TxFrame := { kind := .wgt, data := data, inst := q.owner, queuedAt := s.now, qp := some i, psn := psn }
  let len := wireBytes (outLen f)
  let s := chargeShapers s i q (outLen f)
  let s := queueTc s q.port q.tc f
  let s := paceBytes s i len
  let s := modQp s i fun q =>
    { q with ivCtr := if q.txKey.isSome then q.ivCtr + 1 else q.ivCtr, sentCount := q.sentCount + 1,
             retxCount := q.retxCount + b2n retx, sendOrder := q.sendOrder + 1, retxQ := q.retxQ.filter (· ≠ psn),
             outPkts := (q.outPkts.filter (·.psn ≠ psn)) ++
               [{ psn := psn, bytes := body.length, sentAt := s.now, order := q.sendOrder, retx := retx }],
             sends := q.sends.map fun x => if x.started ∧ x.done.isNone ∧ x.firstPsn = w.firstPsn ∧ !retx then { x with sent := x.sent + 1 } else x }
  let s := if retx then regAdd s wgtRetxPkts 1 else s
  match getQp s i with
  | some q => if q.timerAt.isNone then startTimer s i else s
  | none => s

/-- Requests whose last PSN is acknowledged in order have finished (R334); a READ finishes when its responses are placed. -/
def finishAcked (q : Qp) : Qp :=
  { q with sends := q.sends.map fun w =>
      if w.started ∧ w.done.isNone ∧ w.opcode ≠ 3 ∧ w.sent = w.packets ∧ seqGe q.unaPsn (seqAdd w.firstPsn w.packets) then
        { w with done := some stOK }
      else w }

/-- Packets declared lost (R329): three packets sent after it are acknowledged by SACK. -/
def lostNow (q : Qp) : List Nat :=
  (q.outPkts.filter fun p => !p.sacked && !p.lost && 3 ≤ (q.outPkts.countP fun x => x.sacked && p.order < x.order)).map (·.psn)

/-- Marks packets lost and queues their retransmission, once per declaration (R329). -/
def declareLost (q : Qp) (l : List Nat) : Qp :=
  { q with outPkts := q.outPkts.map fun p => if l.contains p.psn then { p with lost := true } else p,
           retxQ := q.retxQ ++ l.filter fun n => !q.retxQ.contains n }

/-- An ACK's effect on the requester (R327-R330, R335, R339, R340, R354). Of a PSN that a NAK of the same cycle names, the ACK says nothing:
the NAK decides (R353). -/
def applyAck (s : State) (i : Nat) (p : Pkt) (nak : Option Nat) : State :=
  match getQp s i with
  | none => s
  | some q =>
    let b := p.body
    let owd : Option Int := if be b 0 4 = 0x80000000 then none else some (sgn 32 (be b 0 4))
    let echo := be b 4 4 % 2 ^ 24
    let after := seqAdd p.psn 1
    let next := match nak with | some n => if seqGe p.psn n then n else after | none => after
    let sack := fun psn => let k := seqSub psn after
      0 < k && k < 256 && bit (byteAt b (20 + k / 8)) (7 - k % 8) && nak ≠ some psn
    let rtt := (q.outPkts.find? fun x => x.psn = echo && !x.retx).map fun x => (s.now - x.sentAt) * 8 / nsec
    let gone := fun x : OutPkt => !seqGe x.psn next
    let fresh := ((q.outPkts.filter fun x => !x.sacked && (gone x || sack x.psn)).map (·.bytes)).sum
    let advances := seqGe next q.unaPsn && next ≠ q.unaPsn
    let s := modQp s i fun q =>
      let out := (q.outPkts.filter fun x => !gone x).map fun (x : OutPkt) => if sack x.psn then { x with sacked := true } else x
      let q := { q with unaPsn := if advances then next else q.unaPsn, credit := be b 8 4 % 2 ^ 24, outPkts := out,
                        ecn := regBit s (wgtCcReg q.profile 2) 20,
                        retxQ := q.retxQ.filter fun n => (seqGe n next && !sack n) || !seqGe n q.unaPsn,
                        expiries := if advances then 0 else q.expiries }
      let late := fun x : OutPkt => !x.sacked && (q.outPkts.any fun y => y.sacked && x.order < y.order)
      let stamp := fun x : OutPkt => if late x && x.sackAfter.isNone then { x with sackAfter := some s.now } else x
      let q := { q with outPkts := q.outPkts.map stamp }
      finishAcked (declareLost q (lostNow q))
    let (qd, s) := queueDelay s q owd rtt
    let s := if 0 < fresh then modQp s i fun q => ccAck s q qd rtt fresh (be b 12 4) (be b 16 4) else s
    let s := if advances then startTimer s i else s
    retireSends s i

-- ------------------------------------------------------------------ the responder

/-- Records a PSN as received and moves ePSN past what is complete (R325). -/
def advanceEpsn : Nat → Qp → Qp
  | 0, q => q
  | k + 1, q =>
    if q.got.contains q.ePsn then advanceEpsn k { q with ePsn := seqAdd q.ePsn 1, got := q.got.filter (· ≠ q.ePsn) } else q

def markGot (q : Qp) (psn n : Nat) : Qp :=
  advanceEpsn (q.got.length + n + 1) { q with got := q.got ++ (List.range n).map (seqAdd psn) }

/-- Why an ACK is due after a packet (R326). -/
def ackDue (s : State) (q : Qp) (ackReq outOfOrder : Bool) : Bool :=
  ackReq || outOfOrder || regBits s wgtAckCoal 7 0 ≤ q.sinceAck

/-- The QP accepts a packet (R318): state, port, peer address, peer QP and VLAN. -/
def qpAccepts (q : Qp) (port : Nat) (p : Pkt) : Bool :=
  (q.st = .rtr || q.st = .rts) && q.port = port && q.peerIp.toNat = ipSrc p.frame && q.peerQp = p.src && q.vlan = frameVid p.frame
  && (q.ipv = ipVer p.frame) && (p.cipher = q.rxKey.isSome || !pktIsData p.op)

/-- Bytes of a message placed at an offset. -/
def putBytes (t : Table Byte) (off : Nat) (d : Bytes) : Table Byte :=
  (List.range d.length).foldl (fun t k => tset t (off + k) (d.getD k 0#8)) t

/-- A placed message's bytes from an offset. -/
def takeBytes (t : Table Byte) (off n : Nat) : Bytes := (List.range n).map fun k => tgetD t (off + k) 0#8

end Sys2Proof.Machine
end

