-- ==== Sys2Proof/Machine/Deliver.lean ====
section
/-! DEFINITION. Messages: the byte stream and its times (R42-R45, R76), the verdict word (R95), delivery into raw rings, receive
buffers and steer slots with their completions (R57, R60, R61, R334, R447, R451, R465, R597), retention (R90). -/

namespace Sys2Proof.Machine

open Sys2Proof

-- ------------------------------------------------------------------ the stream

/-- When byte i of the stream has arrived completely (R44); in STORE_FORWARD, when its frame was released (R370). -/
def arrivedAt (m : Message) (i : Nat) : Option Nat :=
  m.segs.findSome? fun (g : Segment) =>
    if g.offset ≤ i ∧ i < g.offset + g.data.length then some (g.t0 + (i - g.offset + 1) * g.perByte) else none

/-- Byte i of the stream; a byte that has not come, or lies at or beyond L, reads zero (R52). -/
def streamByte (m : Message) (i : Nat) : Byte :=
  (m.segs.findSome? fun (g : Segment) =>
    if g.offset ≤ i ∧ i < g.offset + g.data.length then some (g.data.getD (i - g.offset) 0#8) else none).getD 0#8

def streamBytes (m : Message) (off n : Nat) : Bytes := (List.range n).map fun i => streamByte m (off + i)

/-- L if the tail is known, else what has come. -/
def streamLen (m : Message) : Nat :=
  m.total.getD ((m.segs.map fun (g : Segment) => g.offset + g.data.length).foldl max 0)

/-- Stream bytes of the first frame, also where it came again. -/
def firstLen (m : Message) : Nat := ((m.segs.find? fun (g : Segment) => g.offset = 0).map fun (g : Segment) => g.data.length).getD 0

/-- The arrival of byte n − 1, or of the tail if the stream ends before it (R45, R88). -/
def prefixEnd (m : Message) (n : Nat) : Option Nat :=
  arrivedAt m ((match m.total with | some l => min l n | none => n) - 1)

/-- The window end (R45). -/
def windowEnd (m : Message) : Option Nat := m.binding.bind fun k => prefixEnd m k.w

/-- Verdict-ready (R62, R76): 12 ns and F cycles after the window end. -/
def verdictReady (m : Message) : Option Nat := (windowEnd m).map fun t => t + 12 * nsec + m.f * coreCycle

/-- When the first bit of the message's reply is due (R77), later by Δ with a replay (R93). -/
def replyDue (m : Message) : Option Nat :=
  (match m.cDue with | some t => some t | none => verdictReady m).map fun t => t + 26 * nsec

/-- When the full model's result is ready (R88). -/
def fullReady (m : Message) : Option Nat :=
  m.binding.bind fun k => (prefixEnd m k.extent).map fun t => t + 12 * nsec + m.fullLat * coreCycle

/-- A message has its first verdict, or is UNJUDGED. -/
def settled (m : Message) : Bool := m.binding.isNone || m.acted

/-- Window contexts of a port in use at a time (R54): each is held from its message's first byte until its window end. A message that ends without
a window end keeps its context: the manual frees it at no other event (DESIGN CHOICE; log entry 102). -/
def contextsHeld (s : State) (p t0 : Nat) : Nat :=
  (tvals s.msgs).countP fun m => m.port = p && m.holdsContext && match windowEnd m with | some t => t0 < t | none => true

/-- Has every packet of a message come? -/
def wholeStream (m : Message) : Bool := m.total = some (m.segs.map fun (g : Segment) => g.data.length).sum && m.redo = []

/-- A check that can undo a reply is pending (R79): a frame's, or a tag of a message of which a packet has not come. -/
def checksPending (m : Message) : Bool :=
  0 < m.pendFcs || 0 < m.pendCrc || 0 < m.pendTag || (m.ciphered && !wholeStream m)

-- ------------------------------------------------------------------ retention (R90)

/-- Bytes retained for a binding of a unit: those of its messages that have come. -/
def retainedBytes (s : State) (inst b : Nat) : Nat :=
  ((tvals s.msgs).filter fun m => m.inst = inst && m.retained && !m.fullDone && (m.binding.map (·.number)) = some b).map (fun m => (m.segs.map fun (g : Segment) => g.data.length).sum) |>.sum

/-- A message that no longer fits its binding's retention buffer is not retained. -/
def checkRetain (s : State) (id : Nat) : State :=
  match getMsg s id with
  | some m =>
    match m.binding with
    | some k => if m.retained && k.retain < retainedBytes s m.inst k.number then modMsg s id fun m => { m with retained := false } else s
    | none => s
  | none => s

-- ------------------------------------------------------------------ where a message goes

/-- The number of the steer entry a record names. -/
def recSteer (r : VerdictRec) : Nat := bits r.head.toNat 23 16
def recMirror (r : VerdictRec) : Nat := bits r.head.toNat 15 12
def recTemplate (r : VerdictRec) : Nat := bits r.head.toNat 11 8
def recNfield (r : VerdictRec) : Nat := bits r.head.toNat 7 4
def recAmend (r : VerdictRec) : Bool := bit r.head.toNat 3
def recCode (r : VerdictRec) : Nat := bits r.head.toNat 2 0
def recAnnotation (r : VerdictRec) : BitVec 32 := BitVec.ofNat 32 (bits r.head.toNat 63 32)

/-- What a message's bytes do: nothing, the normal destination, a steer entry. -/
inductive Way where
  | drop
  | normal
  | steer
  deriving DecidableEq, Repr

/-- The way a verdict code sends a message (R57, R64). -/
def wayOf (m : Message) (code : Nat) : Way :=
  match code with
  | 1 => .steer
  | 4 => .drop
  | 6 => if (m.binding.map (·.unjudgedAs)) = some 1 then .drop else .normal
  | _ => .normal

def firstWay (m : Message) : Way :=
  if m.dropped then .drop else if m.unjudged.isSome then wayOf m 6 else wayOf m (m.firstCode.getD 0)

/-- The way the final verdict adds (R91): the retained copy goes to the final target if the message did not go there; another steer entry
is another target. -/
def finalWay (m : Message) : Option Way :=
  if m.amended && !m.dropped && m.unjudged.isNone then
    match m.finalCode with
    | some 1 => if firstWay m = .steer ∧ m.first.map recSteer = m.final.map recSteer then none else some .steer
    | some 0 | some 3 | some 5 => if firstWay m = .normal then none else some .normal
    | _ => none
  else none

-- ------------------------------------------------------------------ steering

def tableKey (inst b table i : Nat) : Nat := ((inst * 64 + b) * 2 + table) * 256 + i

/-- A table entry as it stands for a verdict that was ready at a time: an entry written since, or in the same FAB cycle, is not used (R465,
R474). -/
def entryAt (s : State) (key t : Nat) : TableEntry :=
  match tget s.tablesOld key with
  | some (c, e) => if t / fabCycle ≤ c then e else tgetD s.tables key {}
  | none => tgetD s.tables key {}

def steerEntry (s : State) (inst b i t : Nat) : TableEntry := entryAt s (tableKey inst b 0 i) t
def mirrorEntry (s : State) (inst b i t : Nat) : TableEntry := entryAt s (tableKey inst b 1 i) t

/-- Does an instance own a queue pair number, a completion queue, a PASID? -/
def ownsQp (s : State) (inst n : Nat) : Bool := match qpByNum s n with | some (_, q) => q.owner = inst | none => false
def ownsCq (s : State) (inst cq : Nat) : Bool := match getRing s (ringKey rkCq cq) with | some r => r.owner = inst | none => false
def ownsPasid (s : State) (inst p : Nat) : Bool := (getInst s inst).pasid0 = some p || (getInst s inst).pasid1 = some p

/-- R60: the entry names something the instance does not own. -/
def badTarget (s : State) (inst : Nat) (e : TableEntry) : Bool :=
  match e.kind with
  | 1 | 4 => !ownsQp s inst e.qp
  | 2 => !ownsPasid s inst e.pasid || !ownsCq s inst e.cq
  | _ => false

/-- Bytes a steered message writes from OFFSET on (R60). -/
def steerLen (m : Message) (e : TableEntry) : Nat := streamLen m - e.offset

/-- A slot of a RING entry or a buffer of a QUEUE entry for a message, if one is free: the state with it taken, and where the message then
goes (R61, R337, R465). -/
def takeTarget (s : State) (m : Message) (i : Nat) (e : TableEntry) : Option (State × SteerTo) :=
  let b := (m.binding.map (·.number)).getD 0
  if e.kind = 2 then
    let key := steerKey m.inst b i
    match getRing s key with
    | none => none
    | some r =>
      if ringCount r < e.slotCount then
        some (modRing s key fun r => { r with prod := r.prod + 1 }, { entry := i, ent := e, slot := some (r.prod.toNat % e.slotCount) })
      else none
  else
    match qpByNum s e.qp with
    | none => none
    | some (qi, q) =>
      match q.recvs with
      | [] => none
      | w :: t => some (modQp s qi fun q => { q with recvs := t }, { entry := i, ent := e, wr := some (qi, w) })

/-- Does the final verdict of a message steer it, where the first did not steer it there (R91)? -/
def steersFinally (m : Message) : Bool := finalWay m = some .steer

/-- The steer entry that a message waits for: the final verdict's, or the first one's. -/
def steerIndex (m : Message) : Nat := ((if steersFinally m then m.final else m.first).map recSteer).getD 0
def steerEnt (m : Message) : TableEntry := if steersFinally m then m.finalEnt else m.firstEnt

/-- Takes the message's target if it is free: its hold ends (R61). -/
def takeSteer (s : State) (id : Nat) : Option State :=
  match getMsg s id with
  | none => none
  | some m =>
    (takeTarget s m (steerIndex m) (steerEnt m)).map fun x =>
      modMsg x.1 id fun m =>
        if steersFinally m then { m with amendedTo := some x.2, steerUntil := none } else { m with steered := some x.2, steerUntil := none }

/-- The message of the READ_RESP packets of a READ that is on its way (R42). -/
def isResp (m : Message) : Bool := m.qp.isSome && m.opcode = 4

/-- Bytes of a message that have come and are not delivered. -/
def heldBytes (s : State) (m : Message) : Nat :=
  match m.qp with
  | some i =>
    if m.opcode = 4 then
      ((((getQp s i).bind fun q => sendOfMsn q m.msn).map fun w => (w.held.map fun x => x.2.length).sum)).getD 0
    else
      ((((getQp s i).bind fun q => tget q.rxMsgs m.msn).filter (·.held)).map (·.got)).getD 0
  | none => if m.tailOk && !m.ctl && !m.finished then streamLen m else 0

/-- The bytes of a message that are not delivered stay in the receive buffer (R360); those that R61 holds stay charged to their class, and those
that only wait for the verdict do not (R63, R364). -/
def chargeHeld (s : State) (id : Nat) : State :=
  match getMsg s id with
  | some m =>
    let n := heldBytes s m
    if n = 0 then s
    else
      let s := modMsg (takeBuf s (n - m.bufBytes)) id fun m => { m with bufBytes := max n m.bufBytes }
      if m.steerUntil.isSome && m.occBytes < n then
        modMsg (addOcc s m.port m.cls (n - m.occBytes)) id fun m => { m with occBytes := n }
      else s
  | none => s

-- ------------------------------------------------------------------ writing messages out

/-- Writes bytes for an instance in pieces of nothing when there are none. -/
def hostWriteSome (s : State) (inst link addr : Nat) (data : Bytes) : State :=
  if data = [] then s else hostWrite s inst link addr data

def recvBase (m : Message) : RecvRec :=
  { verdict := verdictWord m, stamp := m.stamp, port := m.port, vlan := m.vlan, msn := m.msn,
    flags := if m.binding.isSome then 1 else 0, opcode := m.opcode }

/-- Posts the completion of a message on a queue pair's receive CQ; a raw message has no queue pair number (R451). -/
def postFor (s : State) (i : Nat) (q : Qp) (m : Message) (r : RecvRec) : State :=
  if m.opcode = 17 then cqPost s q.recvCq (recvRec { r with qp := 0, flags := r.flags + holdoverFlag s }) else postRecv s i q r

/-- Writes a message into the slot or buffer taken for it and posts its completion (R60, R451, R465). A buffer that is too short for it gives
NO_RESOURCE, as R321 gives a SEND that is longer than its buffer (DEDUCED; log entry 87). -/
def deliverSteered (s : State) (id len : Nat) (target : Option SteerTo) : State :=
  match getMsg s id, target with
  | some m, some x =>
    let e := x.ent
    let data := streamBytes m e.offset (steerLen m e)
    let base := recvBase m
    let base := { base with len := len, flags := base.flags + 2 }
    match x.slot, x.wr with
    | some k, _ =>
      let ok := linkUp s e.link
      let s := if ok then hostWriteSome s m.inst e.link (e.base + k * e.slotSize) data else s
      let qn := (m.qp.bind fun i => (getQp s i).map (qpNum i)).getD 0
      let fl := base.flags + holdoverFlag s
      let st := if ok then stOK else stFlushed
      cqPost s e.cq (recvRec { base with flags := fl, addr := k, qp := qn, status := st, len := if ok then len else 0 })
    | none, some (qi, w) =>
      match getQp s qi with
      | none => s
      | some q =>
        let (st, link) := localAccess s q.owner w.lkey w.addr w.length acLocalWrite
        if st ≠ stOK then postFor s qi q m { base with wrId := w.wrId.toNat, status := st, len := 0 }
        else if w.length < data.length then
          postFor s qi q m { base with wrId := w.wrId.toNat, status := stNoResource, len := 0 }
        else postFor (hostWriteSome s q.owner link w.addr data) qi q m { base with wrId := w.wrId.toNat }
    | none, none => s
  | _, _ => s

/-- A raw frame into the next buffer of its raw receive ring (R445, R447). -/
def deliverRaw (s : State) (m : Message) : State :=
  let key := rawKey rkRawRx m.inst m.rawQueue
  match getRing s key with
  | none => countInst s m.inst 4 1
  | some r =>
    match r.posted with
    | [] => countInst s m.inst 4 1
    | d :: t =>
      let w := parseRecv r.cons d
      let data := streamBytes m 0 (streamLen m)
      if w.length < data.length then countInst s m.inst 4 1
      else
        let s := modRing s key fun r => { r with posted := t, cons := r.cons + 1 }
        let (st, link) := localAccess s m.inst w.lkey w.addr w.length acLocalWrite
        let s := if st = stOK then hostWriteSome s m.inst link w.addr data else s
        let base := recvBase m
        let n := if st = stOK then data.length else 0
        let fl := base.flags + holdoverFlag s
        cqPost s r.cq (recvRec { base with wrId := w.wrId.toNat, status := st, opcode := 17, len := n, msn := 0, flags := fl })

/-- The frames of a message that passed their checks and were not yet copied go to a mirror port (R597), each when its checks have ended. -/
def mirrorFrames (s : State) (id p : Nat) : State :=
  match getMsg s id with
  | none => s
  | some m =>
    let due := fun (f : MsgFrame) => f.fcs && f.crc && !f.mirrored
    let s := (m.frames.filter due).foldl (fun s f =>
      queueTc s p 0 { kind := .mirror, data := f.data, queuedAt := max s.now f.checkedAt, ready := f.checkedAt, msg := some id }) s
    modMsg s id fun m => { m with frames := m.frames.map fun f => if due f then { f with mirrored := true } else f }

/-- Copies what a MIRROR still owes a port: frame by frame as their checks end (R597). -/
def mirrorMore (s : State) (id : Nat) : State :=
  match getMsg s id with
  | some m =>
    match m.mirrorTo with
    | some e => if e.kind = 3 then mirrorFrames s id e.port else s
    | none => s
  | none => s

/-- A MIRROR to a queue pair: the stream goes into that queue pair's next receive buffer; a copy that finds none posted is lost, and a buffer
that is too short gives NO_RESOURCE (DEDUCED; log entries 22 and 87). -/
def mirrorQp (s : State) (id len : Nat) : State :=
  match getMsg s id with
  | some m =>
    match m.mirrorTo with
    | some e =>
      if e.kind = 4 then
        match qpByNum s e.qp with
        | some (qi, q) =>
          (match q.recvs with
           | [] => s
           | w :: t =>
             let s := modQp s qi fun q => { q with recvs := t }
             let data := streamBytes m 0 (streamLen m)
             let (st, link) := localAccess s q.owner w.lkey w.addr w.length acLocalWrite
             let base := recvBase m
             if st = stOK ∧ data.length ≤ w.length then
               postFor (hostWriteSome s q.owner link w.addr data) qi q m { base with wrId := w.wrId.toNat, len := len }
             else postFor s qi q m { base with wrId := w.wrId.toNat, len := 0, status := if st = stOK then stNoResource else st })
        | none => s
      else s
    | none => s
  | none => s

-- ------------------------------------------------------------------ a RESCIND that meets its reply (R85, R373)

/-- RESCINDs of a port handed over by now whose reply is still in the reply queue (R85, R373). -/
def metRescinds (s : State) (p : Nat) : List Nat :=
  let q := (getPort s p).replyQ
  (q.filter fun f => f.kind = .rescind && f.queuedAt ≤ s.now && q.any fun g => g.kind = .reply && g.msg = f.msg).filterMap (·.msg)

/-- Such a reply is removed, no RESCIND is sent, and the verdict word shows neither (R373). -/
def settleRescinds (s : State) (p : Nat) : State :=
  (metRescinds s p).foldl (fun s id =>
    let s := unqueue s p fun q => { q with replyQ := q.replyQ.filter fun f => !(f.msg = some id && (f.kind = .reply || f.kind = .rescind)) }
    modMsg s id fun m => { m with replied := false, provisional := false, rescinded := false, reply := none }) s

-- ------------------------------------------------------------------ completing a message

/-- May the message's completion be posted (R79, R88, R344): a verdict, the full model's result, no check pending, not held, no reply on its
way to the MAC? -/
def msgResolved (m : Message) : Bool :=
  settled m && m.fullDone && !checksPending m && m.steerUntil.isNone && m.making = [] && m.heldAs = []

/-- Do a message's bytes go to their normal destination by its verdicts (R57, R91)? -/
def goesNormal (m : Message) : Bool := firstWay m = .normal || (finalWay m = some .normal && m.retained)

/-- A frame for the transport that waits for the verdict on it (R42, R57): the transport may take it once that sends it its normal way. -/
def frameHeld (s : State) (f : RxFrame) : Bool :=
  match f.msg.bind (getMsg s) with
  | some m => m.ctl && !m.finished && !(settled m && m.pendFcs = 0 && m.steerUntil.isNone && goesNormal m)
  | none => false

/-- A frame that its verdict keeps from the transport leaves the receive buffer. -/
def dropCtl (s : State) (id : Nat) (m : Message) : State :=
  match (getPort s m.port).inbox.find? fun f => f.msg = some id with
  | some f =>
    let s := modPort s m.port fun q => { q with inbox := q.inbox.eraseP fun g => g.msg = some id }
    subOcc (freeBuf s f.room) m.port f.cls f.occ
  | none => s

/-- A message is done: what it held in the receive buffer is free, and its verdict has been carried out. -/
def endMsg (s : State) (id : Nat) : State :=
  match getMsg s id with
  | none => s
  | some m =>
    let s := modMsg (freeSteer s id) id fun m => { m with finished := true, steerUntil := none, making := [], heldAs := [] }
    if m.ctl && !goesNormal m then dropCtl s id m else s

/-- One way of a message is carried out; len is its BYTE_LEN, normal its normal delivery, and a steer's target was taken before. -/
def deliverWay (s : State) (id len : Nat) (normal : State → State) (target : Option SteerTo) : Way → State
  | .drop => s
  | .normal => normal s
  | .steer => deliverSteered s id len target

/-- Delivery as the first and the final verdict have it (R57, R91); what needs a copy that is not retained is skipped. -/
def deliverMsg (s : State) (id len : Nat) (normal : State → State) : State :=
  match getMsg s id with
  | none => s
  | some m =>
    let s := if (finalWay m).isSome ∧ m.retained = false then modMsg s id fun m => { m with unretained := true } else s
    let s := deliverWay s id len normal m.steered (firstWay m)
    let s := match finalWay m with
      | some w => if m.retained then deliverWay s id len normal m.amendedTo w else s
      | none => s
    mirrorQp s id len

/-- A message of one frame, which ended well and in STORE_FORWARD was released (R368), whose verdict is settled is delivered and completed; what
the transport takes waits for it in the inbox. -/
def finishRaw (s : State) (id : Nat) : State :=
  match getMsg s id with
  | some m =>
    if m.qp.isNone && m.tailOk && m.releaseAt ≤ s.now && msgResolved m && !m.finished then
      endMsg (deliverMsg s id (streamLen m) fun s => if m.ctl then s else deliverRaw s ((getMsg s id).getD m)) id
    else s
  | none => s

/-- Is a received WGT message whole, its tags passed and its verdict settled (R334, R344)? -/
def rxReady (s : State) (r : RxMsg) : Bool :=
  r.total = some r.got && r.tagsPending = 0 &&
  (match r.msgId.bind (getMsg s) with | some m => m.finished || msgResolved m | none => true)

/-- Normal delivery of a WGT message: bytes not placed yet are written, and the completion is posted (R334, R451); one that began on an
attached queue pair goes to the service instead (R241). -/
def deliverWgt (i msn : Nat) (r : RxMsg) (base : RecvRec) (s : State) : State :=
  match getQp s i with
  | none => s
  | some q =>
    let len := r.total.getD 0
    let base := { base with msn := msn, len := len, port := q.port, vlan := r.vlan, opcode := r.opcode }
    let data := if r.held then takeBytes r.data 0 len else []
    if r.svc.isSome then
      modQp s i fun q => if q.service.map (fun k => (k, q.serviceAt)) = r.svc then { q with seqIn := q.seqIn ++ [(cycleOf s, data)] } else q
    else if r.opcode = 1 then
      match r.wr with
      | some w =>
        let (st, link) := if r.lost then (stFlushed, 0) else localAccess s q.owner w.lkey w.addr w.length acLocalWrite
        if st = stOK then postRecv (hostWriteSome s q.owner link w.addr data) i q { base with wrId := w.wrId.toNat }
        else postRecv s i q { base with wrId := w.wrId.toNat, status := st, len := 0 }
      | none => s
    else if r.opcode = 2 then
      let (st, link) := if r.lost then (stFlushed, 0) else localAccess s q.owner r.rkey r.remoteAddr len acRemoteWrite
      let s := if st = stOK then hostWriteSome s q.owner link r.remoteAddr data else s
      if r.notify then postRecv s i q { base with addr := r.remoteAddr, status := st, len := if st = stOK then len else 0 } else s
    else s

/-- Completes the message at the head of a QP's MSN order (R334). A SEND that did not go to its own receive buffer returns it
(DEDUCED; log entry 23). -/
def completeOne (s : State) (i msn : Nat) (r : RxMsg) : State :=
  let mine := r.msgId.bind (getMsg s)
  let s :=
    match r.msgId, mine with
    | some id, some m =>
      if m.finished then s
      else
        endMsg (deliverMsg s id (r.total.getD 0) fun s => deliverWgt i msn r (recvBase ((getMsg s id).getD m)) s) id
    | _, _ => deliverWgt i msn r { stamp := r.capture } s
  let lost := match mine with
    | some m => !(firstWay m = .normal || finalWay m = some .normal)
    | none => false
  modQp s i fun q =>
    { q with rxMsgs := tdel q.rxMsgs msn, nextRxMsn := seqAdd msn 1,
             recvs := match lost, r.wr with | true, some w => w :: q.recvs | _, _ => q.recvs }

/-- Completes what stands complete at the head of a QP's MSN order, one message after the other (R334), at most so many. -/
def completeRx : Nat → State → Nat → State
  | 0, s, _ => s
  | k + 1, s, i =>
    match getQp s i with
    | none => s
    | some q =>
      match tget q.rxMsgs q.nextRxMsn with
      | some r => if rxReady s r then completeRx k (completeOne s i q.nextRxMsn r) i else s
      | none => s

/-- Every message that stands complete at the head of a QP's MSN order is completed (R334). -/
def completeAll (s : State) (i : Nat) : State := completeRx (((getQp s i).map fun q => q.rxMsgs.length).getD 0) s i

-- ------------------------------------------------------------------ placing what waited for a verdict (R57, R325)

/-- The stretches of consecutive bytes of a table: offset and bytes. -/
def runsOf : Table Byte → List (Nat × Bytes)
  | [] => []
  | x :: t =>
    match runsOf t with
    | (o, d) :: l => if o = x.1 + 1 then (x.1, x.2 :: d) :: l else (x.1, [x.2]) :: (o, d) :: l
    | [] => [(x.1, [x.2])]

/-- Payload of a message goes to its place in memory: its receive buffer, or the range a WRITE names (R325). -/
def placeAt (s : State) (q : Qp) (r : RxMsg) (off : Nat) (body : Bytes) : State :=
  match r.wr with
  | some w =>
    let (st, link) := localAccess s q.owner w.lkey w.addr w.length acLocalWrite
    if st = stOK then hostWriteSome s q.owner link (w.addr + off) body else s
  | none =>
    let (st, link) := localAccess s q.owner r.rkey (r.remoteAddr + off) body.length acRemoteWrite
    if r.opcode = 2 ∧ st = stOK then hostWriteSome s q.owner link (r.remoteAddr + off) body else s

/-- Is a payload of a message lost with the PCIe link that its place is on (R429)? -/
def placeLost (s : State) (q : Qp) (r : RxMsg) (off n : Nat) : Bool :=
  match r.wr with
  | some w => (localAccess s q.owner w.lkey w.addr w.length acLocalWrite).1 = stFlushed
  | none => r.opcode = 2 && (localAccess s q.owner r.rkey (r.remoteAddr + off) n acRemoteWrite).1 = stFlushed

/-- Does a message's first verdict send its bytes to their normal destination now (R57)? -/
def placesNow (m : Message) : Bool := settled m && firstWay m = .normal

/-- The bytes of a WGT message that waited for its verdict are written once that sends them their normal way (R57, R325). -/
def placeHeld (s : State) (id : Nat) : State :=
  match getMsg s id with
  | none => s
  | some m =>
    match m.qp with
    | none => s
    | some i =>
      match getQp s i with
      | none => s
      | some q =>
        match tget q.rxMsgs m.msn with
        | none => s
        | some r =>
          if r.held && r.svc.isNone && placesNow m && !m.finished then
            let lost := (runsOf r.data).any fun x => placeLost s q r x.1 x.2.length
            let s := modQp s i fun q => { q with rxMsgs := tset q.rxMsgs m.msn { r with held := false, data := [], lost := r.lost || lost } }
            (runsOf r.data).foldl (fun s x => placeAt s q r x.1 x.2) (freeSteer s id)
          else s

-- ------------------------------------------------------------------ the responses of a READ (R42, R314, R334)

/-- The message of a READ's responses that is on its way. -/
def respMsg (s : State) (i msn : Nat) : Option Nat :=
  (s.msgs.find? fun m => m.2.qp = some i && m.2.opcode = 4 && m.2.msn = msn && !m.2.finished).map (·.1)

def modSend (s : State) (i msn : Nat) (f : SendWr → SendWr) : State :=
  modQp s i fun q => { q with sends := q.sends.map fun w => if w.started ∧ w.done.isNone ∧ w.msn = msn then f w else w }

/-- Payload of a READ goes to its place in memory; bytes for a link that is down are lost (R429). -/
def placeRead (s : State) (i : Nat) (q : Qp) (w : SendWr) (off : Nat) (body : Bytes) : State :=
  let (st, link) := localAccess s q.owner w.lkey w.localAddr w.length acLocalWrite
  if st = stOK then hostWriteSome s q.owner link (w.localAddr + off) body
  else modSend s i w.msn fun w => { w with lost := w.lost || decide (st = stFlushed) }

/-- The status of a READ whose responses have all come. -/
def readStatus (s : State) (q : Qp) (w : SendWr) : Nat :=
  if w.lost then stFlushed else (localAccess s q.owner w.lkey w.localAddr w.length acLocalWrite).1

/-- A READ has all its responses, and no message of them is on its way: it finishes (R334). One that fails takes the queue pair to ERROR, so that no
later request completes with OK (R450; DEDUCED, log entry 112). -/
def finishRead (s : State) (i msn : Nat) : State :=
  match getQp s i with
  | none => s
  | some q =>
    match sendOfMsn q msn with
    | some w =>
      if (readGap w).2 = 0 && (respMsg s i msn).isNone then
        let st := readStatus s q w
        if st = stOK then retireSends (modSend s i msn fun w => { w with done := some st }) i else qpError s i (some (w.index, st)) none
      else s
    | none => s

/-- What waited of a READ's responses is placed. -/
def placeHeldRead (s : State) (i msn : Nat) : State :=
  match getQp s i with
  | none => s
  | some q =>
    match sendOfMsn q msn with
    | some w => w.held.foldl (fun s x => placeRead s i q w x.1 x.2) (modSend s i msn fun w => { w with held := [] })
    | none => s

/-- The message of a READ's responses (R42): its bytes are placed once its verdict sends them their normal way, and when they have all come and the
message is settled it ends (DEDUCED; log entry 66). -/
def completeResp (s : State) (id : Nat) (m : Message) (i : Nat) : State :=
  if m.finished then finishRead s i m.msn
  else
    let s := if placesNow m then freeSteer (placeHeldRead s i m.msn) id else s
    match (getQp s i).bind fun q => sendOfMsn q m.msn with
    | some w =>
      if (readGap w).2 = 0 && msgResolved m then
        let s := deliverMsg s id w.length fun s => placeHeldRead s i m.msn
        finishRead (endMsg (modSend s i m.msn fun w => { w with held := [] }) id) i m.msn
      else s
    | none => s

/-- A message may have become complete; what waited for its verdict is placed. -/
def tryComplete (s : State) (id : Nat) : State :=
  match getMsg s id with
  | none => s
  | some m =>
    let s := match m.reply with | some r => settleRescinds s r.port | none => s
    match m.qp with
    | none => finishRaw s id
    | some i => if m.opcode = 4 then updateCredit (completeResp s id m i) i else updateCredit (completeAll (placeHeld s id) i) i

end Sys2Proof.Machine
end

