-- ==== Sys2Proof/Machine/Glaze.lean ====
section
/-! DEFINITION. The glaze unit: verdict records (R58, R59, R596), what a verdict does (R57, R60, R64), replies, follow-ups and RESCIND
frames (R65-R75, R79-R86), guarded comparison (R93, R510), the full model (R88-R91). -/

namespace Sys2Proof.Machine

open Sys2Proof

-- ------------------------------------------------------------------ verdict records

/-- A record as it leaves an exit link: head, fields, whether it is broken or slow, and when its last token reached the glaze unit. -/
structure RecIn where
  vr : VerdictRec
  bad : Bool
  last : Nat
  deriving DecidableEq, Repr

/-- Records of an exit link in arrival order, with the tokens left after each (R596). -/
def parseRecs : Nat → List (Nat × Token) → List (RecIn × List (Nat × Token))
  | 0, _ => []
  | fuel + 1, l =>
    match l.dropWhile fun x => x.2.kind = .mark with
    | [] => []
    | h :: t =>
      let n := if h.2.kind = .data then bits h.2.payload.toNat 7 4 else 0
      let rec take : Nat → List (Nat × Token) → Option (List (Nat × Token) × List (Nat × Token))
        | 0, l => some ([], l)
        | _, [] => none
        | k + 1, x :: l =>
          if x.2.kind = .mark then take (k + 1) l
          else (take k l).map fun r => (x :: r.1, r.2)
      match take n t with
      | none => []
      | some (fs, rest) =>
        let bad := h.2.kind ≠ .data || 8 < n || fs.any fun x => x.2.kind ≠ .data || h.1 + 4 * coreCycle < x.1
        ({ vr := { head := h.2.payload, fields := fs.map fun x => x.2.payload }, bad := bad,
           last := ((fs.map (·.1)).getLast?.getD h.1) + 4 * nsec }, rest) :: parseRecs fuel rest

def laneKey (lane copy : Nat) : Nat := lane * 4 + copy

/-- The record of a window on one copy's exit link, if it has reached the glaze unit by a time (R163, R596). -/
def recordOf (u : MUnit) (lane copy id cut : Nat) : Option RecIn :=
  match (tgetD u.awaits (laneKey lane copy) []).findIdx? (· = id) with
  | none => none
  | some k =>
    let l := tgetD u.exits (laneKey lane copy) []
    ((parseRecs l.length l)[k]?).bind fun r => if r.1.last ≤ cut then some r.1 else none

/-- Drops, from the front of an exit link, the records of windows whose verdict is settled (R161, R513, R596). -/
def trimLink (s : State) (key : Nat) : Nat → MUnit → MUnit
  | 0, u => u
  | fuel + 1, u =>
    match tgetD u.awaits key [] with
    | [] => u
    | id :: ids =>
      let spent := match getMsg s id with
        | some m => if key % 4 = 3 then m.fullDone else m.acted
        | none => true
      let l := tgetD u.exits key []
      match spent, parseRecs l.length l with
      | true, r :: _ => trimLink s key fuel { u with exits := tset u.exits key r.2, awaits := tset u.awaits key ids }
      | _, _ => u

def trimUnit (s : State) (u : Nat) : State :=
  modUnit s u fun m => (tkeys m.awaits).foldl (fun m k => trimLink s k ((tgetD m.awaits k []).length) m) m

/-- The copies that the windows of a lane feed: A alone, or the first two copies not set aside (R93, R510). -/
def liveCopies (u : MUnit) (lane : Nat) : List Nat :=
  if u.guard then (([0, 1, 2].filter fun c => !u.aside.contains (lane, c)).take 2) else [0]

/-- The copies that a message's window feeds: a copy set aside after the window began is still one of them (R510). -/
def copiesOf (u : MUnit) (m : Message) : List Nat := if m.copies = [] then liveCopies u m.lane else m.copies

/-- Sets a copy of a lane aside: the exit tokens that come from then on are discarded (R510), while a verdict that has come stands for R93; and
FLT_EVENT.SET_ASIDE is set (R536). -/
def setAside (s : State) (u lane copy : Nat) : State :=
  if (getUnit s u).any fun m => m.aside.contains (lane, copy) then s
  else
    regOr (modUnit s u fun m =>
      { m with aside := m.aside ++ [(lane, copy)],
               exits := tmod m.exits (laneKey lane copy) fun l => l.filter fun x => decide (x.1 + 4 * nsec ≤ s.now) }) fltEvent 2

def templateOf (u : MUnit) (b n : Nat) : Option Template := u.templates.find? fun t => t.binding = b && t.number = n

-- ------------------------------------------------------------------ frames of the glaze unit (R70-R75)

/-- IP header offset of a template. -/
def tmplL3 (t : Template) : Nat := if bit t.flags 3 then 18 else 14

/-- Operations 0x05-0x09, in increasing order, over a frame whose datagram ends at e (R71). -/
def lateOps (t : Template) (e : Nat) (f : Bytes) : Bytes :=
  ((t.fields.filter fun x => 5 ≤ x.op && x.op ≤ 9).mergeSort fun a b => a.op ≤ b.op).foldl (fun f x =>
    let l3 := tmplL3 t
    let udp := t.payloadOff - 8
    let put := fun v => overlay f x.dst (toBe 2 v)
    let z := overlay f x.dst [0#8, 0#8]
    match x.op with
    | 5 => put (e - l3)
    | 6 => put (e - l3 - 40)
    | 7 => put (e - udp)
    | 8 => put (ipChecksum (slice z l3 (4 * (byteAt z l3 % 16))))
    | _ =>
      let pseudo := if bit t.flags 2 then slice z (l3 + 8) 32 ++ toBe 4 (e - udp) ++ [0#8, 0#8, 0#8, 17#8]
        else slice z (l3 + 12) 8 ++ [0#8, 17#8] ++ toBe 2 (e - udp)
      let c := ipChecksum (pseudo ++ slice z udp (e - udp))
      put (if c = 0 then 65535 else c)) f

/-- The glaze trailer over a UDP payload (R74). -/
def trailer (payload : Bytes) (flags binding code seq horizon : Nat) : Bytes :=
  let t := toBe 2 0x6C5A ++ toBe 1 1 ++ toBe 1 flags ++ toBe 2 binding ++ toBe 1 code ++ toBe 1 0 ++ toBe 4 seq ++ toBe 4 horizon
  t ++ toBe 4 (crc32c (payload ++ t)).toNat

/-- What a reply's frame is composed from. -/
structure Compose where
  tmpl : Template
  fields : List DWord
  code : Nat
  seq : Nat
  /-- trailer flags: 1 PROVISIONAL, 2 FOLLOWUP, 8 AMENDED -/
  flags : Nat
  horizon : Nat
  binding : Nat
  /-- network time of the handoff -/
  at_ : Nat

/-- Copies the image, applies the field operations other than 0x05-0x09, appends trailer and padding, then lengths and checksums
(R71, R73, R74). -/
def composeFrame (m : Message) (c : Compose) : Bytes :=
  let t := c.tmpl
  let fieldBytes := c.fields.flatMap fun w => toLe 8 w.toNat
  let f := (t.fields.filter fun x => x.op < 5 || 9 < x.op).foldl (fun f x =>
    overlay f x.dst (match x.op with
      | 1 => streamBytes m x.src x.len
      | 2 => sliceZ fieldBytes x.src x.len
      | 3 => toBe 4 c.seq
      | 4 => toBe 4 (c.at_ / 1000000000 % 2 ^ 32) ++ toBe 4 (c.at_ % 1000000000)
      | _ => toBe 1 c.code)) t.image
  if bit t.flags 0 then
    let f := f ++ List.replicate (40 - f.length) 0#8
    let f := f ++ trailer (f.drop t.payloadOff) c.flags c.binding c.code c.seq c.horizon
    lateOps t f.length f
  else padFrame (lateOps t f.length f)

/-- R75. -/
def rescindFrame (r : Reply) (binding cause : Nat) : Bytes :=
  let f := r.frame.take r.template.payloadOff
  let f := f ++ trailer [] 4 binding cause r.seq.toNat 0
  lateOps r.template f.length f

/-- The rescind horizon in ns (R86). The gate list's armature windows are those of the armatures that are ARMED or RUNNING: one that R297 leaves on the
list until the next takeover, of an armature stopped or destroyed, is not counted (DESIGN CHOICE; log entry 105). -/
def horizonOf (s : State) (k : Binding) (port : Nat) : Nat :=
  let g := ((armWins s port).map (·.len)).foldl max 0
  ceilDiv (k.pTimeout * nsec + 10 * nsec + 47124 * portByteTime s port + g * nsec) nsec

/-- Network time 10 ns from now, in ns (R71 TIME, R76). -/
def handoffTime (s : State) : Nat := (s.tb.clock + 10 * (2 ^ 48 + s.tb.adj).toNat) / 2 ^ 48

/-- When a frame handed over at a time may start: after the transmit stage, and in STORE_FORWARD after it is stored (R76, R370). -/
def replyStart (s : State) (p n at_ : Nat) : Nat :=
  at_ + 16 * nsec + (if (getPort s p).sfTx then (n + 4) * portByteTime s p else 0)

def replyPortOf (m : Message) (k : Binding) : Nat := if k.replyPort = 255 then m.port else k.replyPort

/-- Has a message's RESCIND still to be sent (R85)? -/
def rescindComing (s : State) (id : Nat) (p : Nat) : Bool :=
  (getPort s p).replyQ.any fun f => f.kind = .rescind && f.msg = some id

/-- Outstanding provisional replies of a port: their checks are pending, or their RESCIND is not sent yet (R81). -/
def provisionalOn (s : State) (p : Nat) : Nat :=
  s.msgs.countP fun m => m.2.provisional && (m.2.reply.map (·.port)) = some p
    && ((checksPending m.2 && !m.2.rescinded) || rescindComing s m.1 p)

-- ------------------------------------------------------------------ UNJUDGED (R64)

/-- Where a binding's counters are. -/
def countMsg (s : State) (m : Message) (k n : Nat) : State :=
  match m.binding with | some b => countBinding s m.inst b.number k n | none => s

/-- A message becomes UNJUDGED with a cause (R64): counted in UNJUDGED and by its cause, also where a first verdict was counted before (R96;
log entry 89); a reply not yet handed over is not sent. -/
def unjudge (s : State) (id cause : Nat) : State :=
  match getMsg s id with
  | none => s
  | some m =>
    if m.finished || m.unjudged.isSome || m.binding.isNone then s
    else
      let s := countMsg (countMsg s m 7 1) m (16 + cause) 1
      let s := modMsg (freeSteer s id) id fun m =>
        { m with unjudged := some cause, firstCode := if m.acted then m.firstCode else some 6, acted := true, heldAs := [],
                 making := [], steerUntil := none }
      let s := match m.unit with | some u => trimUnit s u | none => s
      let s := match m.qp with | some i => updateCredit s i | none => s
      tryComplete s id

-- ------------------------------------------------------------------ replies (R65, R66, R79-R81)

/-- It is handed over 10 ns from now (R76, R79, R80). -/
def Making.fromNow (s : State) (x : Making) : Making := { x with at_ := s.now + 10 * nsec, net := handoffTime s }

/-- A reply or follow-up is composed. -/
def makeReply (s : State) (id : Nat) (x : Making) : State := modMsg s id fun m => { m with making := m.making ++ [x.fromNow s] }

/-- A reply is held for its message's checks, and its follow-up behind it (R79, R81, R91). -/
def holdReply (s : State) (id : Nat) (x : Making) : State := modMsg s id fun m => { m with heldAs := m.heldAs ++ [x] }

/-- What a handed-over frame is composed from. -/
def Making.compose (x : Making) (seq flags horizon binding : Nat) : Compose :=
  { tmpl := x.template, fields := x.fields, code := x.code, seq := seq, flags := flags + 8 * b2n x.amended, horizon := horizon,
    binding := binding, at_ := x.net }

/-- A follow-up is handed over, if it fits (R65, R91); behind a reply that is held it waits with that. -/
def handFollowup (s : State) (id : Nat) (m : Message) (k : Binding) (x : Making) : State :=
  match m.reply with
  | some q =>
    let f := composeFrame m (x.compose q.seq.toNat 2 0 k.number)
    if replyFits s q.port f.length then
      queueReply s q.port { kind := .followup, data := f, inst := m.inst, queuedAt := x.at_, ready := replyStart s q.port f.length x.at_,
                            msg := some id }
    else s
  | none => if m.heldAs = [] then s else holdReply s id x

/-- A reply is handed over: held for want of a provisional place and counted in HELD (R81), UNJUDGED where it does not fit (R65), else with
the next sequence number (R66), PROVISIONAL where a check is still pending (R80). A port whose link is down discards it, and none was
sent (R381). -/
def handReply (s : State) (id : Nat) (m : Message) (k : Binding) (x : Making) : State :=
  let p := replyPortOf m k
  let prov := checksPending m
  if prov && 256 ≤ provisionalOn s p then holdReply (countMsg s m 10 1) id x
  else
    let key := m.inst * 64 + k.number
    let seq := tgetD s.replySeq key 0
    let plain := composeFrame m (x.compose seq.toNat 0 0 k.number)
    let f := if prov then composeFrame m (x.compose seq.toNat 1 (horizonOf s k p) k.number) else plain
    if !replyFits s p f.length then unjudge s id 10
    else
      let s := { s with replySeq := tset s.replySeq key (seq + 1) }
      let s :=
        if txOpen s p then
          modMsg s id fun m =>
            { m with reply := some { seq := seq, port := p, template := x.template, fields := x.fields, frame := f, provisional := prov,
                                     handedAt := x.at_, plain := plain },
                     replied := true, provisional := prov }
        else s
      queueReply s p { kind := .reply, data := f, inst := m.inst, queuedAt := x.at_, ready := replyStart s p f.length x.at_,
                       msg := some id }

/-- One frame is handed over; a message that is UNJUDGED or discarded by then sends none (R64, R82, R83). -/
def handOne (s : State) (id : Nat) (x : Making) : State :=
  match getMsg s id with
  | none => s
  | some m =>
    let s := modMsg s id fun m => { m with making := m.making.erase x }
    match m.binding with
    | some k =>
      if m.unjudged.isSome || m.dropped then s
      else tryComplete (if x.followup then handFollowup s id m k x else handReply s id m k x) id
    | none => s

/-- Everything whose handoff has come by a time is handed over, in order of time (R76). -/
def handOver (s : State) (t : Nat) : State :=
  let due := s.msgs.flatMap fun m => (m.2.making.filter fun x => decide (x.at_ ≤ t)).map fun x => (m.1, x)
  (due.mergeSort fun a b => a.2.at_ ≤ b.2.at_).foldl (fun s x => handOne s x.1 x.2) s

/-- The last check of a message has passed before its provisional reply's handoff: the reply goes without PROVISIONAL (R80). -/
def settleProvisional (s : State) (id : Nat) : State :=
  match getMsg s id with
  | none => s
  | some m =>
    match m.reply with
    | some r =>
      if r.provisional && !checksPending m && s.now ≤ r.handedAt then
        let s := modMsg s id fun m => { m with provisional := false, reply := some { r with provisional := false, frame := r.plain } }
        modPort s r.port fun q => { q with replyQ := q.replyQ.map fun f =>
          if f.kind = .reply ∧ f.msg = some id then { f with data := r.plain } else f }
      else s
    | none => s

/-- A REPLY: composed at once, or held for its checks under HOLD (R79, R80). -/
def startReply (s : State) (id : Nat) (k : Binding) (t : Template) (r : VerdictRec) (amended : Bool) : State :=
  match getMsg s id with
  | none => s
  | some m =>
    let x : Making := { at_ := s.now, net := 0, template := t, fields := r.fields, code := 2, amended := amended }
    if checksPending m && k.checkPolicy = 0 then holdReply s id x else makeReply s id x

/-- A held reply goes once no check of its message is pending (R79, R81), also where its unit is gone by then. -/
def releaseHeld (s : State) (id : Nat) : State :=
  match getMsg s id with
  | none => s
  | some m => if checksPending m then s else m.heldAs.foldl (fun s x => makeReply s id x) (modMsg s id fun m => { m with heldAs := [] })

/-- A RESCIND for a message's reply, once (R85): it is handed over 10 ns from now, or at the timeout; settleRescinds is R373. Where the
port's link is down it is discarded, and none was sent (R381). -/
def rescind (s : State) (id cause : Nat) : State :=
  match getMsg s id with
  | none => s
  | some m =>
    match m.reply, m.binding with
    | some r, some k =>
      if m.rescinded then s
      else
        let f := rescindFrame r k.number cause
        let at_ := s.now + (if cause = 3 then 0 else 10 * nsec)
        let s := modMsg s id fun m => { m with rescinded := true, rescindLost := !txOpen s r.port }
        queueRescind s r.port { kind := .rescind, data := f, inst := m.inst, queuedAt := at_, ready := replyStart s r.port f.length at_,
                                msg := some id }
    | _, _ => s

/-- Discards a message: no completion, no follow-up, the full model abandoned (R82, R84). -/
def discardMsg (s : State) (id : Nat) : State :=
  match getMsg s id with
  | none => s
  | some m =>
    if m.finished then s
    else
      let s := modMsg (freeSteer s id) id fun m =>
        { m with dropped := true, fullDone := true, acted := true, heldAs := [], making := [], steerUntil := none,
                 pendFcs := 0, pendCrc := 0, pendTag := 0, tagPsns := [], redo := [], ciphered := false, mirrorTo := none }
      let s := match m.unit with | some u => trimUnit s u | none => s
      endMsg s id

-- ------------------------------------------------------------------ acting on a verdict (R57, R59, R60)

/-- The entry that a record of a message names, as it stands for a verdict ready at a time (R465). -/
def recEntry (s : State) (m : Message) (k : Binding) (r : VerdictRec) (t : Nat) : TableEntry :=
  if recCode r = 5 then mirrorEntry s m.inst k.number (recMirror r) t else steerEntry s m.inst k.number (recSteer r) t

/-- Does an index a record uses name something that is there (R59)? -/
def recNamesOk (s : State) (u : MUnit) (m : Message) (k : Binding) (r : VerdictRec) (t : Nat) : Bool :=
  match recCode r with
  | 1 => recSteer r < k.steerTable && (recEntry s m k r t).kind ≠ 0
  | 2 => (templateOf u k.number (recTemplate r)).isSome
  | 5 => recMirror r < k.mirrorTable && (recEntry s m k r t).kind ≠ 0
  | _ => true

/-- A record that R59 rejects, AMEND apart. -/
def recBad (s : State) (u : MUnit) (m : Message) (k : Binding) (x : RecIn) (t : Nat) : Bool :=
  x.bad || recCode x.vr = 7 || bits x.vr.head.toNat 31 24 ≠ 0 || !recNamesOk s u m k x.vr t

/-- Is the entry's slot too small for the message, as far as its length is known (R60)? -/
def slotTooSmall (m : Message) (e : TableEntry) : Bool := e.kind = 2 && e.slotSize < steerLen m e

/-- The message goes to its steer target, or waits for it for at most STEER_HOLD, charged to its class (R61, R337, R364). -/
def steerOrHold (s : State) (id : Nat) (m : Message) (k : Binding) : State :=
  match takeSteer s id with
  | some s => tryComplete s id
  | none =>
    let s := chargeHeld (modMsg s id fun m => { m with steerUntil := some (s.now + k.steerHold * nsec) }) id
    match m.qp with | some i => updateCredit s i | none => s

/-- A STEER: an entry that R60 rejects, or its target. -/
def actSteer (s : State) (id : Nat) (m : Message) (k : Binding) (r : VerdictRec) (e : TableEntry) : State :=
  let s := countMsg (modMsg s id fun m => { m with first := some r, firstEnt := e, firstCode := some 1, acted := true }) m 2 1
  if badTarget s m.inst e || slotTooSmall m e then unjudge s id 9 else steerOrHold s id m k

/-- A message that has grown past the slot of its steer entry, the first verdict's or the final one's, is UNJUDGED with cause BAD_TARGET (R60). The
slot it took stays out of use until the consumer passes it (DESIGN CHOICE; log entry 90). -/
def checkSlot (s : State) (id : Nat) : State :=
  match getMsg s id with
  | some m =>
    if (m.firstCode = some 1 && slotTooSmall m m.firstEnt) || (steersFinally m && slotTooSmall m m.finalEnt) then unjudge s id 9 else s
  | none => s

/-- The glaze unit acts on a first verdict, ready at a time (R57). A record that R59 rejects makes the message UNJUDGED with cause BAD_VERDICT, an
entry that R60 rejects with cause BAD_TARGET. The verdict is counted (R96) also where R60
or R65 then makes the message UNJUDGED. -/
def actVerdict (s : State) (id : Nat) (x : RecIn) (t : Nat) : State :=
  match getMsg s id with
  | none => s
  | some m =>
    match m.binding, m.unit.bind (getUnit s) with
    | some k, some u =>
      let r := x.vr
      let code := recCode r
      let e := recEntry s m k r t
      if recBad s u m k x t || recAmend r then unjudge s id 8
      else if code = 6 then unjudge s id 0
      else if code = 1 then actSteer s id m k r e
      else if code = 5 ∧ badTarget s m.inst e = true then
        unjudge (countMsg (modMsg s id fun m => { m with first := some r, firstCode := some 5, acted := true }) m 6 1) id 9
      else
        let s := modMsg s id fun m =>
          { m with first := some r, firstCode := some code, acted := true,
                   annotation := if code = 3 then recAnnotation r else 0,
                   mirrorTo := if code = 5 then some e else none }
        let s := countMsg s m (code + 1) 1
        let s := if code = 2 then
            (match templateOf u k.number (recTemplate r) with | some t => startReply s id k t r false | none => s)
          else s
        tryComplete (mirrorMore s id) id
    | _, _ => s

/-- Takes a message's verdict and clears what is settled from its unit's exit links. -/
def settleWith (s : State) (id : Nat) (x : RecIn) (t : Nat) : State :=
  let s := actVerdict s id x t
  match (getMsg s id).bind (·.unit) with | some u => trimUnit s u | none => s

def sameRec (a b : RecIn) : Bool := a.vr = b.vr && a.bad = b.bad

/-- Δ of R93 in 1/600 ns. -/
def replayDelta (m : Message) (k : Binding) : Nat := 12 * nsec + (m.f + ceilDiv k.w 128) * coreCycle

/-- The verdict of an unguarded unit at verdict-ready (R62, R513). -/
def releasePlain (s : State) (id : Nat) (m : Message) (u : MUnit) (cut : Nat) : State :=
  match recordOf u m.lane 0 id cut with
  | some x => settleWith s id x cut
  | none => unjudge (regAdd s fltMissingHead 1) id 8

/-- The verdicts of a guarded unit at verdict-ready (R93, R510): agreement, or a replay into C, or no majority. A window that began when
the lane had its three copies is replayed, also if A or B has been set aside since. -/
def releaseGuarded (s : State) (id : Nat) (m : Message) (k : Binding) (uid : Nat) (u : MUnit) (cut : Nat) : State :=
  let cs := copiesOf u m
  let a := recordOf u m.lane (cs.getD 0 0) id cut
  let b := recordOf u m.lane (cs.getD 1 1) id cut
  let agree := match a, b with | some x, some y => sameRec x y | _, _ => false
  match agree, a with
  | true, some x => settleWith s id x cut
  | _, _ =>
    let s := countMsg s m 15 1
    if cs ≠ [0, 1] || u.aside.contains (m.lane, 2) then unjudge s id 7
    else
      let due := cut + replayDelta m k
      if s.now < tgetD u.cBusy m.lane 0 then modMsg s id fun m => { m with cDue := some due }
      else
        let s := modUnit s uid fun u =>
          { u with cBusy := tset u.cBusy m.lane due,
                   awaits := tmodD u.awaits (laneKey m.lane 2) [] (· ++ [id]) }
        modMsg s id fun m =>
          { m with cDue := some due, guardRetry := true,
                   toks := m.toks.map fun t => (cut, if t.2.1 &&& 8 = 0 then t.2.1 ||| 4 else t.2.1, t.2.2) }

/-- The two of three that share a verdict, and the third copy (R93). -/
def majority (a b c : Option RecIn) : Option (RecIn × Nat × Bool) :=
  let same := fun (x y : Option RecIn) => match x, y with | some p, some q => sameRec p q | _, _ => false
  if same a b then a.map fun x => (x, 2, c.isSome && !same a c)
  else if same a c then a.map fun x => (x, 1, true)
  else if same b c then b.map fun x => (x, 0, true)
  else none

/-- The verdicts of A, B and C when C's is due (R93): a majority is acted on and the odd copy set aside (R510), else GUARD. -/
def arbitrate (s : State) (id : Nat) (m : Message) (uid : Nat) (u : MUnit) (due : Nat) : State :=
  let get := fun c => recordOf u m.lane c id due
  match majority (get 0) (get 1) (if m.guardRetry then get 2 else none) with
  | some (x, odd, aside) =>
    let s := settleWith s id x due
    if aside then setAside s uid m.lane odd else s
  | none => unjudge s id 7

-- ------------------------------------------------------------------ the full model (R88-R91)

/-- The full model's result is CONFIRM (R89): the first verdict is final. -/
def confirmFull (s : State) (id : Nat) : State :=
  match getMsg s id with
  | none => s
  | some m =>
    if m.fullDone then s
    else
      let s := countMsg (modMsg s id fun m => { m with fullDone := true, finalCode := some (codeNow m) }) m 13 1
      let s := match m.unit with | some u => trimUnit s u | none => s
      tryComplete s id

/-- The follow-up or new reply of an AMEND (R91): a reply that is being composed counts as sent. A new reply carries AMENDED in its trailer like a
follow-up: its code is the final one (DESIGN CHOICE: the rule names the flag for follow-ups only; log entry 104). -/
def amendReply (s : State) (id : Nat) (k : Binding) (u : MUnit) (r : VerdictRec) : State :=
  match getMsg s id with
  | none => s
  | some m =>
    let t := if recCode r = 2 then templateOf u k.number (recTemplate r) else none
    let old := match m.reply with
      | some q => some q.template
      | none => (m.making.find? fun x => !x.followup).map (·.template)
    match old, t with
    | some o, _ =>
      makeReply s id { at_ := s.now, net := 0, template := t.getD o, fields := if recCode r = 2 then r.fields else [], code := recCode r,
                       amended := true, followup := true }
    | none, some t => startReply s id k t r true
    | none, none => s

/-- The mirroring of an AMEND to an entry (R91): the retained copy, all of it. -/
def amendMirror (s : State) (id : Nat) (r : VerdictRec) (e : TableEntry) : State :=
  match getMsg s id with
  | none => s
  | some m =>
    if recCode r ≠ 5 then s
    else if m.retained then
      mirrorMore (modMsg s id fun m =>
        { m with mirrorTo := some e, frames := m.frames.map fun f => { f with mirrored := false } }) id
    else modMsg s id fun m => { m with unretained := true }

/-- An AMEND that changes something (R91). A first reply that is still held for its checks then is not sent any more (DESIGN CHOICE; log
entry 88); a final STEER takes its target or waits for it (R61, R337). -/
def amendMsg (s : State) (id : Nat) (k : Binding) (u : MUnit) (r : VerdictRec) (e : TableEntry) : State :=
  match getMsg s id with
  | none => s
  | some m =>
    let s := countMsg (modMsg s id fun m =>
      { m with fullDone := true, amended := true, finalCode := some (recCode r), final := some r, finalEnt := e, heldAs := [],
               annotation := if recCode r = 3 then recAnnotation r else 0 }) m 14 1
    let s := amendMirror (amendReply s id k u r) id r e
    let s := match m.unit with | some u => trimUnit s u | none => s
    match getMsg s id with
    | some m => if steersFinally m && m.retained then steerOrHold s id m k else tryComplete s id
    | none => s

/-- Does an AMEND equal the first verdict: code, what the code names, and fields (R89)? -/
def sameVerdict (m : Message) (r : VerdictRec) : Bool :=
  match m.first with
  | some q => recCode q = recCode r && m.unjudged.isNone && q.fields = r.fields &&
      (match recCode r with
       | 1 => recSteer q = recSteer r
       | 2 => recTemplate q = recTemplate r
       | 3 => recAnnotation q = recAnnotation r
       | 5 => recMirror q = recMirror r
       | _ => true)
  | none => false

/-- The full model's result reaches the glaze unit (R88, R89, R91). An AMEND whose final entry R60 would reject is taken as CONFIRM, like a
record that R59 would reject (DESIGN CHOICE; log entry 88), and one for a message that is UNJUDGED likewise (DESIGN CHOICE; log entry 104). -/
def takeFull (s : State) (id : Nat) (m : Message) (k : Binding) (u : MUnit) (cut : Nat) : State :=
  match recordOf u m.lane 3 id cut with
  | none => confirmFull s id
  | some x =>
    let r := x.vr
    let e := recEntry s m k r cut
    let wrong := (recCode r = 1 && (badTarget s m.inst e || slotTooSmall m e)) || (recCode r = 5 && badTarget s m.inst e)
    if !recAmend r || recCode r = 6 || recBad s u m k x cut || wrong || sameVerdict m r || m.unjudged.isSome || m.dropped then
      confirmFull s id
    else amendMsg s id k u r e

end Sys2Proof.Machine
end

