-- ==== Sys2Proof/Machine/Wedge.lean ====
section
/-! DEFINITION. The wedge: binding match (R47-R50), the start of a window (R54, R160, R595), the tokens of an extractor (R51, R52,
R594) and their entry into the array (R161, R210, R211). -/

namespace Sys2Proof.Machine

open Sys2Proof

-- ------------------------------------------------------------------ match (R47-R49)

/-- A frame's fields that a binding compares, over its first 128 bytes (R48, R50). The queue pair number is that of a WGT message; of another frame on the
WGT UDP port it is what its caller gives: none of a raw-steered frame, which then matches no range, and the low 24 bits of its header's DST_QP of an
ACK, a NAK, a READ_REQ or a malformed frame (DESIGN CHOICE; log entry 103). -/
def bindingMatches (k : Binding) (p : Nat) (f : Bytes) (qp : Option Nat) : Bool :=
  let h := f.take 128
  bit k.ports p
  && (!bit k.matchFlags 0 || frameType h = k.ethertype)
  && (!bit k.matchFlags 1 || frameVid h = some k.vlan)
  && (!bit k.matchFlags 2 || udpDst h = some k.udpPort)
  && (!bit k.matchFlags 3 || match qp with | some n => k.qpLo ≤ n && n ≤ k.qpHi | none => false)

/-- A unit carries bindings that may be matched while it is BISQUE, FIRED or COOLING (DEDUCED; log entry 20). -/
def carries (inst : Nat) (u : MUnit) : Bool := u.owner = inst && u.kind = 0 && u.arm.isNone && u.st ≠ .green

/-- Are a unit's bindings in force for a message whose first byte is admitted now: from the FAB cycle after the one in which it became FIRED
(R190), up to the end of the one in which a SWAP is taken (R210)? An armature's unit has no binding in force (R269). -/
def inForce (s : State) (u : MUnit) : Bool :=
  u.arm.isNone && decide (u.firedAt / fabCycle < fabOf s)
  && (u.st = .fired || (u.st = .cooling && u.swap.isSome && u.coolingAt.any fun t => t / fabCycle = fabOf s))

/-- The units FIRED for each binding at this moment, by binding number (R49); one that has become RETIRED since makes its messages
DOMAIN_LOSS (R28, R64; log entry 20). -/
def firedNow (s : State) : List (Nat × Nat) :=
  s.units.flatMap fun u => if inForce s u.2 then u.2.bindings.map fun (k : Binding) => (k.number, u.1) else []

/-- The bindings of an instance with the unit FIRED for each when the first byte came, which may be gone since; the parameters are that
unit's, else the lowest unit's. A unit that is being scrubbed carries no binding for later messages. -/
def candidates (s : State) (inst : Nat) (fired : List (Nat × Nat)) (kept : List (Nat × Nat × Binding)) : List (Option Nat × Binding) :=
  let all := (s.units.flatMap fun u =>
      if carries inst u.2 && (u.2.scrub.isNone || fired.any fun x => x.2 = u.1) then u.2.bindings.map fun (k : Binding) => (u.1, k) else [])
    ++ (kept.filter fun x => x.1 = inst).map (·.2)
  ((all.map fun x => x.2.number).dedup).filterMap fun n =>
    let at_ := all.filter fun x => x.2.number = n
    match at_.find? fun x => fired.contains (n, x.1) with
    | some x => some (some x.1, x.2)
    | none => at_.head?.map fun x => (none, x.2)

def before (a b : Option Nat × Binding) : Bool :=
  a.2.priority < b.2.priority || (a.2.priority = b.2.priority && a.2.number ≤ b.2.number)

/-- The binding that takes a message (R48). -/
def matchBinding (s : State) (inst p : Nat) (rx : RxFrame) (qp : Option Nat) : Option (Option Nat × Binding) :=
  ((candidates s inst rx.fired rx.kept).filter fun c => bindingMatches c.2 p rx.data qp).foldl (fun best c =>
    match best with | some b => if before b c then best else some c | none => some c) none

-- ------------------------------------------------------------------ tokens (R51, R594)

/-- One token of an extractor program: channel, kind, payload, and when it is ready, if that is known. -/
structure ProgTok where
  chan : Nat
  kind : TokKind
  payload : DWord
  ready : Option Nat
  deriving DecidableEq, Repr

/-- When a token that reads stream bytes up to b is ready: their arrival, or the window end for a byte at or beyond L (R594). -/
def readReady (m : Message) (w b : Nat) : Option Nat :=
  if (m.total.map fun l => decide (l ≤ b)) = some true then prefixEnd m w else arrivedAt m b

/-- The number in a field, network byte order or little-endian (R235). -/
def fieldValue (m : Message) (k : ExtStep) : Nat :=
  if k.arg = 0 then be (streamBytes m k.offset k.length) 0 k.length else le (streamBytes m k.offset k.length) 0 k.length

/-- META tokens (R51). -/
def metaValue (m : Message) (sel : Nat) : Nat :=
  match sel with
  | 0 => m.port
  | 1 => m.vlanTci
  | 2 => m.dstQp % 2 ^ 24
  | _ => m.stamp / 65536 % 2 ^ 64

/-- The first frame of a message. -/
def firstSeg (m : Message) : Option Segment := m.segs.find? fun (g : Segment) => g.offset = 0

/-- The classification point of a message's first frame (R362), when a META token is ready (R594). -/
def metaReady (m : Message) : Option Nat := (firstSeg m).map fun (g : Segment) => g.t0 + min 128 (g.data.length + 4) * g.perByte

/-- Tokens of one step; prev is the ready time of the step before it (R594). -/
def stepToks (m : Message) (w : Nat) (prev : Option Nat) (k : ExtStep) : List ProgTok :=
  let tok := fun (kind : TokKind) (v : Nat) (r : Option Nat) => { chan := k.chan, kind := kind, payload := dw v, ready := r : ProgTok }
  match k.step with
  | 1 => [tok .data (fieldValue m k) (readReady m w (k.offset + k.length - 1))]
  | 2 => (List.range (ceilDiv k.length 8)).map fun i =>
      let o := k.offset + 8 * i
      let n := min 8 (k.length - 8 * i)
      tok .data (le (streamBytes m o n) 0 n) (readReady m w (o + n - 1))
  | 3 => [tok .data (crc32c (streamBytes m k.offset k.length)).toNat (readReady m w (k.offset + k.length - 1))]
  | 4 => [tok .data (min (streamLen m) w) (prefixEnd m w)]
  | 5 => [tok .data (metaValue m k.arg) (metaReady m)]
  | _ => [tok .mark (k.arg % 16) prev]

/-- Every token of an extractor program over a window of w bytes, in order, with the closing MARKs (R51). -/
def programToks (m : Message) (w : Nat) (steps : List ExtStep) : List ProgTok :=
  let go := steps.foldl (fun (acc : List ProgTok × Option Nat) k =>
    let ts := stepToks m w acc.2 k
    (acc.1 ++ ts, (ts.getLast?.map (·.ready)).getD acc.2)) ([], arrivedAt m 0)
  go.1 ++ (extChannels steps).map fun c => { chan := c, kind := .mark, payload := 0, ready := prefixEnd m w }

/-- Tokens a program emits in all, closing MARKs too (R160). -/
def programCount (steps : List ExtStep) : Nat :=
  (steps.map fun (k : ExtStep) => if k.step = 6 then 1 else stepTokens k).sum + (extChannels steps).length

def stepsOf (u : MUnit) (id : Nat) : List ExtStep := tgetD u.extractors id []

/-- The walk over a program's tokens: how many of each channel were seen, the channels that wait, and the tokens to emit. -/
structure EmitScan where
  seen : Table Nat := []
  waits : List Nat := []
  out : List ProgTok := []
  deriving DecidableEq, Repr

def emitScan (now : Nat) (emitted : Table Nat) (a : EmitScan) (t : ProgTok) : EmitScan :=
  let n := tgetD a.seen t.chan 0
  let a := { a with seen := tset a.seen t.chan (n + 1) }
  if n < tgetD emitted t.chan 0 || a.waits.contains t.chan then a
  else if t.ready.any fun r => decide (r ≤ now) then { a with out := a.out ++ [t] }
  else { a with waits := t.chan :: a.waits }

/-- Tokens of a program that are ready by now and not emitted yet: each channel in order, in list order (R51, R594). -/
def readyPart (now : Nat) (emitted : Table Nat) (ts : List ProgTok) : List ProgTok := (ts.foldl (emitScan now emitted) {}).out

/-- The counts of emitted tokens with some more. -/
def countToks (emitted : Table Nat) (ts : List ProgTok) : Table Nat := ts.foldl (fun e t => tmodD e t.chan 0 (· + 1)) emitted

def maskOf (cs : List Nat) : Nat := (cs.map fun c => 2 ^ c).sum

/-- The wedge emits the tokens of a started window that are ready (R51), for the maquette's copies and for the full model. -/
def emitTokens (s : State) (id : Nat) : State :=
  match getMsg s id with
  | none => s
  | some m =>
    match m.binding, m.unit.bind (getUnit s) with
    | some k, some u =>
      if m.started then
        let shelf := u.shelves.headD 0
        let make := fun (mask : Nat) (t : ProgTok) =>
          ((t.ready.getD 0), mask, ({ payload := t.payload, kind := t.kind, chan := t.chan, shelf := shelf } : Token))
        let a := readyPart s.now m.emitted (programToks m k.w (stepsOf u k.extractor))
        let b := if u.full && !m.fullDone then
            readyPart s.now m.fullEmitted (programToks m k.extent (stepsOf u k.fullExtractor)) else []
        modMsg s id fun m =>
          { m with toks := m.toks ++ a.map (make (maskOf (copiesOf u m))) ++ b.map (make 8),
                   copies := if a = [] then m.copies else copiesOf u m,
                   nextStep := m.nextStep + a.length, fullNext := m.fullNext + b.length,
                   emitted := countToks m.emitted a, fullEmitted := countToks m.fullEmitted b }
      else s
    | _, _ => s

-- ------------------------------------------------------------------ starting a window (R54, R160, R595)

/-- Entry-buffer room a message's window still takes (R160): tokens not emitted yet, and emitted ones some copy still lacks. -/
def roomOf (m : Message) : Nat :=
  if m.started then (m.roomed - m.nextStep) + m.toks.countP (fun t => t.2.1 % 8 ≠ 0 && !m.guardRetry) else 0

def laneRoom (s : State) (u lane : Nat) : Nat :=
  (((tvals s.msgs).filter fun m => m.unit = some u && m.lane = lane).map roomOf).sum

/-- A matched message's window: NO_SHELF, DOMAIN_LOSS, SQUASHED, WEDGE_FULL or CAPACITY, or the next lane and room in its buffer. A message whose
window is not started runs no full model either, and no CONFIRM is counted for it (DESIGN CHOICE: R89 does not name the case; log entry 106). -/
def startWindow (s : State) (id : Nat) (unit : Option Nat) (k : Binding) : State :=
  match unit, unit.bind (getUnit s) with
  | some ui, some u =>
    match getMsg s id with
    | none => s
    | some m =>
      if 512 ≤ contextsHeld s m.port (((firstSeg m).map (·.t0)).getD s.now) then unjudge s id 2
      else
        let s := modMsg s id fun m => { m with holdsContext := true, unit := some ui, f := u.firing + k.slip, fullLat := u.fullLat }
        if u.retired then unjudge s id 6
        else if u.scrub.isSome then unjudge s id 5
        else
          let lane := tgetD u.nextLane k.number 0
          let n := programCount (stepsOf u k.extractor)
          if 1024 < laneRoom s ui lane + n then unjudge s id 1
          else
            let s := modUnit s ui fun u => { u with nextLane := tset u.nextLane k.number ((lane + 1) % max 1 u.lanes) }
            modMsg s id fun m => { m with lane := lane, started := true, roomed := n, fullDone := !u.full }
  | some _, none => unjudge s id 5
  | none, _ => unjudge s id 4

/-- A message is matched on its first frame (R48, R49): counted, and its window started. -/
def bindMsg (s : State) (id : Nat) (rx : RxFrame) (qp : Option Nat) : State :=
  match getMsg s id with
  | none => s
  | some m =>
    match matchBinding s m.inst m.port rx qp with
    | none => s
    | some (u, k) =>
      let s := modMsg s id fun m => { m with binding := some k, retained := 0 < k.retain }
      let s := countBinding s m.inst k.number 0 1
      checkRetain (startWindow s id u k) id

-- ------------------------------------------------------------------ entry (R161, R62, R210, R211)

/-- Nominal entry of a window: the core cycle of its end and the 3 ns of transfer (R62, R161). -/
def nominalEntry (m : Message) : Option Nat := (windowEnd m).map fun t => (t + 3 * nsec) / coreCycle

/-- The cycle before which no window of a unit may enter (R210): none while S is not known. -/
def swapGate (u : MUnit) : Option Nat :=
  if u.waitSwap then (u.gateUntil.map fun l => l.foldl max 0) else some 0

/-- Earlier windows of the same lane. -/
def earlier (s : State) (id : Nat) (m : Message) : List (Nat × Message) :=
  s.msgs.filter fun x => x.1 < id && x.2.unit = m.unit && x.2.lane = m.lane && x.2.started

/-- A window has waited until a cycle for its lane, or for S: beyond SLIP its message is UNJUDGED with cause CAPACITY (R62), counted where
S made it wait (R210). -/
def slipUntil (s : State) (id : Nat) (m : Message) (u : MUnit) (n c : Nat) : State :=
  if n + (m.binding.map (·.slip)).getD 0 < c ∧ m.acted = false then
    let bySwap := match swapGate u with | some g => decide (max n (tgetD u.laneFree m.lane 0) < g) | none => true
    unjudge (if bySwap then regOr (regAdd s shfSwapUnjudged 1) shfEvent 2 else s) id 1
  else s

/-- The cycle in which a window takes its lane (R62, R210): nominal entry, but not before the lane is free nor before S; none while an
earlier window of the lane has not taken it or S is not known. -/
def laneCycle (s : State) (id : Nat) (m : Message) (u : MUnit) (n : Nat) : Option Nat :=
  if (earlier s id m).all fun x => x.2.tookLane.isSome then (swapGate u).map fun g => max (max n (tgetD u.laneFree m.lane 0)) g else none

/-- A window takes its lane; one that has waited beyond SLIP still enters. -/
def takeLane (s : State) (id : Nat) : State :=
  match getMsg s id with
  | none => s
  | some m =>
    match m.unit, m.unit.bind (getUnit s), nominalEntry m with
    | some ui, some u, some n =>
      if m.started && m.tookLane.isNone && n ≤ cycleOf s then
        match (laneCycle s id m u n).filter fun t => decide (t ≤ cycleOf s) with
        | some t =>
          let s := slipUntil s id m u n t
          modMsg (modUnit s ui fun u => { u with laneFree := tset u.laneFree m.lane (t + u.ii) }) id fun m => { m with tookLane := some t }
        | none => slipUntil s id m u n (cycleOf s)
      else s
    | _, _, _ => s

/-- How long a window's tokens are put off by its wait (R62). -/
def waitOf (m : Message) (u : MUnit) : Nat :=
  match nominalEntry m with
  | some n => (match m.tookLane with
      | some t => t - n
      | none => max (tgetD u.laneFree m.lane 0) ((swapGate u).getD 0) - n) * coreCycle
  | none => 0

/-- May a token enter now: after its 3 ns of transfer and its window's wait, and not before S (R161, R210); a replayed token when the
replay starts. -/
def mayEnter (s : State) (m : Message) (u : MUnit) (copy ready : Nat) : Bool :=
  if copy = 2 && m.guardRetry then ready ≤ s.now
  else
    (ready + 3 * nsec + waitOf m u) / coreCycle ≤ cycleOf s
    && match swapGate u with | some g => g ≤ cycleOf s | none => false

/-- The entry link of a lane, copy and channel (R224). -/
def entryLink (u : MUnit) (lane copy chan : Nat) : Option IoLink :=
  u.io.find? fun i => i.dir = 0 && i.lane = lane && i.copy = copy && i.chan = chan

/-- The channels on which a window's program has tokens that are not emitted yet. -/
def openChans (u : MUnit) (m : Message) : List Nat :=
  match m.binding with
  | some k =>
    if m.nextStep < m.roomed then
      let ts := programToks m k.w (stepsOf u k.extractor)
      (extChannels (stepsOf u k.extractor)).filter fun c => tgetD m.emitted c 0 < ts.countP fun t => t.chan = c
    else []
  | none => []

/-- Copies and channels that earlier windows of the lane have still to feed. -/
def blockedBy (s : State) (id : Nat) (m : Message) (u : MUnit) : List (Nat × Nat) :=
  (earlier s id m).flatMap fun x =>
    (x.2.toks.flatMap fun t => ((List.range 4).filter fun c => bit t.2.1 c).map fun c => (c, t.2.2.chan))
    ++ (openChans u x.2).flatMap fun h => (List.range 3).map fun c => (c, h)

/-- Streamed weights that a window's last token asks for: DUE cycles after it, from HBM to SRAM (R229; log entry 21). -/
def streamWindow (s : State) (u : MUnit) (c : Nat) : State :=
  match u.extent with
  | none => s
  | some (region, off, _) =>
    u.streamPlan.foldl (fun s (p : StreamCopy) =>
      let base := ((u.configs.find? fun g => clusterOf g.core = p.cluster && g.shelfRel = p.shelfRel).map (·.clBase)).getD 0
      let data := (List.range p.length).map fun i => tgetD s.hbm (region * 2 ^ 37 + off + p.hbmOff + i) 0#8
      { s with clPend := insAccess { at_ := c + p.due, k := 16, cluster := clusterSpace (colShifted u p.cluster) p.cluster, addr := base + p.sramOff, data := data } s.clPend }) s

/-- One token enters for one copy: at most two on a link in a cycle, while the entry core's queue has credit (R159, R161). -/
def enterOne (s : State) (t : Token) (l : IoLink) : Option State :=
  let c := cycleOf s
  let used := ((List.range 4).map fun k => ((getQ s l.core l.side k).inflight.filter (·.1 = c + 1)).length).sum
  if used < 2 ∧ 0 < queueCredit (settleQ c (getQ s l.core l.side t.shelf)) c then
    some (modQ s l.core l.side t.shelf fun q => { q with inflight := insDue (c + 1) t q.inflight })
  else none

/-- The full model is not started: its result is CONFIRM (R89, R211). -/
def skipFull (s : State) (id : Nat) : State :=
  let s := modMsg s id fun m => { m with toks := m.toks.filter fun t => t.2.1 ≠ 8 }
  confirmFull s id

/-- A window's tokens enter in this core cycle, each channel in order, earlier windows of the lane first (R161). -/
def enterTokens (s : State) (id : Nat) : State :=
  match getMsg s id with
  | none => s
  | some m =>
    match m.unit, m.unit.bind (getUnit s) with
    | some ui, some u =>
      let c := cycleOf s
      let step := fun (acc : State × List (Nat × Nat) × List (Nat × Nat × Token)) (t : Nat × Nat × Token) =>
        let go := ((List.range 4).filter fun k => bit t.2.1 k).foldl (fun (a : State × List (Nat × Nat) × Nat) k =>
          if a.2.1.contains (k, t.2.2.chan) then a
          else
            match mayEnter a.1 m u k t.1, entryLink u m.lane k t.2.2.chan with
            | true, some l =>
              (match enterOne a.1 t.2.2 l with
               | some s =>
                 let key := laneKey m.lane k
                 let s := modUnit s ui fun u =>
                   let aw := tgetD u.awaits key []
                   { u with awaits := if aw.contains id then u.awaits else tset u.awaits key (aw ++ [id]) }
                 (s, a.2.1, a.2.2 - 2 ^ k)
               | none => (a.1, (k, t.2.2.chan) :: a.2.1, a.2.2))
            | _, _ => (a.1, (k, t.2.2.chan) :: a.2.1, a.2.2)) (acc.1, acc.2.1, t.2.1)
        (go.1, go.2.1, acc.2.2 ++ [(t.1, go.2.2, t.2.2)])
      let r := m.toks.foldl step (s, blockedBy s id m u, [])
      let s := modMsg r.1 id fun m => { m with toks := r.2.2 }
      let entered := m.nextStep = m.roomed && r.2.2.all fun t => t.2.1 % 8 = 0
      let moved := r.2.2.map (·.2.1) ≠ m.toks.map (·.2.1)
      let s := if moved then modUnit s ui fun u => { u with lastEntry := tset u.lastEntry m.lane c } else s
      if entered ∧ m.entered = false ∧ m.started = true then
        streamWindow (modMsg s id fun m => { m with entered := true, entryAt := some c }) u c
      else s
    | _, _ => s

/-- Has the full model's window of a message tokens that have still to enter? -/
def fullEntering (u : MUnit) (m : Message) : Bool :=
  u.full && !m.fullDone && (m.toks.any (fun t => bit t.2.1 3)
    || match m.binding with | some k => decide (m.fullNext < programCount (stepsOf u k.fullExtractor)) | none => false)

/-- U of a cluster: the least among its profile entries. -/
def profileU (new : MUnit) (c : Nat) : Nat :=
  match (new.profile.filter (·.cluster = c)).map (·.u) with | [] => 0 | x :: t => t.foldl min x

/-- Would a full model's window on a lane that starts in a cycle reach a cluster that its unit shares with the unit it replaces before that cluster's
switch at S + U (R210, R211)? The cluster holds a token of the window its own U cycles after it enters (R209). -/
def reachesOld (s : State) (ui : Nat) (u : MUnit) (lane c gate : Nat) : Bool :=
  (tvals s.units).any fun o => (o.swap.map (·.newUnit)) = some ui &&
    (u.profile.filter fun p => p.copy = 3 && p.lane = lane && o.clusters.contains p.cluster).any fun p =>
      c + p.u < gate + profileU u p.cluster

/-- When a message's full model would start: the cycle after the transfer of its first token, while none has entered. -/
def fullStart (m : Message) : Option Nat :=
  if m.toks.countP (fun t => t.2.1 = 8) = m.fullNext then
    (m.toks.find? fun t => t.2.1 = 8).map fun t => (t.1 + 3 * nsec) / coreCycle
  else none

/-- The full model of a window that would reach a shared cluster before its switch is not started (R211); while S is not known it waits for it
(R210). -/
def checkFullStart (s : State) (id : Nat) : State :=
  match getMsg s id with
  | none => s
  | some m =>
    match m.unit, m.unit.bind (getUnit s) with
    | some ui, some u =>
      match u.waitSwap, swapGate u, fullStart m with
      | true, some g, some c => if u.full && !m.fullDone && c ≤ cycleOf s && reachesOld s ui u m.lane c g then skipFull s id else s
      | _, _, _ => s
    | _, _ => s

/-- One core cycle of a window's entry. -/
def enterWindow (s : State) (id : Nat) : State := enterTokens (takeLane (checkFullStart s id) id) id

/-- A closing MARK has not entered by 8 cycles after the window took its lane (R161). -/
def lateEntry (s : State) (m : Message) : Bool :=
  match m.tookLane with
  | some t => m.started && !m.entered && t + 8 < cycleOf s
  | none => false

end Sys2Proof.Machine
end

