-- ==== Sys2Proof/Machine/Gen.lean ====
section
/-! DEFINITION. Generation units' shared operations (R239-R266): services and their counters, RESULT messages (R245-R248), slots and
their KV (R244, R256), turns and rounds (R250-R253), the tokens of a turn (R260). -/

namespace Sys2Proof.Machine

open Sys2Proof

def serviceKey (inst n : Nat) : Nat := inst * 16 + n

/-- The service of a generation unit. -/
def serviceOf (u : MUnit) : Nat := serviceKey u.owner ((u.gen.map (·.service)).getD 0)

/-- Service counters (R266), numbered by offset / 8; 64 bits, wrapping. -/
def countService (s : State) (k c n : Nat) : State :=
  { s with services := tmodD s.services k {} fun v => { v with counters := tmodD v.counters c 0 fun x => (x + n) % 2 ^ 64 } }

def setService (s : State) (k c n : Nat) : State :=
  { s with services := tmodD s.services k {} fun v => { v with counters := tset v.counters c (n % 2 ^ 64) } }

def subService (s : State) (k c n : Nat) : State :=
  { s with services := tmodD s.services k {} fun v => { v with counters := tmodD v.counters c 0 fun x => x - n } }

-- ------------------------------------------------------------------ sequence messages (R245, R246)

/-- A sequence header as received. -/
structure SeqHdr where
  magic : Nat
  version : Nat
  op : Nat
  handle : Nat
  count : Nat
  reqId : Nat
  keep : Nat
  seed : Nat
  temp : Nat
  status : Nat
  flags : Nat
  nin : Nat
  reserved : Nat
  deriving DecidableEq, Repr

def parseSeq (d : Bytes) : SeqHdr :=
  { magic := be d 0 2, version := byteAt d 2, op := byteAt d 3, handle := be d 4 2, count := be d 6 2, reqId := be d 8 4,
    keep := be d 12 4, seed := be d 16 8, temp := be d 24 2, status := byteAt d 26, flags := byteAt d 27, nin := byteAt d 28,
    reserved := be d 29 3 }

/-- Token ids of a payload. -/
def seqTokens (d : Bytes) (n : Nat) : List Nat := (List.range n).map fun i => be d (32 + 4 * i) 4

/-- A RESULT (R245, R246): records are token id and probability. -/
def resultBytes (handle reqId keep status : Nat) (final : Bool) (recs : List DWord) : Bytes :=
  recordBe 32 [(0, 2, 0x6C53), (2, 1, 1), (3, 1, 0x80), (4, 2, handle), (6, 2, recs.length), (8, 4, reqId), (12, 4, keep),
    (26, 1, status), (27, 1, if final then 2 else 0)]
  ++ recs.flatMap fun r => toBe 4 (r.toNat % 2 ^ 32) ++ toBe 4 (r.toNat / 2 ^ 32)

/-- A RESULT is handed to the transport as a SEND of its queue pair (R248). -/
def sendResult (s : State) (qp : Nat) (data : Bytes) : State :=
  modQp s qp fun q =>
    if q.st = .rts then
      beginSend q { index := 0, wrId := 0, opcode := 1, flags := 0, own := true, length := data.length, localAddr := 0, lkey := 0, remoteAddr := 0,
                    rkey := 0, payload := data }
    else q

/-- A RESULT of a unit, of a pending request of a slot or of none, 500 ns from a time (R248). -/
def queueResult (s : State) (ui qp at_ : Nat) (slot : Option Nat) (data : Bytes) : State :=
  { s with results := s.results ++ [(ui, { at_ := at_ + 500 * nsec, qp := qp, slot := slot, data := data })] }

-- ------------------------------------------------------------------ slots

def handleOf (ui slot : Nat) : Nat := ui * 64 + slot

def getSlot (u : MUnit) (k : Nat) : GenSlot := tgetD u.slots k {}
def modSlot (s : State) (ui k : Nat) (f : GenSlot → GenSlot) : State :=
  modUnit s ui fun u => { u with slots := tmodD u.slots k {} f }

/-- Open slots of a unit. -/
def openSlots (u : MUnit) : List (Nat × GenSlot) := u.slots.filter (·.2.opened)

/-- HBM bytes of one slot's spilled positions (R256): where they start among the regions' bytes, and how many they are. -/
def spillRange (u : MUnit) (g : GenParams) (k : Nat) : Nat × Nat :=
  match u.extent with
  | some (region, off, _) =>
    let n := (g.maxCtx - g.onCtx) * g.kvBytes
    (region * 2 ^ 37 + off + k * n, n)
  | none => (0, 0)

/-- Drops exit tokens of turns that have completed. -/
def trimTurns : Nat → MUnit → MUnit
  | 0, u => u
  | f + 1, u =>
    match tgetD u.awaits 0 [], tgetD u.exits 0 [] with
    | a :: as, _ :: xs => if 64 ≤ a then trimTurns f { u with awaits := tset u.awaits 0 as, exits := tset u.exits 0 xs } else u
    | _, _ => u

/-- A turn's exit token is spent: its place is marked and what can be dropped is. -/
def spendTurn (u : MUnit) (k : Nat) : MUnit :=
  let aw := tgetD u.awaits 0 []
  let i := (aw.findIdx? (· = k)).getD aw.length
  trimTurns (aw.length + 1) { u with awaits := tset u.awaits 0 ((aw.take i) ++ (aw[i]?.map (· + 64)).toList ++ aw.drop (i + 1)) }

/-- Is a byte of core SRAM in a unit's partitions? -/
def ownsCoreByte (u : MUnit) (key : Nat) : Bool :=
  u.configs.any fun g =>
    let a := coreSpace (colShifted u (clusterOf g.core)) g.core * 2 ^ 16 + g.csBase
    a ≤ key && key < a + g.csSize

/-- Is a byte of cluster SRAM in a unit's partitions? -/
def ownsClusterByte (u : MUnit) (key : Nat) : Bool :=
  u.configs.any fun g =>
    let a := clusterSpace (colShifted u (clusterOf g.core)) (clusterOf g.core) * 2 ^ 20 + g.clBase
    a ≤ key && key < a + g.clSize

/-- Scrubs a slot's KV, on chip and in HBM (R247, R256); which SRAM bytes of the unit hold it is open (log entry 74). -/
def scrubKv (s : State) (u : MUnit) (k : Nat) : State :=
  let r := (u.gen.map fun g => spillRange u g k).getD (0, 0)
  let held := fun (space : Nat) (key : Nat) => Config.kvSlot u.modelId space key = some k
  { s with hbm := s.hbm.filter fun x => !(r.1 ≤ x.1 && x.1 < r.1 + r.2),
           csram := s.csram.filter fun x => !(ownsCoreByte u x.1 && held 0 x.1),
           clsram := s.clsram.filter fun x => !(ownsClusterByte u x.1 && held 1 x.1) }

/-- The KV of a slot's positions from one on is stored as its tokens are ingested: those beyond ON_CTX lie in the HBM region (R256). -/
def storeKv (s : State) (u : MUnit) (g : GenParams) (k base : Nat) (hist : List Nat) : State :=
  match u.extent with
  | none => s
  | some _ =>
    let at_ := (spillRange u g k).1
    { s with hbm := (List.range hist.length).foldl (fun t p =>
        if p < base || p < g.onCtx then t
        else (List.range g.kvBytes).foldl (fun t i =>
          tsetD t (at_ + (p - g.onCtx) * g.kvBytes + i) 0#8 (Config.kvByte u.modelId (hist.take (p + 1)) i)) t) s.hbm }

/-- Closes a slot: FREE, its KV scrubbed (R247); the detaches that wait for it count it (R242). -/
def closeSlot (s : State) (ui k : Nat) : State :=
  match getUnit s ui with
  | none => s
  | some u =>
    let l := getSlot u k
    let s := scrubKv s u k
    let s := if l.opened then subService s (serviceOf u) 12 1 else s
    let s := modQp s l.qp fun q => { q with detach := q.detach.map fun x => if l.detachers.contains x.1 then (x.1, x.2 + 1) else x }
    modUnit s ui fun u =>
      let u := if l.turn.any (·.sampling) then spendTurn u k else u
      { u with slots := tdel u.slots k }

/-- The RESULT that ends a pending request: status, L as it stands, and the tokens drafted that no RESULT has carried. -/
def endRequest (s : State) (ui k st : Nat) : State :=
  match getUnit s ui with
  | none => s
  | some u =>
    let l := getSlot u k
    match l.req with
    | none => s
    | some r =>
      let s := queueResult s ui l.qp s.now none
        (resultBytes (handleOf ui k) r.reqId l.len st true (if r.stream then [] else r.drafted))
      modSlot s ui k fun l => { l with req := none }

/-- Every slot of a unit closes, each pending request answered with a status (R265, R512). -/
def closeAllSlots (s : State) (ui st : Nat) : State :=
  match getUnit s ui with
  | none => s
  | some u =>
    (openSlots u).foldl (fun s l =>
      let s := if l.2.req.isSome ∧ st = stSquashed then countService s (serviceOf u) 9 1 else s
      closeSlot (endRequest s ui l.1 st) ui l.1) s

/-- Every slot of a queue pair is to close at its unit's next round start (R242, R265). -/
def markClosing (s : State) (qi : Nat) : State :=
  { s with units := s.units.map fun u => (u.1, { u.2 with slots := u.2.slots.map fun l =>
      if l.2.opened && l.2.qp = qi then (l.1, { l.2 with closing := true }) else l }) }

/-- The open slots of a queue pair hold up its detach (R242). -/
def detachSlots (s : State) (qi id : Nat) : State :=
  { s with units := s.units.map fun u => (u.1, { u.2 with slots := u.2.slots.map fun l =>
      if l.2.opened && l.2.qp = qi then (l.1, { l.2 with detachers := l.2.detachers ++ [id] }) else l }) }

/-- Does a slot hold up a detach of a queue pair? -/
def slotAwaits (s : State) (qi id : Nat) : Bool :=
  (tvals s.units).any fun u => (openSlots u).any fun l => l.2.qp = qi && l.2.detachers.contains id

/-- Does a QP hold a slot of any unit? -/
def qpHoldsSlot (s : State) (qp : Nat) : Bool := (tvals s.units).any fun u => (openSlots u).any fun l => l.2.qp = qp

-- ------------------------------------------------------------------ turns (R250-R253, R260)

/-- Λ(c, n) (R252). -/
def lambda (u : MUnit) (g : GenParams) (c n : Nat) : Nat :=
  g.latBase + (n - 1) * u.ii + g.ctxCost * min c g.onCtx + g.spillCost * (c - g.onCtx)

/-- Do rounds of a unit come: it is FIRED, or COOLING with open slots to serve (R264; DEDUCED for a COOL, log entry 98)? -/
def roundsRun (u : MUnit) : Bool := u.kind = 1 && !u.retired && (u.st = .fired || (u.st = .cooling && !(openSlots u).isEmpty))

/-- A round is due: it is the first, or R cycles have passed since the last one started (R250; log entry 26). -/
def roundDue (s : State) (u : MUnit) : Bool :=
  roundsRun u && match u.roundStart with | some c => c + u.roundLen ≤ cycleOf s | none => true

/-- The turn a slot gets at a round start (R251), its turn in progress taken as done: tokens left to ingest, or the draft token before,
or an idle turn. -/
def planTurn (u : MUnit) (g : GenParams) (start k : Nat) (l : GenSlot) : GenTurn :=
  let t0 := start + k * u.firing
  let base := match l.turn with | some t => t.base + t.tokens.length | none => l.len
  let drafted := fun (r : GenReq) => r.drafted.length + b2n (l.turn.any (·.sampling))
  let make := fun (ts : List Nat) (sample feed : Bool) =>
    { start := t0, tokens := ts, sampling := sample, base := base, done := t0 + lambda u g (base + ts.length) ts.length, feed := feed : GenTurn }
  let idle : GenTurn := { start := t0, tokens := [], sampling := false, base := base, done := t0 + g.latBase }
  match l.req with
  | none => idle
  | some r =>
    if r.toIngest ≠ [] then
      let n := min g.ingestMax r.toIngest.length
      make (r.toIngest.take n) (r.op = 3 && n = r.toIngest.length) false
    else if r.op = 3 && drafted r < r.count then make [0] true true
    else idle

/-- R (R253), from the largest KV length after a working turn. -/
def roundPeriod (u : MUnit) (g : GenParams) (cmax : Nat) : Nat × Nat :=
  let floor := g.slots * u.firing
  if cmax = 0 then (floor, 0)
  else
    let c := min g.maxCtx (64 * ceilDiv cmax 64)
    (max floor (lambda u g c g.ingestMax), c)

/-- The random bits of a sampling turn (R260). -/
def turnSeed (l : GenSlot) (pos : Nat) : Nat := be (sha256 (toBe 8 l.seed.toNat ++ toBe 4 pos)) 0 8 % 2 ^ 48

/-- The tokens of a turn on entry channels 0 and 1, with the cycle after the turn start in which each is placed (R260). -/
def turnTokens (u : MUnit) (k : Nat) (l : GenSlot) (t : GenTurn) : List (Nat × Nat × TokKind × Nat) :=
  let n := t.tokens.length
  if n = 0 then [(0, 0, .void, 0), (0, 1, .void, 0)]
  else
    (List.range n).map (fun i =>
      (i * u.ii, 0, .data, t.tokens.getD i 0 + (t.base + i) * 2 ^ 32 + k * 2 ^ 43 + b2n (i + 1 = n) * 2 ^ 49 + b2n t.sampling * 2 ^ 50))
    ++ [((n - 1) * u.ii, 1, if t.sampling then .data else .void,
         if t.sampling then l.temp.toNat * 2 ^ 48 + turnSeed l (t.base + n - 1) else 0)]

/-- The IOD places a turn's tokens on the unit's entry links. -/
def placeTurn (s : State) (u : MUnit) (k : Nat) (l : GenSlot) (t : GenTurn) : State :=
  let c := cycleOf s
  (turnTokens u k l t).foldl (fun s x =>
    match entryLink u 0 0 x.2.1 with
    | some e =>
      let tok : Token := { payload := dw x.2.2.2, kind := x.2.2.1, chan := x.2.1, shelf := u.shelves.headD 0 }
      modQ s e.core e.side tok.shelf fun q => { q with inflight := insDue (c + x.1 + 1) tok q.inflight }
    | none => s) s

/-- The exit token of a slot's turn, if it has reached the IOD by a time (R260, R261). -/
def turnExit (u : MUnit) (k cut : Nat) : Option Token :=
  match (tgetD u.awaits 0 []).findIdx? (· = k) with
  | none => none
  | some i => ((tgetD u.exits 0 [])[i]?).bind fun x => if x.1 + 4 * nsec ≤ cut then some x.2 else none

end Sys2Proof.Machine
end

