-- ==== Sys2Proof/Machine/MessagePath.lean ====
section
/-! DEFINITION. The message path's commands: receive admission and classification (R359-R370, R389), message start (R42, R48), the
wedge's and the glaze unit's steps (R51-R91), each as spec/opcode_table.json names them. -/

namespace Sys2Proof.Machine

open Sys2Proof

-- ------------------------------------------------------------------ admission (R360, R361)

def maxFrame (s : State) (p : Nat) : Nat := regBits s (macMaxFrame p) 13 0

/-- Does a port receive: it exists, it is READY (R541), its link is up, it is enabled (log entry 24)? -/
def portReceives (s : State) (p : Nat) : Bool := portExists s p && portReady s p && (getPort s p).linkUp && regBit s (macCtrl p) 0

/-- A frame's reservation: the receive buffer, else the port's standing reserve (R360). One that finds neither is refused at its classification
point unless it is a bundle, for which the armature reserved its own room (R296; DEDUCED, log entry 60). -/
def admitFrame (s : State) (p : Nat) (f : RxFrame) : State :=
  let n := maxFrame s p
  let f := { f with room := n }
  if s.rxBufUsed + n ≤ rxBufBytes then modPort (takeBuf s n) p fun q => { q with rx := some f }
  else if (getPort s p).standingUsed then modPort s p fun q => { q with rx := some { f with room := 0, noRoom := true } }
  else modPort s p fun q => { q with standingUsed := true, rx := some { f with inBuffer := false } }

/-- A frame's bytes leave the receive buffer or the standing reserve. -/
def releaseFrame (s : State) (p : Nat) (f : RxFrame) (n : Nat) : State :=
  if f.inBuffer then freeBuf s n else modPort s p fun q => { q with standingUsed := false }

/-- A frame that was kept for its consumer leaves what it was kept in: what it holds of the receive buffer or the standing reserve, and of its class
(R360, R364); a bundle holds nothing (R296). -/
def freeKept (s : State) (p : Nat) (f : RxFrame) : State :=
  if f.dest = some .armature then s else subOcc (releaseFrame s p f f.room) p f.cls f.occ

/-- A frame starts (R359, R360): timestamped and admitted. Its FCS is checked over its bytes (R367); corrected tells whether the PCS could correct
every codeword of it (R358). -/
def startFrame (s : State) (p : Nat) (frame : Bytes) (fcs : BitVec 32) (corrected : Bool) (err : Int) : State :=
  let (t, s) := rxStamp s p err
  admitFrame s p { data := frame, fcs := fcs, fcsOk := fcs = frameFcs frame && corrected, capture := t, t0 := s.now,
                   perByte := portByteTime s p, fired := firedNow s }

/-- The codewords of a frame are counted (R358; log entry 84). -/
def countFec (s : State) (p : Nat) (l : LineState) : State :=
  let s := regAdd (regAdd s (macFecCorr p) l.corrected) (macFecUncorr p) l.uncorrectable
  if l.uncorrectable = 0 then s else regOr s (macEvent p) 8

/-- FRAME_START (R358, R359, R360, R412): a frame that holds a codeword the PCS could not correct is one with a bad FCS. -/
def execFrameStart (port : Nat) (frame : Bytes) (line : LineState) (err : Int) (s : State) : Host.Outcome State Fault Refusal :=
  goOn s (if portReceives s port && (getPort s port).rx.isNone then
    startFrame (countFec s port line) port frame line.fcs (line.uncorrectable = 0) err
  else s)

/-- Length with the FCS. -/
def rxLen (f : RxFrame) : Nat := f.data.length + 4

/-- RUNT_DISCARD (R361): a frame shorter than 64 bytes with its FCS. -/
def execRuntDiscard (port : Nat) (s : State) : Host.Outcome State Fault Refusal :=
  goOnKeep s (match (getPort s port).rx with
    | some f =>
      if rxLen f < 64 ∧ f.dest.isNone then
        regAdd (releaseFrame (modPort s port fun q => { q with rx := none }) port f f.room) (macRxRunt port) 1
      else s
    | none => s)

-- ------------------------------------------------------------------ classification (R362-R366, R389)

/-- A filter entry: LO and HI words. -/
def filterMatches (lo hi : Nat) (f : Bytes) : Bool :=
  bit lo 31 && (!bit lo 28 || frameType f = bits lo 15 0) && (!bit lo 29 || frameVid f = some (bits lo 27 16))
  && (!bit lo 30 || udpDst f = some (bits hi 15 0))

/-- An entry as a frame at its classification point meets it: a write in the same FAB cycle does not count yet (R392). -/
def filterBefore (s : State) (k : Nat) : DWord :=
  match tget s.filtersOld k with
  | some (c, w) => if c = fabOf s then w else tgetD s.filters k 0
  | none => tgetD s.filters k 0

/-- The HI word of the matching entry with the lowest index, or a miss (R363). One whose instance was destroyed has lapsed (R497): ACTION 3, which no
write stores, says so. -/
def filterHit (s : State) (p : Nat) (f : Bytes) : Option Nat :=
  (List.range 256).findSome? fun n =>
    let e := (filterBefore s (p * 256 + n)).toNat
    if filterMatches (e % 2 ^ 32) (e / 2 ^ 32) f then
      some (e / 2 ^ 32 ||| (if s.filtersLapsed.contains (p * 256 + n) then 0xC000000 else 0))
    else none

/-- Kinds 1-4 of R362. -/
def fixedDest (s : State) (p : Nat) (f : Bytes) : Option Dest :=
  if frameType f = 0x8808 then some .mac
  else if frameType f = 0x88F7 ∨ udpDst f = some 319 ∨ udpDst f = some 320 then some .timeBase
  else if frameType f = 0x88CC then some .lldp
  else if frameType f = regBits s armEthertype 15 0 ∧ frameVid f = some (regBits s (macArmVlan p) 11 0) then some .armature
  else none

/-- Discards the frame being received. -/
def dropFrame (s : State) (p : Nat) (f : RxFrame) : State :=
  releaseFrame (modPort s p fun q => { q with rx := some { f with dest := some .dropped, inBuffer := true } }) p f f.room

def setDest (s : State) (p : Nat) (f : RxFrame) (d : Dest) : State :=
  modPort s p fun q => { q with rx := some { f with dest := some d } }

/-- Does the frame's UDP port make it a WGT frame (R310)? -/
def isWgtFrame (s : State) (f : Bytes) : Bool := udpDst f = some (regBits s wgtUdpPort 15 0) && !ipFragment f

/-- Receive policers on a frame's path: class, instance, where it goes to one, and, for a WGT frame to the transport, its QP (R389). -/
def policersOf (s : State) (p cls : Nat) (inst : Option Nat) (f : Bytes) (wgt : Bool) : List Nat :=
  classBucket p cls true :: (inst.map fun n => instBucket n true).toList ++
  (if wgt && isWgtFrame s f then (match qpByNum s (parsePkt f).dst with | some (i, _) => [qpBucket i true] | none => []) else [])

/-- What the policers say: drop, or take with CE or without. A closed bucket lets no frame pass, whatever its MODE (R388). -/
def policed (s : State) (ks : List Nat) (f : Bytes) : Option Bool :=
  let bad := ks.filter fun k => !bucketPermits s k
  if bad = [] then some false
  else if bad.any (fun k => !(getBucket s k).mark || (getBucket s k).rate = 0) || ipEcn f = 0 then none
  else some true

/-- Sets CE in an IP frame's header (R389), with its IPv4 header checksum. -/
def setCe (f : Bytes) : Bytes :=
  if ipVer f = 4 then fixIpCsum (overlay f (l3Off f + 1) [BitVec.ofNat 8 (byteAt f (l3Off f + 1) ||| 3)])
  else if ipVer f = 6 then overlay f (l3Off f + 1) [BitVec.ofNat 8 (byteAt f (l3Off f + 1) ||| 0x30)]
  else f

/-- A frame for an instance, or a PROBE, which is for none: class limit, then policers (R364, R389). -/
def admitClass (s : State) (p : Nat) (f : RxFrame) (d : Dest) (inst : Option Nat) : State :=
  let cls := rxClass s p f.data
  let n := f.room
  if regBits s (macRxLimit p) 15 0 * KiB < tgetD (getPort s p).occupancy cls 0 + n then
    regAdd (dropFrame s p f) (macRxClassDrop p) 1
  else
    let wgt := match d with | .transport _ => true | _ => false
    match policed s (policersOf s p cls inst f.data wgt) f.data with
    | none => regAdd (dropFrame s p f) (macRxPoliced p) 1
    | some ce =>
      let f := { f with cls := cls, occ := n, ce := ce, data := if ce then setCe f.data else f.data }
      addOcc (setDest s p f d) p cls n

/-- The destination of a frame that the filter table steers (R363, R478). An entry whose instance was destroyed discards its frames as those of an
instance that does not exist until the manager rewrites it (R497). -/
def steerFrame (s : State) (p : Nat) (f : RxFrame) : State :=
  match filterHit s p f.data with
  | none =>
    let s := regAdd s (macRxFilterMiss p) 1
    if regBit s (macCtrl p) 5 ∧ instActive s 0 = true then admitClass s p f (.raw 0 0) (some 0) else dropFrame s p f
  | some hi =>
    let n := bits hi 25 16
    if bits hi 27 26 = 2 then dropFrame s p f
    else if bits hi 27 26 < 2 && instActive s n then
      admitClass s p f (if bits hi 27 26 = 0 then .transport n else .raw n (bits hi 31 28)) (some n)
    else regAdd (dropFrame s p f) (macRxFilterMiss p) 1

/-- Is a received frame a WGT packet that obeys R310-R316 as a packet, with the body its opcode gives (R313)? -/
def pktFormed (s : State) (f : Bytes) : Bool :=
  let k := parsePkt f
  isWgtFrame s f && k.formed &&
  (match k.op with
   | 0x10 => k.body.length = 56 && zeroAt k.body 52 4
   | 0x11 => k.body.length = 8 && zeroAt k.body 1 1 && zeroAt k.body 4 4
   | 0x12 | 0x13 => k.body.length = 8
   | 3 => k.body = []
   | _ => true)

/-- A PROBE or PROBE_REPLY from queue pair 0 to queue pair 0 (R348): the adapter takes it on any port, whatever its instances and filters are
(DEDUCED; log entry 91). -/
def isProbe (s : State) (f : Bytes) : Bool :=
  pktFormed s f && 0x12 ≤ (parsePkt f).op && (parsePkt f).dst = 0 && (parsePkt f).src = 0

/-- Where the frame goes (R360, R362, R366); in REMOTE loopback only MAC control frames are classified (R547). -/
def classify (s : State) (p : Nat) (f : RxFrame) : State :=
  if portLoop s p = 3 ∧ frameType f.data ≠ 0x8808 then dropFrame s p f
  else if f.noRoom ∧ fixedDest s p f.data ≠ some .armature then regOr (regAdd (dropFrame s p f) (macRxOverflow p) 1) (macEvent p) 4
  else if !ipCsumOk f.data then regAdd (dropFrame s p f) (macRxIpcsumErr p) 1
  else
    match fixedDest s p f.data with
    | some .armature => setDest (releaseFrame s p f f.room) p { f with inBuffer := true } .armature
    | some d => setDest s p f d
    | none =>
      if f.inBuffer then (if isProbe s f.data then admitClass s p f .probe none else steerFrame s p f)
      else regOr (regAdd (dropFrame s p f) (macRxOverflow p) 1) (macEvent p) 4

-- ------------------------------------------------------------------ the start of a message (R42, R43, R48)

/-- A new message's fields that a frame gives. -/
def msgOfFrame (p inst : Nat) (f : RxFrame) (data : Bytes) (t0 pb : Nat) : Message :=
  { inst := inst, port := p, startedAt := f.t0, capture := f.capture, stamp := f.capture, cls := f.cls,
    vlan := vlanField f.data, vlanTci := if frameTagged f.data then 65536 + frameTci f.data else 0,
    segs := [{ offset := 0, data := data, t0 := t0, perByte := pb }] }

/-- The frame being received belongs to a message. -/
def markRx (s : State) (p id : Nat) : State :=
  modPort s p fun q => { q with rx := q.rx.map fun (g : RxFrame) => { g with msg := some id } }

/-- A raw message starts (R42): it is whole when its frame is, and in STORE_FORWARD that has come; without a binding it is complete when the frame is
released (R368). -/
def startRaw (s : State) (p inst queue : Nat) (f : RxFrame) (t0 pb : Nat) (sf : Bool) : State :=
  let id := s.nextId
  let m := msgOfFrame p inst f f.data t0 pb
  let m := { m with rawQueue := queue, total := some f.data.length, tailOk := sf, releaseAt := if sf then t0 else 0,
                    frames := [{ offset := 0, data := f.data, fcs := sf, crc := true, checkedAt := t0 }] }
  let s := markRx { s with nextId := id + 1, msgs := tset s.msgs id m } p id
  let s := bindMsg s id f none
  let s := modMsg s id fun m => { m with pendFcs := if m.binding.isSome && !sf then 1 else 0 }
  if sf then finishRaw (chargeHeld s id) id else s

/-- The first frame of a WGT message in the stream: its payload decrypted (R43, R344). -/
def firstStream (q : Qp) (k : Pkt) : Bytes := overlay k.frame k.bodyOff (k.plain q.rxKey)

/-- A frame for the transport that is no packet of a SEND, WRITE or READ on a queue pair is a message by itself (R42): ACK, NAK, READ_REQ and what no
queue pair takes (DEDUCED for a READ_REQ; log entry 66). It is one only where a binding takes it. Its bytes are the frame's own; the tag of a READ_REQ
that its queue pair accepts is a check (R79). -/
def startCtl (s : State) (p inst : Nat) (f : RxFrame) (t0 pb : Nat) (sf : Bool) : State :=
  let id := s.nextId
  let wgt := isWgtFrame s f.data
  let k := parsePkt f.data
  let req := wgt && k.op = 3 && k.formed && (qpByNum s k.dst).any fun x => qpAccepts x.2 p k && x.2.owner = inst
  let tag := req && k.cipher
  let m := msgOfFrame p inst f f.data t0 pb
  let m := { m with ctl := true, dstQp := if req then k.dst else 0, total := some f.data.length, tailOk := sf, releaseAt := if sf then t0 else 0,
                    frames := [{ offset := 0, data := f.data, fcs := sf, crc := !wgt, checkedAt := t0 }] }
  let t := markRx { s with nextId := id + 1, msgs := tset s.msgs id m } p id
  let t := bindMsg t id f (if wgt then some (k.dst % 2 ^ 24) else none)
  match getMsg t id with
  | some m =>
    if m.binding.isSome then
      modMsg t id fun m =>
        { m with pendFcs := b2n (!sf), pendCrc := b2n wgt, pendTag := b2n tag, tagPsns := if tag then [k.psn] else [] }
    else s
  | none => s

/-- The message of SEND or WRITE packets of a QP with an MSN that is on its way. -/
def wgtMsg (s : State) (i msn : Nat) : Option Nat :=
  (s.msgs.find? fun m => m.2.qp = some i && m.2.opcode ≠ 4 && m.2.msn = msn && !m.2.finished).map (·.1)

/-- Stream offset of a later packet's payload: the first frame's stream bytes stand for its payload. -/
def streamOff (q : Qp) (first : Nat) (k : Pkt) : Nat := first + (k.aux - q.pmtu)

/-- The length of a message's stream, if it is known: the LAST packet says it, and each of a WRITE, and a READ asked for as much (R43, R314). -/
def streamTotal (q : Qp) (k : Pkt) (first off : Nat) (body : Bytes) (streamed : Nat) : Option Nat :=
  if k.last then some (off + body.length)
  else if k.op = 2 then some (first + (k.msgLen - streamed))
  else if k.op = 4 then (sendOfMsn q k.msn).map fun w => first + (w.length - streamed)
  else none

/-- A packet whose CRC32C is bad has come whole, and has to come again (R370, R597). -/
def spoilt (k : Pkt) (sf : Bool) : Bool := sf && !k.crcOk

/-- The FIRST packet of a SEND, a WRITE or a READ's responses is matched against the bindings (R42, R48); gap tells whether another packet of the
message has come before it (R55). -/
def startWgt (s : State) (p i : Nat) (q : Qp) (k : Pkt) (f : RxFrame) (t0 pb : Nat) (sf gap : Bool) : State :=
  let id := s.nextId
  let data := firstStream q k
  let m := msgOfFrame p q.owner f data t0 pb
  let m := { m with qp := some i, msn := k.msn, opcode := k.op, dstQp := k.dst, total := streamTotal q k data.length 0 data k.body.length,
                    nextPsn := seqAdd k.psn 1, ciphered := k.cipher, frames := [{ offset := 0, data := f.data, fcs := sf, checkedAt := t0 }],
                    redo := if spoilt k sf then [0] else [] }
  let old := s
  let tag := k.cipher && !spoilt k sf
  let s := markRx { s with nextId := id + 1, msgs := tset s.msgs id m } p id
  let s := bindMsg s id f (some k.dst)
  match getMsg s id with
  | none => s
  | some m =>
    if m.binding.isNone then old
    else
      let s := modMsg s id fun m =>
        { m with pendFcs := b2n (!sf), pendCrc := 1, pendTag := b2n tag, tagPsns := if tag then [k.psn] else [] }
      if gap then unjudge s id 3 else s

/-- A message with a later packet of it, or one that comes again after its frame failed. -/
def withPacket (m : Message) (q : Qp) (k : Pkt) (f : RxFrame) (off t pb : Nat) (carries sf : Bool) : Message :=
  let body := if k.first then firstStream q k else k.plain q.rxKey
  let seg : Segment := { offset := off, data := body, t0 := t, perByte := pb }
  let bad := spoilt k sf
  let tag := k.cipher && !bad
  let frame : MsgFrame :=
    { offset := off, data := f.data, window := carries, fcs := sf, crc := sf && !carries && k.crcOk, checkedAt := t }
  { m with segs := if m.segs.any fun g => g.offset = off then m.segs.map fun g => if g.offset = off then seg else g else m.segs ++ [seg],
           total := if m.total.isSome then m.total else streamTotal q k 0 off body 0,
           redo := m.redo.filter (· ≠ off) ++ (if bad then [off] else []),
           nextPsn := if k.psn = m.nextPsn then seqAdd k.psn 1 else m.nextPsn,
           pendFcs := m.pendFcs + b2n (carries && !sf), pendCrc := m.pendCrc + b2n carries,
           pendTag := m.pendTag + b2n tag, tagPsns := m.tagPsns ++ (if tag then [k.psn] else []),
           frames := m.frames ++ (if bad && !carries then [] else [frame]) }

/-- A later packet of a message on a binding (R43, R55): a gap before the window end makes it UNJUDGED. One that has come already is not
evaluated again, unless its frame failed (R83, R597). -/
def continueWgt (s : State) (p id : Nat) (q : Qp) (k : Pkt) (f : RxFrame) (t0 pb : Nat) (sf : Bool) : State :=
  match getMsg s id with
  | none => s
  | some m =>
    let off := if k.first then 0 else streamOff q (firstLen m) k
    let again := m.redo.contains off
    let ended := match windowEnd m with | some t => decide (t ≤ s.now) | none => false
    if (m.segs.any fun g => g.offset = off) && !again then s
    else
      let t := t0 + (if k.first then 0 else k.bodyOff) * pb
      let carries := !ended && off < (m.binding.map (·.w)).getD 0
      let s1 := markRx (modMsg s id fun m => withPacket m q k f off t pb carries sf) p id
      let s1 := checkSlot (checkRetain s1 id) id
      let s1 := if sf then mirrorMore s1 id else s1
      if !ended && k.psn ≠ m.nextPsn && !again then
        (if seqGe k.psn m.nextPsn then unjudge s1 id 3 else s)
      else s1

/-- The wedge sees a WGT packet that its QP accepts, as it arrives (R55, R325): a packet of a SEND or WRITE that has not been received. -/
def wedgePacket (s : State) (p i : Nat) (q : Qp) (k : Pkt) (f : RxFrame) (t0 pb : Nat) (sf : Bool) : State :=
  if seqSub k.psn q.ePsn < 256 ∧ q.got.contains k.psn = false ∧ (q.rnrMsgs.contains k.msn = false ∨ k.first = true)
      ∧ ((wgtMsg s i k.msn).isSome = true ∨ serviceSpan q t0 = none) then
    match wgtMsg s i k.msn with
    | some id => continueWgt s p id q k f t0 pb sf
    | none =>
      if k.first ∧ (k.op = 2 ∨ q.recvs ≠ []) ∧ (tget q.rxMsgs k.msn).bind (·.msgId) = none then
        startWgt s p i q k f t0 pb sf (tget q.rxMsgs k.msn).isSome
      else s
  else s

/-- The wedge sees a response to a READ of a queue pair as it arrives: all of them are packets of one message (R42, R312, R323). One that has come is
not evaluated again, unless its frame failed (R55, R83). -/
def respPacket (s : State) (p i : Nat) (q : Qp) (w : SendWr) (k : Pkt) (f : RxFrame) (t0 pb : Nat) (sf : Bool) : State :=
  match respMsg s i k.msn with
  | some id => if w.got.any fun g => g.1 = k.aux then s else continueWgt s p id q k f t0 pb sf
  | none => if k.first && !w.got.any fun g => g.1 = 0 then startWgt s p i q k f t0 pb sf (w.got ≠ []) else s

/-- The queue pair of an instance that accepts a SEND or WRITE packet (R47, R318). -/
def wedgeQp (s : State) (p inst : Nat) (f : Bytes) : Option (Nat × Qp) :=
  let k := parsePkt f
  if isWgtFrame s f && (k.op = 1 || k.op = 2) && k.formed then
    (qpByNum s k.dst).filter fun x => qpAccepts x.2 p k && x.2.owner = inst
  else none

/-- The queue pair of an instance, and its READ, that a READ_RESP packet answers (R47, R318). -/
def respQp (s : State) (p inst : Nat) (f : Bytes) : Option (Nat × Qp × SendWr) :=
  let k := parsePkt f
  if isWgtFrame s f && k.op = 4 && k.formed then
    ((qpByNum s k.dst).filter fun x => qpAccepts x.2 p k && x.2.owner = inst).bind fun x =>
      ((sendOfMsn x.2 k.msn).filter fun w => w.opcode = 3 && k.aux + k.body.length ≤ w.length).map fun w => (x.1, x.2, w)
  else none

/-- The stream side of a frame that the filters gave to an instance. -/
def beginMessage (s : State) (p : Nat) (f : RxFrame) (t0 pb : Nat) (sf : Bool) : State :=
  match f.dest with
  | some (.raw n k) => startRaw s p n k f t0 pb sf
  | some (.transport n) =>
    match wedgeQp s p n f.data with
    | some (i, q) => wedgePacket s p i q (parsePkt f.data) f t0 pb sf
    | none =>
      match respQp s p n f.data with
      | some (i, q, w) => respPacket s p i q w (parsePkt f.data) f t0 pb sf
      | none => startCtl s p n f t0 pb sf
  | _ => s

/-- The messages as their frames stand on the wire. A message belongs to its unit from its first byte (R49), and its window may end
before its frame's classification point (R362), and in STORE_FORWARD before the frame's release (R370): the frames that have not
reached that point are taken as the wedge will have begun them. -/
def foreseen (s : State) : State :=
  (portsOf s).foldl (fun u p =>
    match (getPort s p).rx with
    | some f =>
      let sf := (getPort s p).sfRx
      let v := if f.dest.isNone && 64 ≤ rxLen f then classify u p f else u
      match (getPort v p).rx with
      | some g =>
        if sf then beginMessage v p g (f.t0 + rxLen f * f.perByte + 6 * nsec) 0 true
        else if f.dest.isNone then beginMessage v p g g.t0 g.perByte false
        else u
      | none => u
    | none => u) s

/-- Messages of a unit whose frames have begun and have not reached their classification point or release (R49, R362, R370). -/
def coming (s : State) (ui : Nat) : List (Nat × Message) :=
  (foreseen s).msgs.filter fun m => s.nextId ≤ m.1 && m.2.unit = some ui && !(settled m.2 && m.2.fullDone)

/-- Has the classification point come: byte 127, or the end of a shorter frame (R362)? -/
def atPoint (s : State) (f : RxFrame) : Bool := f.t0 + min 128 (rxLen f) * f.perByte ≤ s.now

/-- FRAME_CLASSIFY (R362-R366, R389, R48): the destination; in CUT_THROUGH the wedge begins on the message. -/
def execFrameClassify (port : Nat) (s : State) : Host.Outcome State Fault Refusal :=
  goOnKeep s (match (getPort s port).rx with
    | some f =>
      if f.dest.isNone && 64 ≤ rxLen f && atPoint s f then
        let s := classify s port f
        match (getPort s port).rx with
        | some g => if (getPort s port).sfRx then s else beginMessage s port g g.t0 g.perByte false
        | none => s
      else s
    | none => s)

-- ------------------------------------------------------------------ the end of a frame (R365, R368, R370)

/-- Charges the policers that admitted a frame with its wire bytes (R389). -/
def chargePolicers (s : State) (p : Nat) (inst : Option Nat) (f : RxFrame) (wgt : Bool) : State :=
  (policersOf s p f.cls inst f.data wgt).foldl (fun s k => bucketCharge s k (wireBytes f.data.length)) s

/-- A frame is kept for its consumer, which may take it at once, or in STORE_FORWARD at its release (R368). -/
def keepFrame (s : State) (p : Nat) (f : RxFrame) : State :=
  let f := if (getPort s p).sfRx then { f with readyAt := s.now + 6 * nsec } else f
  modPort s p fun q => { q with inbox := q.inbox ++ [f] }

/-- The reservation of a frame that is charged to a class shrinks to n bytes of which m stay charged (R360, R364). -/
def shrinkFrame (s : State) (p : Nat) (f : RxFrame) (n m : Nat) : State := subOcc (freeBuf s (f.room - n)) p f.cls (f.occ - m)

/-- A frame for the transport is kept: its length stays in the receive buffer and charged to its class. One that only waits for a verdict is not
charged (R63). -/
def keepPacket (s : State) (p : Nat) (f : RxFrame) (verdict : Bool) : State :=
  let n := f.data.length
  let m := if verdict then 0 else n
  keepFrame (shrinkFrame s p f n m) p { f with room := n, occ := m }

/-- The frame that ended is the last one of a WGT message. Where it carried window bytes, CHECK_RESULT gives its checks; else they end 6 ns
from now, and a good frame is mirrored (R597). A ciphered packet whose frame failed has to come again (R83). -/
def endWgtFrame (s : State) (id : Nat) (f : RxFrame) (good : Bool) : State :=
  match getMsg s id with
  | none => s
  | some m =>
    match m.frames.getLast? with
    | none => s
    | some x =>
      let k := parsePkt f.data
      let ok := good && k.crcOk
      let x' := { x with fcs := true, crc := true, checkedAt := s.now + 6 * nsec }
      let s := modMsg s id fun m =>
        { m with frames := if x.window then m.frames else m.frames.dropLast ++ (if ok then [x'] else []),
                 redo := if ok then m.redo else m.redo ++ [x.offset],
                 pendTag := if ok || !k.cipher then m.pendTag else m.pendTag - 1,
                 tagPsns := if ok then m.tagPsns else m.tagPsns.filter (· ≠ k.psn) }
      mirrorMore s id

/-- The frame of an instance has ended. A bad one is discarded; a good raw one completes its message, a good one for the transport waits for
it (R365, R447). -/
def endSteered (s : State) (p : Nat) (f : RxFrame) (good : Bool) (inst : Nat) (wgt : Bool) : State :=
  let s := chargePolicers s p (some inst) f wgt
  let sf := (getPort s p).sfRx
  let m := f.msg.bind fun id => (getMsg s id).map fun m => (id, m)
  if !good then
    let s := shrinkFrame s p f 0 0
    match m with
    | some (id, m) =>
      if m.qp.isSome then endWgtFrame s id f false
      else if m.binding.isNone then endMsg (modMsg s id fun m => { m with dropped := true }) id
      else s
    | none => s
  else
    let s := if wgt then s else shrinkFrame s p f 0 0
    let keep := fun (s : State) (f : RxFrame) =>
      if wgt then keepPacket s p f (f.msg.any fun id => (getMsg s id).any fun m => m.ctl && !settled m) else s
    if sf then
      let id := s.nextId
      let s := beginMessage s p f (s.now + 6 * nsec) 0 true
      let ctl := (getMsg s id).any (·.ctl)
      let s := keep s { f with msg := if ctl then some id else f.msg }
      if ctl then finishRaw s id else s
    else
      let s := keep s f
      match m with
      | some (id, m) =>
        if m.qp.isSome then endWgtFrame s id f true
        else finishRaw (chargeHeld (modMsg s id fun m => { m with tailOk := true }) id) id
      | none => s

/-- STORE_FORWARD's checksums over a frame (R368), with the counter of the failure. -/
def sfCheck (s : State) (p : Nat) (f : RxFrame) : Option Nat :=
  if (getPort s p).sfRx then
    if !ipCsumOk f.data then some (macRxIpcsumErr p) else if !udpCsumOk f.data then some (macRxUdpcsumErr p) else none
  else none

/-- REMOTE loopback: the frame goes back to the line unchanged (R546). -/
def remoteBack (s : State) (p : Nat) (f : RxFrame) : State :=
  if portLoop s p = 3 then emit s (.wire p s.now (f.data ++ toLe 4 f.fcs.toNat)) else s

/-- The frame has ended (R365-R370). -/
def endFrame (s : State) (p : Nat) (f : RxFrame) (d : Dest) : State :=
  let long := maxFrame s p < rxLen f
  let s := modPort s p fun q => { q with rx := none }
  let s := remoteBack s p f
  let s := if !f.fcsOk then regAdd s (macRxFcsErr p) 1 else s
  let s := if long then regAdd s (macRxOversize p) 1 else s
  let s := countPort (countPort s p 0 1) p 1 (rxLen f)
  let sum := if f.fcsOk && !long && d ≠ .dropped then sfCheck s p f else none
  let s := match sum with | some c => regAdd s c 1 | none => s
  let good := f.fcsOk && !long && sum.isNone
  match d with
  | .dropped => s
  | .transport n => endSteered s p f good n true
  | .raw n _ => endSteered s p f good n false
  | .armature => if good then modPort s p fun q => { q with inbox := q.inbox ++ [f] } else regAdd s armStray 1
  | .probe =>
    let s := chargePolicers s p none f false
    if good then keepPacket s p f false else shrinkFrame s p f 0 0
  | _ =>
    if good then
      let n := f.data.length
      keepFrame (if f.inBuffer then freeBuf s (f.room - n) else s) p { f with room := if f.inBuffer then n else f.room }
    else releaseFrame s p f f.room

/-- FRAME_END (R360, R365, R367, R368, R370). -/
def execFrameEnd (port : Nat) (s : State) : Host.Outcome State Fault Refusal :=
  goOnKeep s (match (getPort s port).rx with
    | some f =>
      match f.dest with
      | some d =>
        if f.t0 + min (rxLen f) (maxFrame s port) * f.perByte ≤ s.now then
          endFrame s port f d
        else s
      | none => s
    | none => s)

-- ------------------------------------------------------------------ the wedge's steps

/-- WEDGE_TOKEN_EMIT (R51, R52, R594). -/
def execWedgeTokenEmit (msg : Nat) (s : State) : Host.Outcome State Fault Refusal := goOnKeep s (emitTokens s msg)

/-- WINDOW_ENTER (R62, R161, R210, R211): one core cycle of the window's entry. -/
def execWindowEnter (msg : Nat) (s : State) : Host.Outcome State Fault Refusal := goOnKeep s (enterWindow s msg)

/-- ENTRY_LATE (R161). -/
def execEntryLate (msg : Nat) (s : State) : Host.Outcome State Fault Refusal :=
  goOnKeep s (match getMsg s msg with
    | some m => if lateEntry s m ∧ m.acted = false then unjudge (regOr (regAdd s arrEntryLate 1) arrEvent 4) msg 1 else s
    | none => s)

-- ------------------------------------------------------------------ the glaze unit's steps

/-- VERDICT_RELEASE (R57, R62, R93, R513): at verdict-ready of a message that is not settled. -/
def execVerdictRelease (msg : Nat) (s : State) : Host.Outcome State Fault Refusal :=
  goOnKeep s (
    let s := handOver s s.now
    match getMsg s msg with
    | some m =>
      match m.binding, m.unit, m.unit.bind (getUnit s), verdictReady m with
      | some k, some ui, some u, some t =>
        if m.started && !m.acted && m.cDue.isNone && t ≤ s.now then
          if u.guard then releaseGuarded s msg m k ui u t else releasePlain s msg m u t
        else s
      | _, _, _, _ => s
    | none => s)

/-- GUARD_ARBITRATE (R93, R510): when C's verdict is due. -/
def execGuardArbitrate (msg : Nat) (s : State) : Host.Outcome State Fault Refusal :=
  goOnKeep s (
    let s := handOver s s.now
    match getMsg s msg with
    | some m =>
      match m.unit, m.unit.bind (getUnit s), m.cDue with
      | some ui, some u, some t => if !m.acted && t ≤ s.now then arbitrate s msg m ui u t else s
      | _, _, _ => s
    | none => s)

/-- The first frame with window bytes whose check of a kind is awaited has passed it. -/
def passFrame (now : Nat) (kind : CheckKind) : List MsgFrame → List MsgFrame
  | [] => []
  | f :: t =>
    match kind with
    | .fcs => if f.window && !f.fcs then { f with fcs := true, checkedAt := max now f.checkedAt } :: t else f :: passFrame now kind t
    | .crc => if f.window && !f.crc then { f with crc := true, checkedAt := max now f.checkedAt } :: t else f :: passFrame now kind t
    | .tag => f :: t

/-- The first frame with window bytes whose check of a kind is awaited has failed it: it is not mirrored (R597). -/
def failFrame (kind : CheckKind) (l : List MsgFrame) : List MsgFrame :=
  l.eraseP fun f => f.window && (match kind with | .fcs => !f.fcs | .crc => !f.crc | .tag => false)

/-- One check of a message has passed: a held reply goes once none is pending (R79), passed frames are mirrored (R597). -/
def checkPassed (s : State) (id : Nat) (kind : CheckKind) : State :=
  let s := modMsg s id fun m =>
    { m with pendFcs := if kind = .fcs then m.pendFcs - 1 else m.pendFcs,
             pendCrc := if kind = .crc then m.pendCrc - 1 else m.pendCrc,
             pendTag := if kind = .tag then m.pendTag - 1 else m.pendTag,
             tagPsns := if kind = .tag then m.tagPsns.drop 1 else m.tagPsns,
             frames := passFrame s.now kind m.frames, lastPass := s.now }
  tryComplete (releaseHeld (mirrorMore (settleProvisional s id) id) id) id

/-- A frame that carried window bytes failed its FCS or CRC32C (R83, R365). -/
def checkFailedFrame (s : State) (id : Nat) (m : Message) (kind : CheckKind) : State :=
  let s := if m.reply.isSome then rescind s id 2 else s
  let s := modMsg s id fun m =>
    { m with checkFailed := true, pendFcs := if kind = .fcs then m.pendFcs - 1 else m.pendFcs,
             pendCrc := if kind = .crc then m.pendCrc - 1 else m.pendCrc, frames := failFrame kind m.frames }
  let s := unjudge s id 11
  if m.qp.isNone && (kind = .fcs || !m.ctl) then endMsg (modMsg s id fun m => { m with dropped := true, fullDone := true }) id else s

/-- The tag of a READ's response failed (R345): the READ completes with INTEGRITY (DEDUCED; log entry 92). -/
def respTagError (s : State) (i msn psn : Nat) : State :=
  qpError (sendNak s i 5 psn msn) i (((getQp s i).bind fun q => sendOfMsn q msn).map fun w => (w.index, stIntegrity)) none

/-- A tag failed (R82, R345): RESCIND, the message is discarded, the QP goes to ERROR and its peer is told of the packet. What a READ_REQ's queue pair
does, the transport does as it takes the frame. -/
def checkFailedTag (s : State) (id : Nat) (m : Message) (psn : Nat) : State :=
  let s := if m.reply.isSome then rescind s id 1 else s
  if m.ctl then modMsg (discardMsg (modMsg s id fun m => { m with ctl := false }) id) id fun m => { m with ctl := true }
  else
    let s := regOr (regAdd (discardMsg s id) wgtTagFail 1) wgtEvent 2
    match m.qp with
    | some i => if m.opcode = 4 then respTagError s i m.msn psn else rxError s i m.msn stIntegrity 5 psn
    | none => s

/-- CHECK_RESULT (R79, R82, R83): the result of a pending check. -/
def execCheckResult (msg : Nat) (kind : CheckKind) (pass : Bool) (s : State) : Host.Outcome State Fault Refusal :=
  goOnKeep s (
    let s := handOver s (s.now - 1)
    match getMsg s msg with
    | some m =>
      let pend := match kind with | .fcs => m.pendFcs | .crc => m.pendCrc | .tag => m.pendTag
      if 0 < pend ∧ m.finished = false then
        if pass then checkPassed s msg kind
        else if kind = .tag then checkFailedTag s msg m (m.tagPsns.headD 0)
        else checkFailedFrame s msg m kind
      else s
    | none => s)

/-- P_TIMEOUT_EXPIRE (R84): a provisional reply's checks are still pending. -/
def execPTimeoutExpire (msg : Nat) (s : State) : Host.Outcome State Fault Refusal :=
  goOnKeep s (
    let s := handOver s s.now
    match getMsg s msg with
    | some m =>
      match m.reply, m.binding with
      | some r, some k =>
        if r.provisional && checksPending m && !m.rescinded && r.handedAt + k.pTimeout * nsec ≤ s.now then
          let s := discardMsg (rescind s msg 3) msg
          match m.qp with
          | some i => if m.opcode = 4 then finishRead s i m.msn else updateCredit (completeAll s i) i
          | none => s
        else s
      | _, _ => s
    | none => s)

/-- STEER_HOLD_EXPIRE (R61, R337). -/
def execSteerHoldExpire (msg : Nat) (s : State) : Host.Outcome State Fault Refusal :=
  goOnKeep s (match getMsg s msg with
    | some m =>
      match m.steerUntil with
      | some t => if t ≤ s.now then unjudge s msg 12 else s
      | none => s
    | none => s)

/-- FULL_RESULT (R88, R89, R91). -/
def execFullResult (msg : Nat) (s : State) : Host.Outcome State Fault Refusal :=
  goOnKeep s (
    let s := handOver s s.now
    match getMsg s msg with
    | some m =>
      match m.binding, m.unit.bind (getUnit s), fullReady m with
      | some k, some u, some t =>
        if m.acted && !m.fullDone && t ≤ s.now && m.cDue.all (fun d => decide (d ≤ s.now)) then takeFull s msg m k u t else s
      | _, _, _ => s
    | none => s)

end Sys2Proof.Machine
end

