-- ==== Sys2Proof/Machine/Units.lean ====
section
/-! DEFINITION. Units' shared operations (R176-R216): patterns (R199-R201), firing (R190), draining and squash (R205-R208), scrubbing
to EMPTY (R182, R485), located faults (R509-R512). -/

namespace Sys2Proof.Machine

open Sys2Proof

-- ------------------------------------------------------------------ patterns

/-- The pattern that a unit's clusters follow while it runs (R199). -/
def unitPattern (u : MUnit) : Pattern :=
  match u.shelves with
  | [] => .idle
  | [k] => .single k
  | ks => .fold ks.length ks

/-- A cluster takes up a pattern at a cycle (R200); a switch that has come before now stands. -/
def setPattern (s : State) (c at_ : Nat) (p : Pattern) : State :=
  let now := patternAt s c (cycleOf s)
  modCluster s c fun k => { k with pattern := now, switchAt := some (at_, p) }

/-- R201: the pattern a cluster takes when a unit on it has finished. -/
def nextPattern (s : State) (ui c : Nat) : Pattern :=
  match s.units.find? fun u => u.1 ≠ ui && u.2.clusters.contains c && u.2.st = .fired && !u.2.retired with
  | some (_, u) => unitPattern u
  | none =>
    match s.units.find? fun u => u.1 ≠ ui && u.2.clusters.contains c && u.2.st = .cooling && u.2.scrub.isNone && !u.2.retired with
    | some (_, u) => unitPattern u
    | none => .idle

/-- Is a switch of a cluster fixed for a later cycle (R210)? -/
def switchAhead (s : State) (c : Nat) : Bool :=
  match (getCluster s c).switchAt with | some (t, _) => cycleOf s + 1 < t | none => false

/-- Each cluster of a unit takes up its next pattern (R201), but for one whose switch to a new unit is fixed in advance (R210). -/
def leavePatterns (s : State) (ui : Nat) (u : MUnit) : State :=
  u.clusters.foldl (fun s c => if switchAhead s c then s else setPattern s c (cycleOf s + 1) (nextPattern s ui c)) s

/-- A unit becomes FIRED: lane 0 is next, every lane is free (R595). -/
def makeFired (s : State) (ui : Nat) : State :=
  modUnit s ui fun u =>
    { u with st := .fired, firedAt := s.now, coolingAt := none, nextLane := [], laneFree := [], lastEntry := [], roundStart := none, roundLen := 0,
             waitSwap := false, gateUntil := none }

/-- The first core cycle after the present FAB cycle. -/
def cycleAfterFab (s : State) : Nat := ceilDiv ((fabOf s + 1) * fabCycle) coreCycle

/-- FIRE (R190): FIRED at once, its clusters take up its pattern at the next core cycle after this FAB cycle. -/
def fireUnit (s : State) (ui : Nat) : State :=
  let s := makeFired s ui
  match getUnit s ui with
  | some u => u.clusters.foldl (fun s c => setPattern s c (cycleAfterFab s) (unitPattern u)) s
  | none => s

-- ------------------------------------------------------------------ what a unit holds

/-- Cores and shelves of a unit. -/
def unitCells (u : MUnit) : List (Nat × Nat) :=
  u.clusters.flatMap fun c => (List.range 16).flatMap fun i => u.shelves.map fun k => (c * 16 + i, k)

/-- Keys of the input queues of a core and shelf. -/
def cellQueues (x : Nat × Nat) : List Nat := (List.range 4).map fun d => qKey x.1 d x.2

/-- Tokens of a queue and its crossing FIFO that have come by a cycle. -/
def queueTokens (s : State) (k cut : Nat) : Nat :=
  let q := tgetD s.inqs k {}
  q.toks.length + q.inflight.countP (·.1 ≤ cut) + (tgetD s.xfifos k {}).toks.countP (·.1 ≤ cut)

/-- Does a queue or its crossing FIFO hold a token, or is one on its way there? -/
def queueHolds (s : State) (k : Nat) : Bool :=
  let q := tgetD s.inqs k {}
  q.toks ≠ [] || q.inflight ≠ [] || (tgetD s.xfifos k {}).toks ≠ []

/-- Tokens of a message's window still in the entry buffer. -/
def bufferTokens (m : Message) : Nat := m.toks.countP fun t => t.2.1 ≠ 0

/-- Messages that belong to a unit (R49). -/
def unitMsgs (s : State) (ui : Nat) : List (Nat × Message) := s.msgs.filter fun m => m.2.unit = some ui

def hasFinal (m : Message) : Bool := settled m && m.fullDone

/-- Tokens of a unit in queues, crossing FIFOs and entry buffers now (R207). -/
def unitTokens (s : State) (ui : Nat) (u : MUnit) : Nat :=
  ((unitCells u).map fun x => ((cellQueues x).map fun k => queueTokens s k (cycleOf s)).sum).sum
  + ((unitMsgs s ui).map fun m => bufferTokens m.2).sum

/-- Operations of a unit in flight. -/
def unitBusy (s : State) (u : MUnit) : Bool :=
  (unitCells u).any fun x => !coreAside u x.1 && decide (cycleOf s < (getCs s x.1 x.2).busyUntil)

/-- No token of a unit is left and none of its operations in flight, but for copies set aside (R206, R510). -/
def unitQuiet (s : State) (ui : Nat) (u : MUnit) : Bool :=
  ((unitCells u).filter fun x => !coreAside u x.1).all (fun x => (cellQueues x).all fun k => !queueHolds s k)
  && (unitMsgs s ui).all (fun m => bufferTokens m.2 = 0) && !unitBusy s u

/-- R206; a generation unit has slots and requests in the place of messages, and as the old unit of a SWAP it waits for these only (R264). -/
def drainDone (s : State) (ui : Nat) (u : MUnit) : Bool :=
  if u.kind = 1 then
    (openSlots u).isEmpty && (tvals u.slots).all (fun l => l.req.isNone) && (u.swap.isSome || unitQuiet s ui u)
  else (unitMsgs s ui).all (fun m => hasFinal m.2) && (coming s ui).isEmpty && unitQuiet s ui u

-- ------------------------------------------------------------------ draining, scrubbing, squash

/-- A FIRED unit enters COOLING (R205). -/
def startDrain (s : State) (ui : Nat) (bound : Nat) (toBisque : Bool) (cmd : Option Nat) (wdog : Bool) : State :=
  modUnit s ui fun u =>
    { u with st := .cooling, coolingAt := some s.now, drain := some { began := s.now, deadline := s.now + bound, toBisque := toBisque, cmd := cmd, wdog := wdog } }

/-- The default drain bound (R207). -/
def drainBound (s : State) (us : Nat) : Nat := (if us = 0 then regBits s shfDrainBound 16 0 else us) * usec

/-- The scrub to EMPTY starts (R182): the unit's command completes with a status when it ends. -/
def startScrub (s : State) (ui : Nat) (cmd : Option Nat) (st : Nat) : State :=
  modUnit s ui fun u => { u with scrub := some (s.now, cmd, st), drain := none }

/-- The local shard units of an armature slot. -/
def armUnits (s : State) (slot : Nat) : List (Nat × MUnit) := s.units.filter fun u => u.2.arm = some slot

/-- Does a unit's owner drain for a reset or its end (R495, R497)? -/
def ownerDrains (s : State) (u : MUnit) : Bool := (getInst s u.owner).st = .resetting || (getInst s u.owner).st = .destroying

/-- An armature is removed: its units are detached and stay as they are, its windows leave at each port's next list takeover, and a stop of it
that still drains goes on (R297). In its owner's reset its BISQUE units go on to EMPTY (R308, R495). -/
def removeArm (s : State) (n : Nat) : State :=
  match getArm s n with
  | none => s
  | some a =>
    let wins := fun p => a.plan.streams.countP fun t => windowPort a t = some p
    let late := match a.stopping with | some x => [(x.1, (armUnits s n).map (·.1), x.2)] | none => []
    let us := armUnits s n
    let s := { s with
      arms := tdel s.arms n, armStops := s.armStops ++ late,
      ports := s.ports.map fun x => (x.1, { x.2 with goneWins := x.2.goneWins + wins x.1 }),
      units := s.units.map fun u => if u.2.arm = some n then (u.1, { u.2 with arm := none }) else u }
    (us.filter fun u => ownerDrains s u.2 && u.2.st = .bisque && !u.2.retired && u.2.scrub.isNone).foldl (fun s u => startScrub s u.1 none stOK) s

/-- The commands of a stop complete (R299). -/
def endStop (s : State) (cmds : List Nat) (sq : Bool) : State :=
  cmds.foldl (fun s c => finishCmd s c (if sq then stSquashed else stOK) []) s

/-- Is one of a stop's units still COOLING? -/
def stillCooling (s : State) (us : List Nat) : Bool := us.any fun i => (getUnit s i).any fun u => u.st = .cooling && !u.retired

/-- The stops of destroyed armatures whose units have all left COOLING complete. -/
def stopsDrained (s : State) : State :=
  let ended := s.armStops.filter fun x => !stillCooling s x.2.1
  ended.foldl (fun s x => endStop s x.1 x.2.2) { s with armStops := s.armStops.filter fun x => stillCooling s x.2.1 }

/-- An armature's stop completes when no shard unit is COOLING any more (R299); in its owner's reset the armature is then removed (R308). -/
def armDrained (s : State) (slot : Nat) : State :=
  match getArm s slot with
  | some a =>
    match a.stopping with
    | some (cmds, sq) =>
      let us := (armUnits s slot).map (·.1)
      if stillCooling s us then s
      else
        let s := modArm s slot fun a => { a with stopping := none }
        endStop (if a.removing then removeArm s slot else s) cmds sq
    | none => s
  | none => s

/-- A unit has left COOLING: a stop that waited for it may be over. -/
def stopsOver (s : State) (u : MUnit) : State :=
  match u.arm with | some a => armDrained s a | none => stopsDrained s

/-- Discards every token of a unit (R207); the queues' slots are free. -/
def discardTokens (s : State) (ui : Nat) (u : MUnit) : State :=
  let ks := (unitCells u).flatMap cellQueues
  let s := ks.foldl (fun s k =>
    { s with inqs := tmod s.inqs k fun q => { q with toks := [], inflight := [], owed := [] }, xfifos := tdel s.xfifos k }) s
  { s with msgs := s.msgs.map fun m => if m.2.unit = some ui then (m.1, { m.2 with toks := [], entered := true }) else m }

/-- Messages of a squashed unit (R207 step 1, R89): SQUASHED, with no full result to come, or a full result that is taken as CONFIRM. -/
def squashMsgs (s : State) (ui cause : Nat) : State × Nat :=
  (unitMsgs s ui).foldl (fun acc m =>
    if hasFinal m.2 then acc
    else if m.2.acted then (confirmFull acc.1 m.1, acc.2)
    else (unjudge (modMsg acc.1 m.1 fun m => { m with fullDone := true }) m.1 cause, acc.2 + 1)) (s, 0)

/-- An instance reset counts what it squashes (R495). -/
def countReset (s : State) (inst msgs : Nat) : State :=
  modInst s inst fun i => { i with proc := i.proc.map fun p =>
    { p with messages := p.messages + msgs, unitsSquashed := p.unitsSquashed + 1 } }

/-- The swap gap G (R210 step 1): the largest D of the old unit less the least U of the new over the shared clusters, plus 1. -/
def swapGap (old new : MUnit) : Nat :=
  ((old.clusters.filter new.clusters.contains).map fun c =>
    let d := ((old.profile.filter (·.cluster = c)).map (·.d)).foldl max 0
    let us := (new.profile.filter (·.cluster = c)).map (·.u)
    match us with | [] => 0 | x :: t => d + 1 - t.foldl min x).foldl max 0

/-- Can a window of a message, its full model's and a replay of it into C included, still enter (R93, R210 step 2)? -/
def windowLive (u : MUnit) (id : Nat) (m : Message) : Bool :=
  let replay := (u.guard && !m.acted && m.cDue.isNone) || (m.guardRetry && m.toks.any fun t => bit t.2.1 2)
  m.started && (!m.entered || fullEntering u m || replay) && (m.unjudged.isNone || (tvals u.awaits).any (·.contains id))

/-- E is known (R210 step 2): no window of the old unit can still enter. -/
def entryKnown (s : State) (ui : Nat) (u : MUnit) : Bool :=
  ((unitMsgs s ui).all fun m => !windowLive u m.1 m.2) && (coming s ui).all fun m => !m.2.started

/-- S is fixed (R210 steps 2-4): the new unit's windows enter from S on, and its clusters switch. -/
def swapEntry (s : State) (ui : Nat) : State :=
  match getUnit s ui with
  | none => s
  | some u =>
    match u.swap with
    | none => s
    | some w =>
      if w.entry.isSome || w.atRound then s
      else
        let e := (tvals u.lastEntry).foldl max ((u.drain.map fun d => d.began / coreCycle).getD (cycleOf s))
        let at_ := e + w.gap
        let s := modUnit s ui fun u => { u with swap := some { w with entry := some at_ } }
        match getUnit s w.newUnit with
        | none => s
        | some v =>
          let s := modUnit s w.newUnit fun v => { v with gateUntil := some [at_] }
          v.clusters.foldl (fun s c =>
            setPattern s c (if u.clusters.contains c then at_ + profileU v c else at_) (unitPattern v)) s

/-- The SWAP of a generation unit that waits for its round start (R264). -/
def waitingSwap (u : MUnit) : Option Nat := (u.swap.filter (·.atRound)).bind (·.cmd)

/-- A SWAP that waits for a round start that will not come ends with a status (R209, R214). -/
def endSwap (s : State) (ui st : Nat) : State :=
  match (getUnit s ui).bind waitingSwap with
  | some c => finishCmd? (modUnit s ui fun u => { u with swap := none }) (some c) st []
  | none => s

/-- Squash (R207): messages, tokens, the event bit, and the scrub. -/
def squashUnit (s : State) (ui : Nat) : State :=
  match getUnit s ui with
  | none => s
  | some u =>
    if u.scrub.isSome then s
    else
      let more := (coming s ui).length
      let (s, n) := squashMsgs (if u.kind = 1 then closeAllSlots s ui stSquashed else s) ui 5
      let n := n + more
      let s := regAdd (regAdd s shfSquashTokens (unitTokens s ui u)) shfSquashMsgs n
      let s := countReset (regOr (discardTokens s ui u) shfEvent 1) u.owner n
      let cmd := match u.loadCmd with | some c => some c | none => u.drain.bind (·.cmd)
      let s := if cmd.isSome then endSwap s ui stSquashed else s
      let cmd := match cmd, waitingSwap u with | some c, _ => some c | none, w => w
      let s := swapEntry s ui
      let s := startScrub (modUnit s ui fun u => { u with squashed := true, msgsSquashed := n, st := if u.st = .fired then .cooling else u.st,
                                                           coolingAt := if u.st = .fired then some s.now else u.coolingAt }) ui cmd stSquashed
      let s := match u.arm with
        | some a => modArm s a fun k => { k with stopping := k.stopping.map fun x => (x.1, true) }
        | none => { s with armStops := s.armStops.map fun x => if x.2.1.contains ui then (x.1, x.2.1, true) else x }
      leavePatterns s ui u

/-- A drain is complete (R206, R208, R181): back to BISQUE, or the scrub to EMPTY starts, as in its owner's reset where no armature holds it any
more (R495). -/
def finishDrain (s : State) (ui : Nat) (u : MUnit) (d : Drain) : State :=
  let s := endSwap (leavePatterns (swapEntry s ui) ui u) ui stStateConflict
  if d.toBisque && !d.wdog && !u.squashed && !(u.arm.isNone && ownerDrains s u) then
    let s := modUnit s ui fun u => { u with st := .bisque, coolingAt := none, drain := none, swap := none }
    stopsOver (finishCmd? s d.cmd stOK []) u
  else startScrub s ui d.cmd stOK

/-- Every register, counter, store, queue and SRAM byte of a unit's shelves is zero (R182). -/
def scrubCells (s : State) (u : MUnit) : State :=
  let cells := unitCells u
  { s with cores := s.cores.filter fun x => !(cells.contains (x.1 / 4, x.1 % 4)),
           inqs := s.inqs.filter fun x => !(cells.contains (x.1 / 16, x.1 % 4)) || x.2.frozen,
           xfifos := s.xfifos.filter fun x => !(cells.contains (x.1 / 16, x.1 % 4)),
           joinSince := s.joinSince.filter fun x => !(cells.contains (x.1 / 1024, x.1 / 256 % 4)),
           joinDone := s.joinDone.filter fun x => !(cells.contains (x.1 / 1024, x.1 / 256 % 4)),
           csram := s.csram.filter fun x => !ownsCoreByte u x.1,
           clsram := s.clsram.filter fun x => !ownsClusterByte u x.1,
           clPend := s.clPend.filter fun w => !ownsClusterByte u (w.cluster * 2 ^ 20 + w.addr) }

/-- A LEAVING cluster with no unit left is scrubbed, then free (R485, R487). -/
def releaseLeaving (s : State) (cs : List Nat) : State :=
  cs.foldl (fun s c =>
    if (getCluster s c).leaving && !((tvals s.units).any fun u => u.clusters.contains c) then
      modCluster s c fun k => { k with scrub := some s.now }
    else s) s

/-- Does a unit use a column from a row on under the unshifted setting (R527)? -/
def usesUnshifted (u : MUnit) (x : Shift) : Bool :=
  u.clusters.any fun c => !colShifted u c && dieOfCluster c = x.die && c % 16 = x.column && x.row ≤ c % 320 / 16

/-- A frame being received whose first byte came while a unit was FIRED keeps the unit's bindings: its message still belongs to that
unit (R49). -/
def keepBindings (s : State) (ui : Nat) (u : MUnit) : State :=
  let more : List (Nat × Nat × Binding) := if u.arm.isSome then [] else u.bindings.map fun k => (u.owner, ui, k)
  let keep := fun (f : RxFrame) => if (f.fired.any fun x => x.2 = ui) then { f with kept := f.kept ++ more } else f
  { s with ports := s.ports.map fun x => (x.1, { x.2 with rx := x.2.rx.map keep }) }

/-- A SWAP that waits for a round start to fire a unit that is gone by then ends with STATE_CONFLICT (DEDUCED; log entry 98). -/
def endSwapsTo (s : State) (ni : Nat) : State :=
  (s.units.filter fun o => o.2.swap.any fun w => w.atRound && w.newUnit = ni).foldl (fun s o => endSwap s o.1 stStateConflict) s

/-- A unit reaches EMPTY (R178, R182): it no longer exists, its clusters and power are released, its command completes. -/
def emptyUnit (s : State) (ui : Nat) (u : MUnit) (cmd : Option Nat) (st : Nat) : State :=
  let s := endSwapsTo (scrubCells s u) ui
  let s := keepBindings { s with units := tdel s.units ui } ui u
  let s := { s with shiftPend := s.shiftPend.map fun x => if usesUnshifted u x then { x with moved := x.moved + 1 } else x }
  let s := releaseLeaving s u.clusters
  finishCmd? (stopsOver s u) cmd st [(0, 4, u.msgsSquashed)]

-- ------------------------------------------------------------------ the loss of a die in this cycle (R214)

/-- Is the die powered, and not lost yet? It can be lost before the array reports READY, too. -/
def dieAlive (s : State) (die : Nat) : Bool := die < 4 && (s.dieRail.getLsbD die || s.dieUp.getLsbD die) && !s.dieLost.getLsbD die

/-- Is a die that a unit uses lost in this instant? The unit is then marked RETIRED before any command on it or drain of it is settled (R214). -/
def lossComing (s : State) (u : MUnit) : Bool :=
  s.pending.any fun c => match c with | .domainLoss d => dieAlive s d && u.clusters.any fun k => dieOfCluster k = d | _ => false

-- ------------------------------------------------------------------ located faults (R509-R512)

/-- A unit holds a located fault that names copies (R509): a guarded unit sets them aside, or is squashed if a lane then lacks two;
any other unit is squashed. The answer carries ACTION of R524. -/
def holdFault (s : State) (ui : Nat) (named : List (Nat × Nat)) : State × Nat :=
  match getUnit s ui with
  | none => (s, 0)
  | some u =>
    if u.guard && u.st ≠ .green then
      if named = [] then (s, 0)
      else
        let all := (u.aside ++ named).dedup
        if all.any fun x => 2 ≤ all.countP fun y => y.1 = x.1 then (regOr (squashUnit s ui) fltEvent 6, 2)
        else (named.foldl (fun s x => setAside s ui x.1 x.2) s, 1)
    else (regOr (squashUnit s ui) fltEvent 4, 2)

/-- Copies of a unit whose core set holds a core (R509). -/
def copiesAt (u : MUnit) (core : Nat) : List (Nat × Nat) :=
  (u.copies.filter fun c => c.cores.contains core).map fun c => (c.lane, c.copy)

/-- Copies of a unit that use a link into a core (R509). -/
def copiesOn (u : MUnit) (core dir : Nat) : List (Nat × Nat) :=
  (u.copies.filter fun c => c.links.contains (core, dir)).map fun c => (c.lane, c.copy)

/-- A unit in a state in which it can hold a fault (R598). -/
def faultable (u : MUnit) : Bool := !u.retired && u.scrub.isNone

/-- Units concerned by a fault at a core and shelf: their placement uses that core (R509). -/
def unitsAtCore (s : State) (core shelf : Nat) : List (Nat × List (Nat × Nat)) :=
  s.units.filterMap fun u =>
    if faultable u.2 && u.2.clusters.contains (clusterOf core) && u.2.shelves.contains shelf
        && (u.2.st = .green || u.2.configs.any fun g => g.core = core) then
      some (u.1, copiesAt u.2 core)
    else none

/-- Units whose routes or emissions use a link into a core (R509). -/
def unitsOnLink (s : State) (core dir : Nat) : List (Nat × List (Nat × Nat)) :=
  s.units.filterMap fun u =>
    if faultable u.2 && u.2.copies.any fun c => c.links.contains (core, dir) then some (u.1, copiesOn u.2 core dir) else none

/-- Every unit concerned takes its fault; the greatest ACTION, the units' owners and the first unit. -/
def holdFaults (s : State) (us : List (Nat × List (Nat × Nat))) : State × Nat :=
  us.foldl (fun acc x =>
    let r := holdFault acc.1 x.1 x.2
    (r.1, max acc.2 r.2)) (s, 0)

def ownersOf (s : State) (us : List (Nat × List (Nat × Nat))) : List Nat :=
  us.filterMap fun x => (getUnit s x.1).map (·.owner)

/-- A FAULT report (R524). -/
def faultReport (cls action kind copy chan unit shelf events addr : Nat) (owners : List Nat) : Report :=
  { code := evFault, origin := [cls, kind, chan], cls := cls, chan := chan, chanKind := kind,
    status := if action = 3 then stRetired else if action = 2 then stSquashed else if cls = 1 then stIntegrity else stOK,
    detail := [(0, 1, cls), (1, 1, action), (2, 1, kind), (3, 1, copy), (4, 4, chan), (8, 2, unit), (10, 1, shelf),
               (11, 1, min 255 events), (12, 8, addr)],
    owners := owners }

end Sys2Proof.Machine
end

