-- ==== Sys2Proof/Machine/Operands.lean ====
section
/-! DEFINITION. How a command's operands are read: the fields of ARGS and of an argument block (R458, R461), the bits a doorbell
and a register write carry (R433, R564). -/

namespace Sys2Proof.Machine

open Sys2Proof

/-- n bytes of ARGS from an offset, the first the least significant (R2, R461). -/
def argN (d : Cmd) (off n : Nat) : Nat := le d.args off n

/-- The same of the argument block at BUF_ADDR. -/
def bufN (d : Cmd) (off n : Nat) : Nat := le d.buf off n

/-- A unit named in ARGS at an offset (R461). -/
def argUnit (d : Cmd) (off : Nat) : Nat := argN d off 2

/-- Every byte of ARGS that a command does not name, and the descriptor's reserved bytes, are zero (R5, R461). -/
def argsOnly (d : Cmd) (used : List (Nat × Nat)) : Bool := cmdReservedOk d used

/-- Bytes of the argument block that a layout does not name are zero (R5). -/
def bufOnly (d : Cmd) (len : Nat) (used : List (Nat × Nat)) : Bool :=
  (List.range len).all fun i => used.any (fun u => u.1 ≤ i && i < u.1 + u.2) || byteAt d.buf i = 0

/-- The low and high words of an 8-byte access (R564). -/
def loWord (v : DWord) : Nat := v.toNat % 2 ^ 32
def hiWord (v : DWord) : Nat := v.toNat / 2 ^ 32

/-- Does an instance own a PASID on a link (R430, R479)? -/
def ownsPasidOn (s : State) (inst link pasid : Nat) : Bool := pasidOf (getInst s inst) link = some pasid

end Sys2Proof.Machine
end

