-- ==== Sys2Proof/Machine/Flags.lean ====
section
/-! DEFINITION. What a read of a set-up register returns (R564, R565, R568): the stored registers, and the status registers that
follow from other state. Reads have no side effect (R7). -/

namespace Sys2Proof.Machine

open Sys2Proof

-- ------------------------------------------------------------------ conditions shown in status registers

/-- OVERCOMMIT (R36). -/
def overcommit (s : State) : Bool := regBits s pwrLimit 9 0 * 1000 < committedPower s

/-- POOL_OVERCOMMIT (R198). -/
def poolOvercommit (s : State) : Bool := regBits s shfStreamPool 11 0 < reservedBwAll s

/-- Every port of the split is READY (R545). -/
def portsReady (s : State) : Bool := (portsOf s).all (portReady s)

/-- A back-pressure location or a crossing delay is in force (R548, R550). -/
def arrayPerturbed (s : State) : Bool :=
  regBit s tstCtrl 0 && ((List.range 4).any (fun n => regBit s (tstBp + 8 * n) 31) || regRaw s tstXingDelay ≠ 0)

/-- Dies on which a back-pressure location or a nonzero crossing delay is in force (R553): a location's die, a ring link's two. -/
def perturbedDies (s : State) : List Nat :=
  if regBit s tstCtrl 0 then
    ((List.range 4).filter fun n => regBit s (tstBp + 8 * n) 31).map (fun n => regBits s (tstBp + 8 * n) 14 0 / 5120)
    ++ ([(0, 0, 1), (1, 1, 3), (2, 3, 2), (3, 2, 0)].filter fun l => regBits s tstXingDelay (8 * l.1 + 7) (8 * l.1) ≠ 0).flatMap fun l =>
      [l.2.1, l.2.2]
  else []

/-- A perturbation or a loopback is in force (R548, R555). -/
def perturbed (s : State) : Bool :=
  (List.range 16).any (fun p => portLoop s p ≠ 0)
  || (regBit s tstCtrl 0 && (arrayPerturbed s || (List.range 16).any fun p => stretchNs s p ≠ 0
      || (bits (regRaw s (tstTsJitter + 4 * p)) 7 0 ≠ 0 && bits (regRaw s (tstTsJitter + 4 * p)) 9 8 ≠ 0)))

def tbCode : TbState → Nat
  | .free => 0
  | .acquiring => 1
  | .locked => 2
  | .holdover => 3
  | .grandmaster => 4

/-- The magnitude of the offset estimate in 2^-16 ns; a grandmaster's is zero (R407). -/
def offsetMag (s : State) : Nat := if s.tb.st = .grandmaster then 0 else s.tb.offset.natAbs

/-- An armature's time condition (R303). -/
def timeOk (s : State) (a : Armature) : Bool :=
  ((s.tb.st = .locked || s.tb.st = .grandmaster) && offsetMag s ≤ a.plan.timeBound * 65536)
  || (s.tb.st = .holdover && s.tb.holdErr < a.plan.sMin / 4)

-- ------------------------------------------------------------------ calibration (R412, R424, R532-R534)

/-- A sum of factory and user codes, clamped to a field (R532). -/
def effCode (lo hi : Int) (f u : Int) : Int := clampI lo hi (f + u)

/-- The effective value of a CAL_ register's group at its FACTORY offset: transmit taps, receive codes, thermal offset. -/
def effTx (f u : Nat) : Nat :=
  ([0, 8, 16].map fun b => twos 6 (effCode 0 63 (bits f (b + 5) b : Nat) (sgn 6 (bits u (b + 5) b))) * 2 ^ b).sum

def effRx (f u : Nat) : Nat :=
  twos 8 (effCode (-128) 127 (sgn 8 (bits f 7 0)) (sgn 8 (bits u 7 0)))
  + twos 5 (effCode 0 31 (bits f 12 8 : Nat) (sgn 5 (bits u 12 8))) * 256

def effTh (f u : Nat) : Nat := twos 8 (effCode (-128) 127 (sgn 8 (bits f 7 0)) (sgn 8 (bits u 7 0)))

/-- The bits of an OTP register that are not reserved (R534, R535). -/
def otpMask (off : Nat) : Nat :=
  if off < 0x10A0 then (match off % 0x20 / 4 with | 2 => 0xFF | 3 => 0xFFFF | _ => 0xFFFFFFFF)
  else if off < 0x2000 then 0xFFFFFFFF
  else if off < 0x2200 then (if off % 0x20 < 0xC then 0x3F3F3F else 0x1FFF)
  else if 0x2600 ≤ off ∧ off < 0x2880 then 0xFF
  else 0xFFFFFFFF

/-- A factory value from OTP; its reserved bits read zero (R4). -/
def otpReg (off : Nat) : Nat := (Config.otp off 0).toNat &&& otpMask off

/-- The CAL_ registers that hold no stored value. -/
def calLive (s : State) (off : Nat) : Option Nat :=
  let o := off - 0x2000
  if o < 0x200 then
    match o % 0x20 / 4 with
    | 0 => some (otpReg off)
    | 2 => some (effTx (otpReg (off - 8)) (regRaw s (off - 4)))
    | 3 => some (otpReg off)
    | 5 => some (effRx (otpReg (off - 8)) (regRaw s (off - 4)))
    | _ => none
  else if 0x400 ≤ o ∧ o < 0x600 then
    let p := (o - 0x400) / 0x20
    let r := rateCode (getPort s p).lanes
    match o % 0x20 / 4 with
    | 0 => some (Config.otp (calTs p 0) r).toNat
    | 2 => some (twos 32 (stampCorr s p 0))
    | 3 => some (Config.otp (calTs p 3) r).toNat
    | 5 => some (twos 32 (stampCorr s p 3))
    | _ => none
  else if 0x600 ≤ o ∧ o < 0x880 then
    match o % 0x10 / 4 with
    | 0 => some (otpReg off)
    | 2 => some (effTh (otpReg (off - 8)) (regRaw s (off - 4)))
    | _ => none
  else none

-- ------------------------------------------------------------------ the status registers, block by block

def glbLive (s : State) (off : Nat) : Option Nat :=
  if off = glbReady then some (putBits (regRaw s glbReady) 10 10 (b2n (portsReady s)))
  else if off = glbMboxResp then
    some (if ready s rdyMgmt && !s.mgmt.restarting then putBits (regRaw s glbMboxResp) 16 16 (b2n s.mgmt.mbox.isSome) else stNotReady)
  else none

def timLive (s : State) (off : Nat) : Option Nat :=
  if off = timStatus then
    some (b2n (ready s rdyTim) + tbCode s.tb.st * 2 + s.tb.master.getD 0 * 16 + b2n s.tb.master.isSome * 256)
  else if off = timOffset then
    some (if s.tb.st = .grandmaster then 0 else twos 32 (clampI (-(2 ^ 31)) (2 ^ 31 - 1) s.tb.offset))
  else if off = timFreqAdj then some (twos 32 (s.tb.adj * (10 ^ 9 * 1024) / 2 ^ 48))
  else if off = timFreqUnc then some (min 0xFFFFFFFF s.tb.freqUnc)
  else if off = timHoldErr then some (if s.tb.st = .holdover then s.tb.holdErr else 0)
  else none

def degByte (x : Nat) : Nat := min 255 x

def pwrLive (s : State) (off : Nat) : Option Nat :=
  if off = pwrCommitted then some (committedPower s)
  else if off = pwrStatus then some (putBits (regRaw s pwrStatus) 0 0 (b2n (overcommit s)))
  else if off = pwrTempMax then some (((List.range 4).map fun d => degByte (tgetD s.temps d 0) * 256 ^ d).sum)
  else if off = pwrTempIod then some (degByte (tgetD s.temps 4 0))
  else none

def stCode (u : MUnit) : Nat :=
  if u.retired then 5 else match u.st with | .green => 1 | .bisque => 2 | .fired => 3 | .cooling => 4

def patternFields (p : Pattern) : Nat :=
  match p with
  | .idle => 0
  | .single k => k * 2 ^ 12 + 1 * 2 ^ 14
  | .fold f ks => ks.headD 0 * 2 ^ 12 + 2 * 2 ^ 14 + (f - 1) * 2 ^ 16

/-- SHF_STATUS counts the units that exist: none does until its LOAD succeeds (R177, R216). -/
def shfLive (s : State) (off : Nat) : Option Nat :=
  let c := regBits s shfClusterSel 10 0
  let on := fun k => unitAt s c k
  if off = shfStatus then some (b2n (ready s rdyShf) + (s.units.countP fun u => u.2.st ≠ .green) * 2)
  else if off = shfStreamReserved then some (reservedBwAll s)
  else if off = shfEvent then some (putBits (regRaw s shfEvent) 4 4 (b2n (poolOvercommit s)))
  else if off = shfClusterState then
    some (((List.range 4).map fun k => ((on k).map fun u => stCode u.2).getD 0 * 8 ^ k).sum
      + patternFields (patternAt s c (cycleOf s)) + b2n (getCluster s c).retired * 2 ^ 18
      + ((getCluster s c).owner).getD 0 * 2 ^ 19)
  else if off = shfClusterUnits then
    some (((List.range 4).map fun k => ((on k).map fun u => u.1 % 256).getD 0xFF * 256 ^ k).sum)
  else if off = shfClusterUnitsHi then
    some (((List.range 4).map fun k => ((on k).map fun u => u.1 / 256 * 4 ^ k + 2 ^ (8 + k)).getD 0).sum)
  else none

def armLive (s : State) (off : Nat) : Option Nat :=
  if off = armStatus then
    some (b2n (ready s rdyArm) + (s.arms.map fun a =>
      b2n (a.2.st = .running) * 2 ^ (1 + a.1) + b2n (timeOk s a.2) * 2 ^ (5 + a.1)
      + b2n (a.2.shards.any fun h => h.2.promoted && a.2.plan.shards.any fun x => x.num = h.1 && x.standby = a.2.member)
        * 2 ^ (9 + a.1)).sum)
  else if off = armHoldLimit then
    some ((s.arms.foldl (fun m a => match m with | none => some a.2.plan.sMin | some x => some (min x a.2.plan.sMin)) none).getD 0 / 4 % 65536)
  else none

def insLive (s : State) (off : Nat) : Option Nat :=
  let n := regBits s insSel 9 0
  let i := getInst s n
  if off = insStatus then some (b2n (ready s rdyIns) + (s.instances.filter fun x => x.2.st ≠ .free).length * 2)
  else if off = insFreeClusters then
    some ((List.range 1280).countP fun c => (getCluster s c).owner.isNone && (getCluster s c).scrub.isNone)
  else if off = insFreeBlocks then some s.freeBlocks.length
  else if off = insScrubPending then some (s.hbmJobs.flatMap (·.blocks)).dedup.length
  else if off = insSelState then
    some ((match i.st with | .free => b2n (n = 0) | .active => 1 | .resetting => 2 | .destroying => 3) + i.home * 4
      + b2n i.log0.isSome * 8 + b2n i.log1.isSome * 16 + b2n ((i.log0.map (·.writingB)).getD false) * 32
      + b2n ((i.log1.map (·.writingB)).getD false) * 64
      + (s.clusters.filter fun c => c.2.owner = some n).length * 2 ^ 7
      + ((tvals s.regions).filter (·.owner = n)).foldl (fun a r => a + r.blocks.length) 0 * 2 ^ 18)
  else none

/-- Shifted columns of a die: from OTP or the repair log (R20, R536). -/
def shiftedColumns (s : State) (d : Nat) : Nat :=
  (List.range 16).countP fun cx => (Config.factoryShift d cx).isSome || (tget s.shifts (d * 16 + cx)).isSome

def fltLive (s : State) (off : Nat) : Option Nat :=
  if off = fltStatus then
    some (b2n (ready s rdyFlt) + b2n s.mgmt.restarting * 2 + b2n s.mgmt.recovery * 4 + b2n (256 ≤ s.witness.length) * 8)
  else if off = fltSpareUsed then some (((List.range 4).map fun d => shiftedColumns s d * 256 ^ d).sum)
  else if off = fltHbmRemap then
    some (((List.range 2).map fun h => (min 3 (s.remaps.filter fun r => r.1 / 64 = h).length) * 4 ^ h).sum)
  else if off = fltPllStandby then some s.pllStandby.toNat
  else if off = fltShiftPending then
    some (match s.shiftPend with | [] => 0 | x :: _ => x.die * 320 + x.row * 16 + x.column + 2 ^ 31)
  else if off = fltFwVersion then some s.mgmt.fwVersion.toNat
  else none

def macLive (s : State) (p o : Nat) : Option Nat :=
  let q := getPort s p
  if o = 0 then
    some (b2n (portReady s p) + b2n q.linkUp * 2
      + (match q.lanes with | 1 => 1 | 2 => 2 | 4 => 3 | 8 => 4 | _ => 0) * 4
      + (if q.linkUp then rateCode q.lanes else 0) * 32 + 256 + b2n q.lpiTx * 512 + b2n q.lpiRx * 1024
      + b2n (q.sfRx || q.sfTx) * 2048)
  else if o = 0x20 then
    some (((List.range 8).map fun c => b2n (held s p c) * 2 ^ c + b2n (xoffOn s p c) * 2 ^ (16 + c)).sum
      + regBits s (macFcStatus p) 15 8 * 256)
  else none

def gateLive (s : State) (p o : Nat) : Option Nat :=
  let q := getPort s p
  let ch := match q.pendGate with | some x => some x.2 | none => none
  if o = 0 then
    some (b2n q.oper.en + b2n q.pendGate.isSome * 2 + q.oper.entries.length * 4 + (armWins s p).length % 2048 * 2 ^ 13)
  else if o = 0x18 then some q.oper.cycle
  else if o = 0x20 then some (q.oper.base % 2 ^ 32)
  else if o = 0x24 then some (q.oper.base / 2 ^ 32 % 2 ^ 32)
  else if o = 0x28 then ch.map (· % 2 ^ 32)
  else if o = 0x2C then ch.map fun t => t / 2 ^ 32 % 2 ^ 32
  else if 0x3000 ≤ o ∧ o < 0x5000 then
    some (match q.oper.entries[(o - 0x3000) / 8]? with
      | some e => if o % 8 = 0 then e.1.toNat else e.2
      | none => 0)
  else none

/-- A status register that follows from other state. -/
def liveReg (s : State) (off : Nat) : Option Nat :=
  if off < 0x1000 then glbLive s off
  else if off < 0x2000 then if off = 0x10C0 then none else some (otpReg off)
  else if off < 0x3000 then calLive s off
  else if off < 0x4000 then timLive s off
  else if off < 0x5000 then pwrLive s off
  else if off = arrStatus then some (b2n (ready s rdyArr) + s.dieUp.toNat * 2)
  else if off < 0x6000 then none
  else if off < 0x7000 then shfLive s off
  else if off < 0x8000 then armLive s off
  else if off < 0x9000 then insLive s off
  else if off < 0xA000 then fltLive s off
  else if off = tstStatus then some (b2n (ready s rdyTst) + b2n (perturbed s) * 2 + b2n (arrayPerturbed s) * 4)
  else if off = wgtStatus then some (b2n (ready s rdyWgt) + ((tvals s.qps).filter (·.live)).length * 2)
  else if off = wgtRxBufUsed then some (ceilDiv s.rxBufUsed 1024 % 65536)
  else if off = wgtPeers then some s.peers.length
  else if off = shpStatus then some (b2n (ready s rdyShp) + b2n s.tlmOn * 2)
  else if 0x20000 ≤ off ∧ off < 0x30000 then macLive s ((off - 0x20000) / 0x1000) (off % 0x1000)
  else if 0x100000 ≤ off then gateLive s ((off - 0x100000) / 0x8000) (off % 0x8000)
  else none

/-- A read of a register (R564, R565, R568): zero at a reserved offset or for a port that does not exist, and for a value from OTP
before its block reports READY. -/
def readReg (s : State) (off : Nat) : Nat :=
  match regDesc off with
  | none => 0
  | some _ =>
    if ((regPort off).map (portExists s)).getD true then
      match liveReg s off with
      | some v => if off ≥ 0x1000 && off < 0x3000 && !blockReady s off then 0 else v
      | none => regRaw s off
    else 0

end Sys2Proof.Machine
end

