-- ==== Sys2Proof/Machine/Schedule.lean ====
section
/-! DEFINITION. The schedule model of the loader (R165-R170, R203, R231, R232, R259, R291): a run of the placement alone on an
otherwise empty array, with the figures it gives, the forks and short paths of its joins, and the status of verification (R191). Log entry 9
says what the run assumes. -/

namespace Sys2Proof.Machine

open Sys2Proof

-- ------------------------------------------------------------------ writing a placement

/-- A route byte with EMIT_SHELF as an absolute shelf (R153, R226). -/
def absRoute (shelves : List Nat) (b : Byte) : Byte :=
  BitVec.ofNat 8 (putBits b.toNat 5 4 (shelves.getD (bits b.toNat 5 4) 0))

def listTable {α : Type} (l : List α) : Table α := (List.range l.length).zip l

/-- The state of a core and shelf as a CORE_CONFIG record gives it (R226). -/
def coreOf (u : MUnit) (g : CoreConfig) : CoreShelf :=
  { regs := (listTable g.regs).filterMap fun r => if r.2 % 2 ^ 64 = 0 then none else some (r.1, BitVec.ofNat 64 r.2),
    counters := (listTable g.counters).map fun c => (c.1, (BitVec.ofNat 32 c.2.1, BitVec.ofNat 32 c.2.2)),
    ops := (listTable g.ops).map fun o => (o.1, BitVec.ofNat 128 o.2),
    route := listTable (g.route.map (absRoute u.shelves)),
    csBase := g.csBase, csSize := g.csSize, clBase := g.clBase, clSize := g.clSize, shifted := colShifted u (clusterOf g.core) }

/-- Writes bytes into a memory whose unlisted bytes are zero. -/
def fillBytes (t : Table Byte) (at_ : Nat) (data : Bytes) : Table Byte :=
  ((List.range data.length).zip data).foldl (fun t x => tsetD t (at_ + x.1) 0#8 x.2) t

-- ------------------------------------------------------------------ the run

/-- Tokens that wait at an entry link: core, side, and each token with its window. -/
structure SchedFeed where
  chan : Nat
  core : Nat
  side : Nat
  toks : List (Nat × Token)
  deriving DecidableEq, Repr

/-- A run of the schedule: the array, what still waits at the entry links, and what was seen. -/
structure Sched where
  s : State
  feeds : List SchedFeed
  /-- (window, channel, cycle) of each entry, the latest first -/
  entered : List (Nat × Nat × Nat) := []
  /-- (core, shelf, store entry, cycle) of each firing, the latest first -/
  fires : List (Nat × Nat × Nat × Nat) := []
  /-- those of them that emitted a token -/
  sent : List (Nat × Nat × Nat × Nat) := []
  /-- for each cluster the first and the last cycle in which it held something -/
  held : Table (Nat × Nat) := []
  /-- the joins that are watched, as (core, shelf, store entry), and the first cycle in which each of their sources had a token: with the number of
  the source, A, B or C -/
  watch : List (Nat × Nat × Nat) := []
  came : List ((Nat × Nat × Nat) × Nat × Nat) := []

/-- Tokens of one extractor step on a channel, for a window of zero bytes. -/
def schedStepToks (k : ExtStep) : List Token :=
  if k.step = 6 then [{ payload := dw k.arg, kind := .mark, chan := k.chan }]
  else (List.range (stepTokens k)).map fun _ => { chan := k.chan }

/-- The tokens of some windows on a channel, in extractor order, each window with its closing MARK (R51). -/
def chanToks (steps : List ExtStep) (chan windows : Nat) : List (Nat × Token) :=
  (List.range windows).flatMap fun w =>
    let ks : List Token := (steps.filter fun k => k.chan = chan).flatMap schedStepToks ++ [{ kind := .mark, chan := chan }]
    ks.map fun k => (w, k)

/-- The entry links of a copy with the tokens of some windows. -/
def windowFeeds (p : Place) (lane copy : Nat) (steps : List ExtStep) (windows : Nat) : List SchedFeed :=
  (p.io.filter fun i => i.dir = 0 && i.lane = lane && i.copy = copy).map fun i =>
    { chan := i.chan, core := i.core, side := i.side, toks := chanToks steps i.chan windows }

/-- The entry links of a generation placement with sampling turns at a position (R260), each one token on either channel. -/
def turnFeeds (p : Place) (pos turns : Nat) : List SchedFeed :=
  (p.io.filter fun i => i.dir = 0).map fun i =>
    { chan := i.chan, core := i.core, side := i.side,
      toks := (List.range turns).map fun w =>
        (w, { payload := if i.chan = 0 then dw (pos * 2 ^ 32 + 2 ^ 49 + 2 ^ 50) else 0, chan := i.chan }) }

/-- The placement alone on an empty array: its records and weights on the relative shelves, and a unit that keeps its exit tokens. -/
def schedState (b : Bytes) (v : Variant) (p : Place) : State :=
  let u : MUnit := { st := .bisque, shelves := List.range v.fold, clusters := v.clusters, lanes := v.lanes, io := v.io }
  let s := (tvals p.cfg).foldl (fun s g => { s with cores := tset s.cores (csKey g.core g.shelfRel) (coreOf u g) })
    { State.reset with units := [(0, u)] }
  (imgWeights b v.code).foldl (fun s r =>
    let w := r.2
    if w.target = 0 then { s with csram := fillBytes s.csram (w.loc * 2 ^ 16 + (p.partOf w).1 + w.offset) w.data }
    else { s with clsram := fillBytes s.clsram (w.loc * 2 ^ 20 + (p.partOf w).1 + w.offset) w.data }) s

/-- Up to n tokens enter from one entry link in a cycle, in order, under the entry queue's credits (R161). -/
def schedEnter (t : Nat) : Nat → SchedFeed → Sched → Sched
  | 0, f, x => { x with feeds := x.feeds ++ [f] }
  | n + 1, f, x =>
    match f.toks with
    | [] => { x with feeds := x.feeds ++ [f] }
    | (w, k) :: rest =>
      if x.s.noStall || 0 < queueCredit (settleQ t (getQ x.s f.core f.side 0)) t then
        schedEnter t n { f with toks := rest }
          { x with s := modQ x.s f.core f.side 0 fun q => { q with inflight := insDue (t + 1) k q.inflight },
                   entered := (w, f.chan, t) :: x.entered }
      else { x with feeds := x.feeds ++ [f] }

/-- Does a core hold something in flight after its cycle: an operation that has not completed, or a token on its way out? -/
def coreBusy (s : State) (core fold t : Nat) : Bool :=
  (List.range fold).any fun k =>
    ((getCs s core k).pend.any fun p => t < p.due)
    || (List.range 4).any fun d =>
      match linkEnd core d with
      | .core g => (getQ s g (oppDir d) k).inflight.any fun x => t < x.1
      | .cross g => (tgetD s.xfifos (qKey g (oppDir d) k) {}).toks.any fun x => t ≤ x.1
      | .io => (tgetD s.exitSlots (core * 4 + d) []).any (t ≤ ·)

/-- Does a core's queue hold a token? -/
def coreQueued (s : State) (core fold : Nat) : Bool :=
  (List.range fold).any fun k => (List.range 4).any fun d => !(getQ s core d k).toks.isEmpty

def noteHeld (h : Table (Nat × Nat)) (c t : Nat) : Table (Nat × Nat) :=
  match tget h c with
  | some x => tset h c (x.1, t)
  | none => tset h c (t, t)

/-- Notes the sources of the watched joins of a core that have a token for the first time. -/
def noteCame (s : State) (core t : Nat) (x : Sched) : Sched :=
  (x.watch.filter (·.1 = core)).foldl (fun x j =>
    ((qSources (opDecode (tgetD (getCs s core j.2.1).ops j.2.2 0))).filter fun q => srcMarked q.2.1).foldl (fun x q =>
      if (tokAt s core j.2.1 q).isSome && !x.came.any (fun k => k.1 = j && k.2.1 = q.1) then { x with came := x.came ++ [(j, q.1, t)] } else x) x) x

/-- One core's cycle in the run, with the shelf active in it. -/
def schedCore (fold shelf t : Nat) (x : Sched) (core : Nat) : Sched :=
  let x := if x.watch = [] then x else noteCame (routeCore x.s core t) core t x
  let queued := coreQueued (settleCore x.s core t) core fold
  let s := routeCore (settleCluster x.s t) core t
  let x := match pickOn s core t shelf with
    | none => { x with s := s }
    | some (k, e, f, m) =>
      let y := fireOp s core k e t f m
      { x with s := applyFiring s core k e t f y false, fires := (core, k, e, t) :: x.fires,
               sent := if y.toks = [] && y.alt = [] then x.sent else (core, k, e, t) :: x.sent }
  if queued || coreBusy x.s core fold t then { x with held := noteHeld x.held (clusterOf core) t } else x

/-- One cycle of the run: crossings at a latency, entries, then every core; a is the alignment to the fold epoch (R199). -/
def schedCycle (cores : List Nat) (fold lat a : Nat) (x : Sched) : Sched :=
  let t := cycleOf x.s
  let s := cores.foldl (fun s core => (List.range 4).foldl (fun s d =>
    match linkEnd core d with
    | .cross _ => (List.range fold).foldl (fun s k => crossShelf s core d k lat t) s
    | _ => s) s) x.s
  let x := x.feeds.foldl (fun x f => schedEnter t 2 f x) { x with s := s, feeds := [] }
  let x := cores.foldl (schedCore fold ((t + a) % fold) t) x
  { x with s := { x.s with now := x.s.now + coreCycle } }

/-- Nothing waits and nothing is in flight. -/
def schedQuiet (cores : List Nat) (fold : Nat) (x : Sched) : Bool :=
  x.feeds.all (·.toks.isEmpty) && x.s.xfifos.all (fun q => q.2.toks.isEmpty)
  && cores.all fun c => !coreQueued x.s c fold && !coreBusy x.s c fold (cycleOf x.s)
      && (List.range fold).all fun k => (List.range 4).all fun d => (getQ x.s c d k).inflight.isEmpty

/-- The run, until it is quiet or has gone on for a number of cycles. -/
def schedRun (cores : List Nat) (fold lat a : Nat) : Nat → Sched → Sched
  | 0, x => x
  | n + 1, x => if schedQuiet cores fold x then x else schedRun cores fold lat a n (schedCycle cores fold lat a x)

-- ------------------------------------------------------------------ what a run shows

/-- Cycles of the exit tokens of a copy that are no MARKs (R596), in order. -/
def schedExits (x : Sched) (lane copy : Nat) : List Nat :=
  match tget x.s.units 0 with
  | some u => ((tgetD u.exits (lane * 4 + copy) []).filter fun k => k.2.kind ≠ .mark).map fun k => k.1 / coreCycle
  | none => []

/-- Cycle of the last exit token of a copy, of any kind. -/
def schedLastExit (x : Sched) (lane copy : Nat) : Option Nat :=
  match tget x.s.units 0 with
  | some u => ((tgetD u.exits (lane * 4 + copy) []).map fun k => k.1 / coreCycle).getLast?
  | none => none

/-- The cycle in which the last token of a window entered. -/
def lastEntry (x : Sched) (w : Nat) : Nat := ((x.entered.filter (·.1 = w)).map (·.2.2)).foldl max 0

/-- The first entry of a window 0 token on a channel. -/
def firstEntry (x : Sched) (chan : Nat) : Option Nat :=
  ((x.entered.filter fun e => e.1 = 0 && e.2.1 = chan).map (·.2.2)).getLast?

/-- The first firing of a store entry. -/
def firstFire (x : Sched) (core shelf entry : Nat) : Option Nat :=
  ((x.fires.filter fun e => e.1 = core && e.2.1 = shelf && e.2.2.1 = entry).map (·.2.2.2)).getLast?

/-- The first firing of a store entry that emits a token: an entry that accumulates or packs emits none in the firings before. -/
def firstSent (x : Sched) (core shelf entry : Nat) : Option Nat :=
  ((x.sent.filter fun e => e.1 = core && e.2.1 = shelf && e.2.2.1 = entry).map (·.2.2.2)).getLast?

/-- Intervals between successive firings of a store entry. -/
def fireGaps (x : Sched) (core shelf entry : Nat) : List Nat :=
  let l := ((x.fires.filter fun e => e.1 = core && e.2.1 = shelf && e.2.2.1 = entry).map (·.2.2.2)).reverse
  (l.zip (l.drop 1)).map fun p => p.2 - p.1

/-- The runs of one copy for one extractor and one alignment: one window and three windows at 14 cycles for each crossing
(R167), one window at 12 (R231). -/
structure SchedRuns where
  lane : Nat
  copy : Nat
  one : Sched
  three : Sched
  low : Sched

/-- The runs of one copy in the schedule without stalls (R167), with the joins watched: one window and three. -/
structure FreeRuns where
  lane : Nat
  copy : Nat
  one : Sched
  three : Sched

/-- The bound on a run's cycles: a run that needs more exceeds every figure an image may record. -/
def schedBound (v : Variant) (feeds : List SchedFeed) : Nat :=
  2 * (v.firing + v.fullLat + 3 * v.ii + (feeds.map (·.toks.length)).sum) + 2048

def schedFrom (s : State) (v : Variant) (cores : List Nat) (lat a : Nat) (feeds : List SchedFeed) : Sched :=
  schedRun cores v.fold lat a (schedBound v feeds) { s := s, feeds := feeds }

/-- The extractors that feed a copy, in the order of the bindings. -/
def copyExtractors (b : Bytes) (copy : Nat) : List (List ExtStep) :=
  ((imgBindings b).map fun k => if copy = 3 then k.fullExtractor else k.extractor).dedup.map fun e => (findExt b e).getD []

/-- Every run of a message placement: each copy, each extractor that feeds it, each alignment to the fold epoch (R203). A placement that is short of
slack has no schedule but the one without stalls (log entry 9). -/
def schedRuns (b : Bytes) (v : Variant) (p : Place) (cs : List CopySet) (noStall : Bool) : List SchedRuns :=
  let s := { schedState b v p with noStall := noStall }
  cs.flatMap fun c => (copyExtractors b c.copy).flatMap fun steps => (List.range v.fold).map fun a =>
    let f := windowFeeds p c.lane c.copy steps
    { lane := c.lane, copy := c.copy, one := schedFrom s v c.cores 14 a (f 1), three := schedFrom s v c.cores 14 a (f 3),
      low := schedFrom s v c.cores 12 a (f 1) }

/-- Latency from the last entering token to the verdict head (R232). -/
def runLatency (r : SchedRuns) : Option Nat := (schedExits r.one r.lane r.copy).head?.map fun c => c - lastEntry r.one 0

/-- The interval at which windows are accepted (R232): between the heads of the second and the third window. -/
def runInterval (r : SchedRuns) : Option Nat :=
  let n := (schedExits r.one r.lane r.copy).length
  let l := schedExits r.three r.lane r.copy
  match l[n]?, l[2 * n]? with
  | some x, some y => if n = 0 then none else some (y - x)
  | _, _ => none

def atMost (x : Option Nat) (n : Nat) : Bool := match x with | some k => k ≤ n | none => false

/-- R232 for every lane and copy. -/
def latencyOk (v : Variant) (rs : List SchedRuns) : Bool :=
  rs.all fun r => if r.copy = 3 then atMost (runLatency r) v.fullLat else atMost (runLatency r) v.firing && atMost (runInterval r) v.ii

/-- U and D of a cluster for a lane and copy (R231 and the profiles of R210), counted from the window's last entry. -/
def runProfile (rs : List SchedRuns) (cluster lane copy : Nat) : Nat × Nat :=
  let rs := rs.filter fun r => r.lane = lane && r.copy = copy
  let us := rs.filterMap fun r => (tget r.low.held cluster).map fun h => h.1 - lastEntry r.low 0
  let ds := rs.filterMap fun r => (tget r.one.held cluster).map fun h => h.2 - lastEntry r.one 0
  (us.foldl min (us.headD 0), ds.foldl max 0)

/-- The latency to the last exit token (R291). -/
def lastExitOf (rs : List SchedRuns) : Nat :=
  (rs.filterMap fun r => (schedLastExit r.one r.lane r.copy).map fun c => c - lastEntry r.one 0).foldl max 0

/-- Does a variant's section of some type hold its records? -/
def secHolds (b : Bytes) (type code size : Nat) : Bool :=
  match secOf (imgDir b) type code with | some s => size * s.count ≤ s.len | none => true

-- ------------------------------------------------------------------ slack (R166-R170, R230)

/-- A slack entry (R230). -/
structure SlackEntry where
  core : Nat
  rel : Nat
  entry : Nat
  src : Nat
  forkKind : Nat
  forkCore : Nat
  forkEntry : Nat
  forkRel : Nat
  tokPer : Nat
  forkII : Nat
  queues : Nat
  t : Nat
  crossings : Nat
  o : Nat
  sReq : Nat
  sProv : Nat
  deriving DecidableEq, Repr

def imgSlack (b : Bytes) (v : Nat) : List SlackEntry :=
  match secOf (imgDir b) 4 v with
  | none => []
  | some s =>
    let x := secBytes b (some s)
    (List.range (recordsUpTo s 32)).map fun i =>
      let p := 32 * i
      { core := le x p 2, rel := byteAt x (p + 2), entry := byteAt x (p + 3), src := byteAt x (p + 4), forkKind := byteAt x (p + 5),
        forkCore := le x (p + 6) 2, forkEntry := byteAt x (p + 8), forkRel := byteAt x (p + 9), tokPer := byteAt x (p + 0xA),
        forkII := le x (p + 0xC) 2, queues := le x (p + 0xE) 2, t := le x (p + 0x10) 4, crossings := byteAt x (p + 0x14),
        o := le x (p + 0x16) 2, sReq := le x (p + 0x18) 4, sProv := le x (p + 0x1C) 4 }

/-- ρ as a fraction (R167): tokens, cycles; 2 for the wedge. -/
def slackRho (e : SlackEntry) : Nat × Nat := if e.forkKind = 1 then (2, 1) else (e.tokPer, e.forkII)

/-- S_req = ⌈T × ρ⌉ (R167). -/
def slackReq (e : SlackEntry) : Nat := ceilDiv (e.t * (slackRho e).1) (slackRho e).2

/-- S_prov (R168). -/
def slackProv (e : SlackEntry) : Int :=
  let r := slackRho e
  (e.queues : Int) * (8 - (ceilDiv (2 * r.1) r.2 : Nat)) + (e.crossings * (32 - ceilDiv (30 * r.1) r.2) : Nat) - e.o

/-- Joins of a placement as (core, shelf, entry, source): each marked queue source of a join (R166). -/
def Place.joins (p : Place) : List (Nat × Nat × Nat) :=
  p.cfg.flatMap fun e =>
    let ops := p.ops (e.1 / 4) (e.1 % 4)
    (List.range ops.length).filterMap fun i => if isJoin (ops.getD i {}) then some (e.1 / 4, e.1 % 4, i) else none

/-- TOK_PER_FIRING of a store entry (R114, R115, R170). -/
def Place.tokPer (p : Place) (e : SlackEntry) : Nat :=
  ((p.ops e.forkCore e.forkRel)[e.forkEntry]?).elim 0 closeCount

/-- Queues and crossings on a path from some positions to a position, each with the counts so far (R168); the positions are
searched in depth, none twice. -/
def Place.pathTo (p : Place) (target : Node) : Nat → List (Node × Nat × Nat) → List Node → Option (Nat × Nat)
  | 0, _, _ => none
  | _ + 1, [], _ => none
  | k + 1, (n, q, x) :: todo, seen =>
    if n = target then some (q, x)
    else if seen.contains n then p.pathTo target k todo seen
    else
      let more := (p.next n).filterMap fun h => (hopNode h).map fun m =>
        (m, q + 1, x + (match linkEnd h.1 h.2.1 with | .cross _ => 1 | _ => 0))
      p.pathTo target k (more ++ todo) (n :: seen)

/-- The positions at which a fork's tokens first wait: the emissions of its store entry, or the entry queues of its channel. -/
def Place.forkStarts (p : Place) (e : SlackEntry) : List (Node × Nat × Nat) :=
  if e.forkKind = 1 then
    (p.io.filter fun i => i.dir = 0 && i.chan = e.forkEntry).map fun i => ((i.core, 0, i.side, i.chan), 1, 0)
  else
    match (p.ops e.forkCore e.forkRel)[e.forkEntry]? with
    | some f => (p.emits e.forkCore e.forkRel f).filterMap fun h => (hopNode h).map fun m =>
        (m, 1, match linkEnd h.1 h.2.1 with | .cross _ => 1 | _ => 0)
    | none => []

/-- The marked queue source of a join that an entry names. -/
def Place.joinSource (p : Place) (e : SlackEntry) : Option Node :=
  match (p.ops e.core e.rel)[e.entry]? with
  | some f =>
    match [f.a, f.b, f.c][e.src]? with
    | some x => if isJoin f && srcMarked x then some (e.core, e.rel, srcDir x, srcChan x) else none
    | none => none
  | none => none

-- the store entries of a placement as a graph (R166)

/-- A store entry with the positions its tokens wait at and the positions it consumes from. -/
structure GraphOp where
  core : Nat
  rel : Nat
  entry : Nat
  feeds : List Node
  eats : List Node
  deriving DecidableEq, Repr

/-- The position at which a hop's token waits: the end of its chain of PASS actions. -/
def Place.waitsAt (p : Place) : Nat → Hop → Option Node
  | 0, _ => none
  | k + 1, h =>
    match hopNode h with
    | none => none
    | some n =>
      let act := bits (p.route n.1 n.2.1 n.2.2.1 n.2.2.2) 2 0
      if 2 ≤ act ∧ act ≤ 5 then p.waitsAt k (n.1, act - 2, n.2.1, n.2.2.2) else some n

def Place.graph (p : Place) : List GraphOp :=
  p.cfg.flatMap fun e =>
    let core := e.1 / 4
    let rel := e.1 % 4
    let ops := p.ops core rel
    (List.range ops.length).map fun i =>
      let f := ops.getD i {}
      { core := core, rel := rel, entry := i, feeds := if f.op = 0 then [] else (p.emits core rel f).filterMap (p.waitsAt 1025),
        eats := (opPairs f).map fun d => (core, rel, d.1, d.2) }

/-- The store entries whose tokens reach some positions, each with its least number of firings before them. -/
def upstream (g : List GraphOp) : Nat → List Node → Nat → List (GraphOp × Nat) → List (GraphOp × Nat)
  | 0, _, _, acc => acc
  | k + 1, front, d, acc =>
    let new := g.filter fun e => e.feeds.any front.contains && !acc.any fun x => x.1 = e
    if new = [] then acc else upstream g k (new.flatMap (·.eats)) (d + 1) (acc ++ new.map fun e => (e, d))

/-- The fork of two sources of a join (R166): of the store entries, the join apart, whose tokens reach both, the nearest; none where it is the
wedge. -/
def forkOf (g : List GraphOp) (j : Nat × Nat × Nat) (x y : Node) : Option GraphOp :=
  let up := fun n => (upstream g (g.length + 1) [n] 1 []).filter fun (e : GraphOp × Nat) => (e.1.core, e.1.rel, e.1.entry) ≠ j
  let ux := up x
  let uy := up y
  let both := ux.filterMap fun a => (uy.find? fun b => b.1 = a.1).map fun b => (a.1, a.2 + b.2)
  (both.foldl (fun (m : Option (GraphOp × Nat)) c =>
    match m with
    | none => some c
    | some b => if c.2 < b.2 || (c.2 = b.2 && (c.1.core * 4 + c.1.rel) * 256 + c.1.entry < (b.1.core * 4 + b.1.rel) * 256 + b.1.entry) then some c else m) none).map (·.1)

/-- A marked queue source of a join: its number and the position it takes tokens from. -/
def Place.sources (p : Place) (j : Nat × Nat × Nat) : List (Nat × Node) :=
  ((qSources ((p.ops j.1 j.2.1).getD j.2.2 {})).filter fun q => srcMarked q.2.1).map fun q =>
    (q.1, (j.1, j.2.1, srcDir q.2.1, srcChan q.2.1))

/-- The first run in which a join fires. -/
def joinRun (rs : List FreeRuns) (j : Nat × Nat × Nat) : Option FreeRuns := rs.find? fun r => (firstFire r.one j.1 j.2.1 j.2.2).isSome

/-- When each source of a join has its first token in the schedule. -/
def arrivals (r : FreeRuns) (j : Nat × Nat × Nat) : List (Nat × Nat) := (r.one.came.filter fun k => k.1 = j).map fun k => k.2

/-- The source whose path is the long one: the latest to have a token, the first of those that are equal (R166). -/
def longSource (r : FreeRuns) (j : Nat × Nat × Nat) : Option Nat :=
  let l := arrivals r j
  let last := (l.map (·.2)).foldl max 0
  (l.find? fun k => k.2 = last).map (·.1)

/-- The sources whose tokens wait at the join (R166). -/
def shortSources (r : FreeRuns) (j : Nat × Nat × Nat) : List Nat :=
  let l := arrivals r j
  let last := (l.map (·.2)).foldl max 0
  (l.filter fun k => k.2 < last).map (·.1)

/-- T of a slack entry (R167) in the runs: from the fork's firing whose tokens the join first fires on (the first that emits any), or its channel's
entry, to the join's; the largest over the alignments of the first copy whose join fires. -/
def runSlackT (rs : List FreeRuns) (e : SlackEntry) : Option Nat :=
  let ts := fun (r : FreeRuns) =>
    match firstFire r.one e.core e.rel e.entry,
        (if e.forkKind = 1 then firstEntry r.one e.forkEntry else firstSent r.one e.forkCore e.forkRel e.forkEntry) with
    | some j, some f => some (j - f)
    | _, _ => none
  match rs.find? fun r => (ts r).isSome with
  | none => none
  | some r0 => some (((rs.filter fun r => r.lane = r0.lane && r.copy = r0.copy).filterMap ts).foldl max 0)

/-- FORK_II (R170): the shortest interval between the fork's firings. -/
def runForkII (rs : List FreeRuns) (e : SlackEntry) : Option Nat :=
  let l := rs.flatMap fun r => fireGaps r.three e.forkCore e.forkRel e.forkEntry
  l.head?.map fun x => l.foldl min x

/-- The recorded fork is the fork of its short path and the join's long path (R166). -/
def forkMatches (p : Place) (g : List GraphOp) (r : FreeRuns) (e : SlackEntry) (n : Node) : Bool :=
  let j := (e.core, e.rel, e.entry)
  let src := p.sources j
  let long := (longSource r j).filter (· ≠ e.src)
  match (match long with | some l => src.find? fun (x : Nat × Node) => x.1 = l | none => src.find? fun (x : Nat × Node) => x.1 ≠ e.src) with
  | none => false
  | some l =>
    match forkOf g j n l.2 with
    | none => e.forkKind = 1
    | some k => e.forkKind = 0 && (e.forkCore, e.forkRel, e.forkEntry) = (k.core, k.rel, k.entry)

/-- Every recomputed value of a slack entry equals the recorded one (R170). DESIGN CHOICE (log entry 110): S_PROV is read as an unsigned number, so an entry
whose recomputed S_prov is below zero (R168) has no recorded value that equals it. -/
def slackMatches (p : Place) (g : List GraphOp) (rs : List FreeRuns) (e : SlackEntry) : Bool :=
  (match p.joinSource e, joinRun rs (e.core, e.rel, e.entry) with
   | some n, some r => forkMatches p g r e n && p.pathTo n (2 ^ 24) (p.forkStarts e) [] = some (e.queues, e.crossings)
   | _, _ => false)
  && runSlackT rs e = some e.t && e.sReq = slackReq e && (e.sProv : Int) = slackProv e
  && (if e.forkKind = 1 then e.tokPer = 0 && e.forkII = 0 && e.forkCore = 0 && e.forkRel = 0
      else e.forkKind = 0 && runForkII rs e = some e.forkII && e.tokPer = p.tokPer e)

/-- Each join has an entry for each of its short paths and none for its long one (R169, R170); where all its sources have their tokens at once, for
any of them (log entry 9). -/
def joinListed (rs : List FreeRuns) (sl : List SlackEntry) (j : Nat × Nat × Nat) : Bool :=
  let es := (sl.filter fun e => (e.core, e.rel, e.entry) = j).map (·.src)
  match joinRun rs j with
  | none => !es.isEmpty
  | some r => if shortSources r j = [] then !es.isEmpty else (shortSources r j).all es.contains && es.all fun x => (shortSources r j).contains x

/-- The slack table (R169, R170, R230): its order, the joins it lists, and each entry's figures. -/
def slackOk (b : Bytes) (v : Variant) (p : Place) (rs : List FreeRuns) : Bool :=
  let sl := imgSlack b v.code
  let g := if sl = [] then [] else p.graph
  secHolds b 4 v.code 32 && rising (sl.map fun e => ((e.core * 4 + e.rel) * 256 + e.entry) * 4 + e.src)
  && p.joins.all (joinListed rs sl) && sl.all (slackMatches p g rs)

def imgProfile (b : Bytes) (v : Nat) : List Profile :=
  match secOf (imgDir b) 5 v with
  | none => []
  | some s =>
    let x := secBytes b (some s)
    (List.range (recordsUpTo s 8)).map fun i =>
      { cluster := le x (8 * i) 2, lane := byteAt x (8 * i + 2), copy := byteAt x (8 * i + 3), u := le x (8 * i + 4) 2,
        d := le x (8 * i + 6) 2 }

/-- Clusters, lanes and copies that a PROFILE section must list, in increasing order (R231). -/
def profileKeys (p : Place) (cs : List CopySet) : List (Nat × Nat × Nat) :=
  p.clusters.flatMap fun c => (List.range 8).flatMap fun l => (List.range 4).filterMap fun k =>
    if cs.any fun x => x.lane = l && x.copy = k && x.cores.any fun g => clusterOf g = c then some (c, l, k) else none

-- ------------------------------------------------------------------ generation placements (R259)

/-- The run of some sampling turns at a position. -/
def turnRun (b : Bytes) (v : Variant) (p : Place) (cores : List Nat) (pos turns : Nat) : Sched :=
  let g := genOf b
  let f := turnFeeds p pos turns
  schedRun cores v.fold 14 0 (schedBound v f + 2 * (g.latBase + (pos + 1) * g.ctxCost)) { s := schedState b v p, feeds := f }

def turnLatency (x : Sched) : Option Nat := (schedExits x 0 0).head?.map fun c => c - lastEntry x 0

/-- The figures of a generation image: the latency at n = 1 and c = 0, the cost of a position, the turn spacing. A turn at
position 0 leaves c = 1 and one at position 1 leaves c = 2, so their difference is the cost, and the first less the cost the latency. -/
def turnFiguresOk (b : Bytes) (v : Variant) (p : Place) (cs : List CopySet) : Bool :=
  let g := genOf b
  let cores := (cs.flatMap (·.cores)).dedup
  match turnLatency (turnRun b v p cores 0 1), turnLatency (turnRun b v p cores 1 1), schedExits (turnRun b v p cores 0 3) 0 0 with
  | some l0, some l1, [_, y, z] => l0 - (l1 - l0) ≤ g.latBase && l1 - l0 ≤ g.ctxCost && z - y ≤ v.firing
  | _, _, _ => false

-- ------------------------------------------------------------------ the figures of an image

/-- Is an entry of the slack table short of slack (R168, R170)? -/
def slackShort (b : Bytes) (code : Nat) : Bool := (imgSlack b code).any fun e => e.sProv < e.sReq

/-- The runs without stalls: of every copy, extractor and alignment, or of a generation unit's turns; none where the placement has no join. -/
def freeRuns (b : Bytes) (v : Variant) (p : Place) (cs : List CopySet) : List FreeRuns :=
  if p.joins = [] then []
  else
    let s := { schedState b v p with noStall := true }
    let go := fun (cores : List Nat) (a bound : Nat) (f : List SchedFeed) => schedRun cores v.fold 14 a bound { s := s, feeds := f, watch := p.joins }
    if imgKind b = 1 then
      let g := genOf b
      let cores := (cs.flatMap (·.cores)).dedup
      let run := fun (n : Nat) => let f := turnFeeds p 0 n; go cores 0 (schedBound v f + 2 * (g.latBase + g.ctxCost)) f
      [{ lane := 0, copy := 0, one := run 1, three := run 3 }]
    else
      cs.flatMap fun c => (copyExtractors b c.copy).flatMap fun steps => (List.range v.fold).map fun a =>
        let run := fun (n : Nat) => let f := windowFeeds p c.lane c.copy steps n; go c.cores a (schedBound v f) f
        { lane := c.lane, copy := c.copy, one := run 1, three := run 3 }

/-- R191 step 3: every recorded figure equals, or is not below, its recomputed value. -/
def figuresOk (b : Bytes) (v : Variant) (p : Place) (cs : List CopySet) : Bool :=
  slackOk b v p (freeRuns b v p cs)
  && (if imgKind b = 1 then turnFiguresOk b v p cs
      else
        let rs := schedRuns b v p cs (slackShort b v.code)
        secHolds b 5 v.code 8 && latencyOk v rs
        && imgProfile b v.code = (profileKeys p cs).map fun k =>
            let x := runProfile rs k.1 k.2.1 k.2.2
            { cluster := k.1, lane := k.2.1, copy := k.2.2, u := x.1, d := x.2 })

/-- The latency to the last exit token of a loaded image (R291). -/
def lastExitFigure (b : Bytes) (code : Nat) : Nat :=
  let v := variantOf b code
  let p := placeOf v (variantCfgs b code)
  if imgKind b = 1 then 0 else lastExitOf (schedRuns b v p p.copySets false)

-- ------------------------------------------------------------------ verification (R191)

/-- The status verification ends with, given the variant chosen at admission, the variants it tried, the clusters that were LEAVING then, the bytes
admission read and the bytes verification reads. -/
def verifyStatus (s : State) (inst : Nat) (code : Nat) (tried left : List Nat) (before after : Bytes) : Nat :=
  let b := after
  if !(admissionFields tried before = admissionFields tried b) || !digestOk b then stIntegrity
  else
    let v := variantOf b code
    let p := placeOf v (variantCfgs b code)
    let cs := p.copySets
    (firstFail
      [(routeForeign s inst left p, stNotPermitted), (routeRetired s p, stRetired),
       (opsBad p || routeBad p || hopsBad p || !ioOk b v || !copiesOk b cs || !configsOk b v || !recordsReservedOk b code
         || !weightsOk b v p || !streamOk b v p || !bindingsEnter s b, stBadParam),
       (!figuresOk b v p cs, stIntegrity),
       (slackShort b code, stBadParam)]).getD stOK

end Sys2Proof.Machine
end

