-- ==== Sys2Proof/Machine/Shelves.lean ====
section
/-! DEFINITION. Shelf commands and the steps of a unit (R176-R216), the binding tables and statistics (R465, R467), attaching queue
pairs to a generation service (R241, R242). -/

namespace Sys2Proof.Machine

open Sys2Proof

-- ------------------------------------------------------------------ LOAD

/-- The unit that admission creates (R188, R192, R195): GREEN, with everything it reserves. -/
def newUnit (s : State) (inst id : Nat) (d : Cmd) (v : Variant) : MUnit :=
  let a := loadArgs d
  let b := d.ext
  let n := hbmLen b v
  let placed := variantOf b 0
  { owner := inst, st := .green, kind := imgKind b, outcome := v.code, shelves := a.shelves.take v.fold, clusters := v.clusters,
    lanes := v.lanes, firing := v.firing, ii := v.ii,
    foldExtra := if (imgVariants (imgDir b)).contains 0 && v.code ≠ 0 then v.firing - placed.firing else 0,
    power := v.power, fullLat := v.fullLat, streamBw := v.streamBw, streamBytes := v.streamBytes, spepel := le b 0x14 4,
    modelId := le b 0x20 16, drainClean := imgDrainClean b, guard := imgGuard b, full := imgFull b, bindings := imgBindings b,
    io := v.io, configs := variantCfgs b v.code, gen := if imgKind b = 1 then some (genOf b) else none,
    copies := (placeOf (variantOf b v.code) (variantCfgs b v.code)).copySets, extent := if 0 < n then some (a.region, a.hbmOff, n) else none,
    shiftedCols := loadShiftedCols s v.clusters, image := b,
    tried := readVariants s b a, left := leavingNow s, hbmOff := a.hbmOff, loadCmd := some id, loadedAt := s.now }

/-- LOAD (R188-R195, R462): admission; a unit in GREEN, or the first condition that fails. -/
def cmdLoad (d : Cmd) (inst id : Nat) (s : State) : State × Answer :=
  match admitLoad s inst d with
  | .refuse st r power => (if power then regOr s pwrStatus 4 else s, .done st r [])
  | .take u v => ({ s with units := tset s.units u (newUnit s inst id d v) }, .wait u)

def execLoad (r : CmdRing) (d : Cmd) (s : State) : Host.Outcome State Fault Refusal := goOnKeep s (runCmd 0x01 false r d (cmdLoad d) s)

-- ------------------------------------------------------------------ verification

/-- Writes the chosen variant's weights into their partition (R228). -/
def writeWeights (s : State) (u : MUnit) (p : Place) (w : Weights) : State :=
  let base := (p.partOf w).1
  if (p.partOf w).2 < w.offset + w.data.length then s
  else if w.target = 0 then
    { s with csram := fillBytes s.csram (coreSpace (colShifted u (clusterOf w.loc)) w.loc * 2 ^ 16 + base + w.offset) w.data }
  else
    { s with clsram := fillBytes s.clsram (clusterSpace (colShifted u w.loc) w.loc * 2 ^ 20 + base + w.offset) w.data }

/-- The records that verification writes: the image's, unless it gives other cores or partitions than admission read (R219). -/
def writtenConfigs (u : MUnit) (b : Bytes) : List CoreConfig :=
  let fields := fun (g : CoreConfig) => (g.core, g.shelfRel, g.csBase, g.csSize, g.clBase, g.clSize)
  let cs := variantCfgs b u.outcome
  if cs.map fields = u.configs.map fields then cs else u.configs

/-- A core of the variant's clusters that has no record for a shelf: all zero, with the cluster SRAM partition that the recorded cores of its
cluster give (R227). -/
def blankCores (u : MUnit) (p : Place) (cs : List CoreConfig) : List (Nat × CoreShelf) :=
  u.clusters.flatMap fun c => (List.range u.shelves.length).flatMap fun r =>
    let part := p.clPart c r
    if part.2 = 0 then []
    else ((List.range 16).filter fun i => !cs.any fun g => g.core = c * 16 + i && g.shelfRel = r).map fun i =>
      (csKey (c * 16 + i) (u.shelves.getD r 0), { clBase := part.1, clSize := part.2, shifted := colShifted u c })

/-- Verification writes the chosen variant (R191): configuration, weights, streamed weights (R226-R229). -/
def writeShelves (s : State) (u : MUnit) (b : Bytes) : State :=
  let cs := writtenConfigs u b
  let p := placeOf (variantOf b u.outcome) cs
  let s := (blankCores u p cs).foldl (fun s x => { s with cores := tset s.cores x.1 x.2 }) s
  let s := cs.foldl (fun s g =>
    { s with cores := tset s.cores (csKey g.core (u.shelves.getD g.shelfRel 0)) (coreOf u g) }) s
  let s := (imgWeights b u.outcome).foldl (fun s w => writeWeights s u p w.2) s
  match u.extent, u.outcome with
  | some (region, off, len), 5 =>
    { s with hbm := fillBytes s.hbm (region * 2 ^ 37 + off) ((secBytes b (secOf (imgDir b) 7 5)).take len) }
  | _, _ => s

/-- RESULT of a LOAD that ends with OK (R195, R462). -/
def loadResult (ui : Nat) (u : MUnit) : List (Nat × Nat × Nat) :=
  [(0, 2, ui), (2, 1, u.outcome), (4, 2, u.firing), (6, 2, u.ii), (8, 2, u.foldExtra), (10, 2, u.clusters.length), (12, 2, u.power),
   (14, 2, u.streamBw.sum)]

/-- Verification passes (R181): the unit is BISQUE. -/
def verified (s : State) (ui : Nat) (u : MUnit) (b : Bytes) : State :=
  let p := placeOf (variantOf b u.outcome) (variantCfgs b u.outcome)
  let exts := (imgExtractors b).foldl (fun t e => tset t e.1 e.2.2) []
  let u := { u with st := .bisque, configs := variantCfgs b u.outcome, copies := p.copySets, profile := imgProfile b u.outcome,
                    extractors := exts, templates := imgTemplates b, lastExit := lastExitFigure b u.outcome,
                    streamPlan := if u.outcome = 5 then imgStreamPlan b else [], loadCmd := none }
  { s with units := tset s.units ui { u with image := [] } }

/-- LOAD_VERIFY_DONE (R191, R219): the bytes that verification reads are written and give the LOAD its status. -/
def verifyDone (s : State) (ui : Nat) (b : Bytes) : State :=
  match getUnit s ui with
  | none => s
  | some u =>
    if u.st = .green ∧ u.retired = false ∧ u.scrub = none then
      let st := verifyStatus s u.owner u.outcome u.tried u.left u.image b
      let s := writeShelves s u b
      if st = stOK then finishCmd? (verified s ui u b) u.loadCmd stOK (loadResult ui u)
      else startScrub (modUnit s ui fun u => { u with loadCmd := none, image := [] }) ui u.loadCmd st
    else s

def execLoadVerifyDone (unit : Nat) (image : Bytes) (s : State) : Host.Outcome State Fault Refusal :=
  goOnKeep s (verifyDone s unit image)

-- ------------------------------------------------------------------ FIRE, COOL, SWAP

/-- Another unit blocks a firing (R190, R239, R262): it is FIRED with one of the binding numbers or the service, or is FIRED or
COOLING on a cluster. A RETIRED unit keeps its state (R180). -/
def fireBlocked (s : State) (ui : Nat) (u : MUnit) (but : Option Nat) : Bool :=
  s.units.any fun x =>
    x.1 ≠ ui && some x.1 ≠ but
    && ((x.2.st = .fired && (x.2.bindings.any fun k => u.bindings.any (·.number = k.number)))
      || (x.2.st = .fired && u.kind = 1 && x.2.kind = 1 && serviceOf x.2 = serviceOf u)
      || ((x.2.st = .fired || x.2.st = .cooling) && x.2.clusters.any u.clusters.contains))

/-- The conditions that every command naming a unit shares, in the order of R11 and R185, with what comes after them. -/
def unitChecks (s : State) (inst : Nat) (mgr : Bool) (us : List (Option MUnit)) (bad conflict : Bool) : List (Bool × Nat) :=
  [(!ready s rdyShf, stNotReady),
   (us.any fun u => u.any fun u => !(u.owner = inst || (mgr && inst = 0)), stNotPermitted),
   (us.any fun u => u.any fun u => u.retired || lossComing s u, stRetired),
   (us.any (·.isNone) || bad, stBadParam),
   (conflict, stStateConflict)]

/-- FIRE (R184, R190). -/
def cmdFire (d : Cmd) (inst _id : Nat) (s : State) : State × Answer :=
  let ui := argUnit d 0
  let u := getUnit s ui
  orElse s (unitChecks s inst false [u] (!argsOnly d [(0, 2)])
      (u.any fun u => !(u.st = .bisque && u.scrub.isNone && u.arm.isNone) || fireBlocked s ui u none))
    fun s => (fireUnit s ui, .ok)

def execFire (r : CmdRing) (d : Cmd) (s : State) : Host.Outcome State Fault Refusal := goOnKeep s (runCmd 0x02 false r d (cmdFire d) s)

/-- Is a DRAIN_BOUND in range: zero for the default, or 1 µs to 100 ms (R207)? -/
def boundOk (us : Nat) : Bool := us ≤ 100000

/-- COOL (R184, R187, R205): a BISQUE unit is scrubbed, a FIRED unit drains. -/
def cmdCool (d : Cmd) (inst id : Nat) (s : State) : State × Answer :=
  let ui := argUnit d 0
  let u := getUnit s ui
  let retain := argN d 2 1
  let us := argN d 4 4
  orElse s (unitChecks s inst true [u]
      (!argsOnly d [(0, 3), (4, 4)] || 1 < retain || !boundOk us || (retain = 1 && u.any fun u => !u.drainClean))
      (u.any fun u => u.scrub.isSome || u.arm.isSome || u.st = .green || u.st = .cooling || (u.st = .bisque && retain = 1)))
    fun s =>
      if u.any fun u => u.st = .fired then (startDrain s ui (drainBound s us) (retain = 1) (some id) false, .wait ui)
      else (startScrub s ui (some id) stOK, .wait ui)

def execCool (r : CmdRing) (d : Cmd) (s : State) : Host.Outcome State Fault Refusal := goOnKeep s (runCmd 0x03 false r d (cmdCool d) s)

/-- Message units: the old unit enters COOLING and the new one becomes FIRED in one FAB cycle (R210 step 1). -/
def swapMessage (s : State) (oi ni bound : Nat) (id : Nat) (old new : MUnit) : State :=
  let s := startDrain s oi bound false (some id) false
  let s := modUnit s oi fun u => { u with swap := some { newUnit := ni, gap := swapGap old new } }
  modUnit (makeFired s ni) ni fun u => { u with waitSwap := true }

/-- SWAP (R184, R209, R210, R553); between generation units it takes effect at the old unit's next round start (R264). -/
def cmdSwap (d : Cmd) (inst id : Nat) (s : State) : State × Answer :=
  let oi := argUnit d 0
  let ni := argUnit d 2
  let us := argN d 4 4
  match getUnit s oi, getUnit s ni with
  | some old, some new =>
    orElse s (unitChecks s inst false [some old, some new] (!argsOnly d [(0, 8)] || !boundOk us)
        (oi = ni || old.st ≠ .fired || new.st ≠ .bisque || new.scrub.isSome || old.arm.isSome || new.arm.isSome || old.swap.isSome
          || (old.clusters ++ new.clusters).any (fun c => (perturbedDies s).contains (dieOfCluster c))
          || old.kind ≠ new.kind || fireBlocked s ni new (some oi) || (old.kind = 1 && old.clusters.any new.clusters.contains)))
      fun s =>
        if old.kind = 1 then
          (modUnit s oi fun u => { u with swap := some { newUnit := ni, gap := 0, atRound := true, cmd := some id, bound := drainBound s us } },
           .wait oi)
        else (swapMessage s oi ni (drainBound s us) id old new, .wait oi)
  | o, n => orElse s (unitChecks s inst false [o, n] true false) fun s => (s, .ok)

def execSwap (r : CmdRing) (d : Cmd) (s : State) : Host.Outcome State Fault Refusal := goOnKeep s (runCmd 0x04 false r d (cmdSwap d) s)

/-- SWAP_ENTRY_POINT (R210): no window of the old unit can enter any more, so S is fixed. -/
def execSwapEntryPoint (unit : Nat) (s : State) : Host.Outcome State Fault Refusal :=
  goOnKeep s (match getUnit s unit with
    | some u => if entryKnown s unit u then swapEntry s unit else s
    | none => s)

/-- SHELF_PATTERN_SWITCH (R200, R210): the cycle fixed for a cluster's switch has come. -/
def execShelfPatternSwitch (cluster : Nat) (s : State) : Host.Outcome State Fault Refusal :=
  goOnKeep s (match (getCluster s cluster).switchAt with
    | some (t, p) => if t ≤ cycleOf s then modCluster s cluster fun c => { c with pattern := p, switchAt := none } else s
    | none => s)

-- ------------------------------------------------------------------ QUERY

/-- The unit record (R470). -/
def unitRecord (s : State) (ui : Nat) (u : MUnit) : Bytes :=
  record 64
    [(0x00, 2, ui), (0x02, 1, stCode u), (0x03, 1, u.kind), (0x04, 1, u.outcome), (0x05, 1, (u.shelves.map (2 ^ ·)).sum),
     (0x06, 2, u.owner), (0x08, 2, u.firing), (0x0A, 2, u.ii), (0x0C, 2, u.foldExtra), (0x0E, 2, u.clusters.length),
     (0x10, 2, u.power), (0x12, 2, u.streamBw.sum), (0x14, 4, u.spepel), (0x18, 8, ((u.bindings.map (·.number)).dedup.map (2 ^ ·)).sum),
     (0x20, 16, u.modelId), (0x30, 4, ((unitMsgs s ui).filter fun m => !hasFinal m.2).length + (coming s ui).length),
     (0x34, 4, (u.coolingAt.map fun t => (s.now - t) / usec).getD 0), (0x38, 1, u.arm.getD 0xFF)]

/-- QUERY (R179, R184, R470). -/
def cmdQuery (d : Cmd) (inst _id : Nat) (s : State) : State × Answer :=
  let ui := argUnit d 0
  match getUnit s ui with
  | none => orElse s [(!ready s rdyShf, stNotReady), (true, stBadParam)] fun s => (s, .ok)
  | some u =>
    orElse s [(!ready s rdyShf, stNotReady), (!(u.owner = inst || inst = 0), stNotPermitted), (!argsOnly d [(0, 2)], stBadParam)]
      fun s => (s, .done stOK [] (unitRecord s ui u))

def execQuery (r : CmdRing) (d : Cmd) (s : State) : Host.Outcome State Fault Refusal := goOnKeep s (runCmd 0x05 false r d (cmdQuery d) s)

-- ------------------------------------------------------------------ the end of a drain and of a scrub

/-- DRAIN_COMPLETE (R206, R181). -/
def execDrainComplete (unit : Nat) (s : State) : Host.Outcome State Fault Refusal :=
  goOnKeep s (match getUnit s unit with
    | some u =>
      match u.drain with
      | some d => if u.st = .cooling && !u.retired && !lossComing s u && u.scrub.isNone && drainDone s unit u then finishDrain s unit u d else s
      | none => s
    | none => s)

/-- DRAIN_BOUND_EXPIRE (R207): a drain that is not complete by then is squashed, a generation unit's at its round start (R265). -/
def execDrainBoundExpire (unit : Nat) (s : State) : Host.Outcome State Fault Refusal :=
  goOnKeep s (match getUnit s unit with
    | some u =>
      match u.drain with
      | some d =>
        if u.st = .cooling && !u.retired && !lossComing s u && u.scrub.isNone && d.deadline ≤ s.now && !drainDone s unit u
            && (u.kind = 0 || !roundsRun u || roundDue s u)
        then squashUnit s unit else s
      | none => s
    | none => s)

/-- SCRUB_COMPLETE (R182): the unit reaches EMPTY. -/
def execScrubComplete (unit : Nat) (s : State) : Host.Outcome State Fault Refusal :=
  goOnKeep s (match getUnit s unit with
    | some u =>
      match u.scrub with
      | some (_, cmd, st) => emptyUnit s unit u cmd st
      | none => s
    | none => s)

-- ------------------------------------------------------------------ BIND_TABLE (R465)

/-- The entry that a BIND_TABLE command carries. -/
def bindEntry (d : Cmd) : TableEntry :=
  { kind := argN d 8 1, link := if argN d 1 1 = 0 then argN d 9 1 else 0, port := if argN d 1 1 = 1 then argN d 9 1 else 0,
    cq := argN d 10 2, qp := argN d 12 4, pasid := argN d 16 4, offset := argN d 20 4, base := argN d 24 8, slotSize := argN d 32 4,
    slotCount := argN d 36 4 }

/-- The bytes of ARGS that a table's entries name: a mirror entry has no CQ, and none from PASID on (R465). -/
def bindArgs (table : Nat) : List (Nat × Nat) := if table = 1 then [(0, 3), (8, 2), (12, 4)] else [(0, 3), (8, 32)]

/-- Is the entry in range (R465, R430)? -/
def bindEntryOk (s : State) (table : Nat) (e : TableEntry) : Bool :=
  match table, e.kind with
  | _, 0 => true
  | 0, 1 => e.offset < 4096
  | 0, 2 => e.link ≤ 1 && e.offset < 4096 && e.base % 4096 = 0 && e.slotSize % 64 = 0 && 256 ≤ e.slotSize && e.slotSize ≤ 1048576
      && isPow2 e.slotCount && 2 ≤ e.slotCount && e.slotCount ≤ 65536
  | 1, 3 => e.port < 16 && portExists s e.port
  | 1, 4 => true
  | _, _ => false

/-- Does the instance own the queue pair, completion queue and PASID that the entry names? -/
def bindOwned (s : State) (inst : Nat) (e : TableEntry) : Bool :=
  match e.kind with
  | 1 | 4 => (qpByNum s e.qp).any fun q => q.2.owner = inst
  | 2 => ((getRing s (ringKey rkCq e.cq)).any fun r => r.owner = inst) && ownsPasidOn s inst e.link e.pasid
  | _ => true

/-- BIND_TABLE: the entry is written, and a RING entry's ring starts at index 0. -/
def cmdBindTable (d : Cmd) (inst _id : Nat) (s : State) : State × Answer :=
  let b := argN d 0 1
  let t := argN d 1 1
  let i := argN d 2 1
  let e := bindEntry d
  let kindOk := t ≤ 1 && (if t = 0 then e.kind ≤ 2 else e.kind = 0 || e.kind = 3 || e.kind = 4)
  orElse s
    [(!ready s rdyShf, stNotReady), (kindOk && !bindOwned s inst e, stNotPermitted),
     (!argsOnly d (bindArgs t) || !kindOk || 63 < b || (t = 1 && 15 < i) || !bindEntryOk s t e
       || !((tvals s.units).any fun u => u.owner = inst && u.bindings.any (·.number = b)), stBadParam)]
    fun s =>
      let k := tableKey inst b t i
      let s := { s with tables := tset s.tables k e, tablesOld := tset s.tablesOld k (fabOf s, entryAt s k s.now) }
      let s := if t = 0 then { s with rings := tdel s.rings (steerKey inst b i) } else s
      let ring : Ring :=
        { kind := rkSteer, owner := inst, number := b * 256 + i, link := e.link, pasid := e.pasid, base := e.base,
          entries := e.slotCount, cq := e.cq, offset := e.offset, slotSize := e.slotSize }
      (if t = 0 && e.kind = 2 then { s with rings := tset s.rings (steerKey inst b i) ring } else s, .ok)

def execBindTable (r : CmdRing) (d : Cmd) (s : State) : Host.Outcome State Fault Refusal :=
  goOnKeep s (runCmd 0x08 false r d (cmdBindTable d) s)

-- ------------------------------------------------------------------ STATS (R467)

/-- Counters as a record of 64-bit values. -/
def counterRecord (size : Nat) (c : Nat → Nat) : Bytes := (List.range (size / 8)).flatMap fun i => toLe 8 (c i)

/-- The instance whose units carry a binding number, or the issuer. -/
def bindingOwner (s : State) (inst b : Nat) : Nat :=
  match (tvals s.units).find? fun u => u.bindings.any (·.number = b) with | some u => u.owner | none => inst

/-- The record of a SELECT and ID; the size of each is 256, 128, 64 and 64 bytes. -/
def statsRecord (s : State) (inst sel id : Nat) : Bytes :=
  match sel with
  | 0 => counterRecord 256 fun i => tgetD s.bindCounters ((bindingOwner s inst id * 64 + id) * 32 + i) 0
  | 1 => counterRecord 128 fun i => tgetD (tgetD s.services (serviceKey inst id) {}).counters i 0
  | 2 => counterRecord 64 fun i => tgetD (getPort s id).totals i 0
  | _ => counterRecord 64 fun i => tgetD (getInst s id).stats i 0

def statsSize (sel : Nat) : Nat := match sel with | 0 => 256 | 1 => 128 | _ => 64

/-- May the instance read the record? -/
def statsPermitted (s : State) (inst sel id : Nat) : Bool :=
  inst = 0 || (match sel with | 0 => bindingOwner s inst id = inst | 1 => true | 2 => false | _ => id = inst)

/-- Does the record exist? -/
def statsExists (s : State) (sel id : Nat) : Bool :=
  match sel with | 0 => id < 64 | 1 => id < 16 | 2 => id < 16 && portExists s id | 3 => instExists s id | _ => false

/-- What a pending STATS keeps of its descriptor: SELECT, ID and BUF_ADDR. -/
def statsArg (d : Cmd) : Nat := argN d 0 1 + 4 * argN d 2 2 + 2 ^ 18 * d.bufAddr.toNat

/-- STATS (R467): it waits for the end of its FAB cycle, since its snapshot includes every update of that cycle (R474). -/
def cmdStats (d : Cmd) (inst _id : Nat) (s : State) : State × Answer :=
  let sel := argN d 0 1
  let id := argN d 2 2
  orElse s
    [(sel ≤ 3 && !statsPermitted s inst sel id, stNotPermitted),
     (!argsOnly d [(0, 1), (2, 2)] || !statsExists s sel id || d.bufLen < statsSize sel, stBadParam)]
    fun s => (s, .wait (statsArg d))

def execStats (r : CmdRing) (d : Cmd) (s : State) : Host.Outcome State Fault Refusal := goOnKeep s (runCmd 0x09 false r d (cmdStats d) s)

/-- A STATS writes its record and completes. -/
def finishStats (s : State) (c : PendCmd) : State :=
  let n := cmdInst c.ring
  let b := statsRecord s n (c.arg % 4) (c.arg / 4 % 2 ^ 16)
  completeCmd (hostWrite { s with cmds := s.cmds.filter (·.id ≠ c.id) } n (getInst s n).home (c.arg / 2 ^ 18) b) c.ring c.tag c.index 0x09 stOK
    b.length []

/-- At the end of a FAB cycle the STATS taken in it write their records, with what has been handed over by then (R76, R474). -/
def settleStats (s : State) : State :=
  if (s.now + 1) % fabCycle = 0 then
    match s.cmds.filter (·.opcode = 0x09) with
    | [] => s
    | c :: t => (c :: t).foldl finishStats (handOver s s.now)
  else s

-- ------------------------------------------------------------------ SEQ_ATTACH, SEQ_DETACH (R241, R242)

/-- SEQ_ATTACH. -/
def cmdSeqAttach (d : Cmd) (inst _id : Nat) (s : State) : State × Answer :=
  let n := argN d 0 1
  let k := serviceKey inst n
  match qpByNum s (argN d 4 4) with
  | none => orElse s [(!ready s rdyWgt, stNotReady), (true, stNotPermitted)] fun s => (s, .ok)
  | some (qi, q) =>
    orElse s
      [(!ready s rdyWgt, stNotReady), (q.owner ≠ inst, stNotPermitted), (15 < n || !argsOnly d [(0, 1), (4, 4)], stBadParam),
       (q.service.isSome, stStateConflict), (256 ≤ (tgetD s.services k {}).attached.length, stNoResource)]
      fun s =>
        (modQp { s with services := tmodD s.services k {} fun v => { v with attached := v.attached ++ [qi] } } qi
          fun q => { q with service := some k, serviceAt := s.now }, .ok)

def execSeqAttach (r : CmdRing) (d : Cmd) (s : State) : Host.Outcome State Fault Refusal :=
  goOnKeep s (runCmd 0x0C false r d (cmdSeqAttach d) s)

/-- SEQ_DETACH: at once, or once the queue pair's last slot has been scrubbed. -/
def cmdSeqDetach (d : Cmd) (inst id : Nat) (s : State) : State × Answer :=
  let n := argN d 0 1
  let k := serviceKey inst n
  match qpByNum s (argN d 4 4) with
  | none => orElse s [(!ready s rdyWgt, stNotReady), (true, stNotPermitted)] fun s => (s, .ok)
  | some (qi, q) =>
    orElse s
      [(!ready s rdyWgt, stNotReady), (q.owner ≠ inst, stNotPermitted), (15 < n || !argsOnly d [(0, 1), (4, 4)], stBadParam),
       (q.service ≠ some k, stStateConflict)]
      fun s =>
        let s := { s with services := tmodD s.services k {} fun v => { v with attached := v.attached.filter (· ≠ qi) } }
        let s := modQp s qi fun q => { q with service := none, serviceEnd := s.now, seqIn := [] }
        if qpHoldsSlot s qi then (detachSlots (markClosing (modQp s qi fun q => { q with detach := tset q.detach id 0 }) qi) qi id, .wait qi)
        else (s, .done stOK [(0, 2, 0)] [])

def execSeqDetach (r : CmdRing) (d : Cmd) (s : State) : Host.Outcome State Fault Refusal :=
  goOnKeep s (runCmd 0x0D false r d (cmdSeqDetach d) s)

/-- The detaches of a queue pair whose slots have all been scrubbed: the command and how many slots it closed. -/
def detachedNow (s : State) (qi : Nat) (q : Qp) : Table Nat := q.detach.filter fun x => !slotAwaits s qi x.1

/-- SEQ_DETACH_DONE (R242): the last slot that the queue pair held when its detach was taken has been scrubbed. -/
def execSeqDetachDone (qp : Nat) (s : State) : Host.Outcome State Fault Refusal :=
  goOnKeep s (match tget s.qps qp with
    | some q =>
      let l := detachedNow s qp q
      l.foldl (fun s x => finishCmd s x.1 stOK [(0, 2, x.2)])
        (if l = [] then s else modQp s qp fun q => { q with detach := q.detach.filter fun x => !l.contains x })
    | none => s)

end Sys2Proof.Machine
end

