-- ==== Sys2Proof/Machine/Queues.lean ====
section
/-! DEFINITION. Completion queues, other rings, memory regions and buckets (R464, R468, R469, R386-R388, R481). -/

namespace Sys2Proof.Machine

open Sys2Proof

-- ------------------------------------------------------------------ rings

/-- R430: a power of two of entries from 64 to 65 536, at a 4 KiB-aligned base. -/
def ringShapeOk (entries base : Nat) : Bool := isPow2 entries && 64 ≤ entries && entries ≤ 65536 && base % 4096 = 0

/-- An interrupt: a vector from 0 to 2 047 and a MOD_COUNT of at least 1 (R440, R570). -/
def irqOk (vector modCount : Nat) : Bool := vector < 2048 && 1 ≤ modCount

/-- Rings of a kind that an instance owns. -/
def ringsOf (s : State) (kind inst : Nat) : Nat := (tvals s.rings).countP fun r => r.kind = kind && r.owner = inst

/-- What a command must name: it belongs to the instance, and it exists. -/
def cqChecks (s : State) (inst n : Nat) (bad : Bool) : List (Bool × Nat) :=
  [((getRing s (ringKey rkCq n)).any (fun r => r.owner ≠ inst), stNotPermitted),
   ((getRing s (ringKey rkCq n)).isNone || bad, stBadParam)]

/-- CQ_CREATE (R468). -/
def cmdCqCreate (d : Cmd) (inst _id : Nat) (s : State) : State × Answer :=
  let entries := argN d 0 4
  let base := argN d 16 8
  let n := lowestFrom (fun k => (getRing s (ringKey rkCq k)).isNone) 65536 0
  orElse s
    [(!argsOnly d [(0, 11), (16, 8)] || 1 < argN d 10 1 || !ringShapeOk entries base || !irqOk (argN d 4 2) (argN d 6 2), stBadParam),
     (n.isNone || (getInst s inst).shares.cqs ≤ ringsOf s rkCq inst, stNoResource)]
    fun s =>
      let k := n.getD 0
      let ring : Ring :=
        { kind := rkCq, owner := inst, number := k, base := base, entries := entries, vector := argN d 4 2, modCount := argN d 6 2,
          modUsec := argN d 8 2, splitPhase := argN d 10 1 = 1 }
      ({ s with rings := tset s.rings (ringKey rkCq k) ring }, .done stOK [(0, 2, k)] [])

def execCqCreate (r : CmdRing) (d : Cmd) (s : State) : Host.Outcome State Fault Refusal :=
  goOnKeep s (runCmd 0x10 false r d (cmdCqCreate d) s)

/-- CQ_MODIFY (R461, R468): from the next entry written. -/
def cmdCqModify (d : Cmd) (inst _id : Nat) (s : State) : State × Answer :=
  let n := argN d 0 2
  orElse s (cqChecks s inst n (!argsOnly d [(0, 8)] || !irqOk (argN d 2 2) (argN d 4 2)))
    fun s => (modRing s (ringKey rkCq n) fun r => { r with modNext := some (argN d 2 2, argN d 4 2, argN d 6 2) }, .ok)

def execCqModify (r : CmdRing) (d : Cmd) (s : State) : Host.Outcome State Fault Refusal :=
  goOnKeep s (runCmd 0x11 false r d (cmdCqModify d) s)

/-- Does a queue pair, a raw ring or a steer entry name a completion queue (R468)? -/
def cqInUse (s : State) (n : Nat) : Bool :=
  (tvals s.qps).any (fun q => q.live && (q.sendCq = n || q.recvCq = n))
  || (tvals s.rings).any fun r => (r.kind = rkRawTx || r.kind = rkRawRx || r.kind = rkSteer) && r.cq = n

/-- CQ_DESTROY (R468). -/
def cmdCqDestroy (d : Cmd) (inst _id : Nat) (s : State) : State × Answer :=
  let n := argN d 0 2
  orElse s (cqChecks s inst n (!argsOnly d [(0, 2)]) ++ [(cqInUse s n, stStateConflict)])
    fun s => ({ s with rings := tdel s.rings (ringKey rkCq n) }, .ok)

def execCqDestroy (r : CmdRing) (d : Cmd) (s : State) : Host.Outcome State Fault Refusal :=
  goOnKeep s (runCmd 0x12 false r d (cmdCqDestroy d) s)

/-- The key of a ring that RING_CREATE makes; none for another kind. -/
def ringOfKind (inst kind number : Nat) : Option Nat :=
  if kind = rkEvent ∨ kind = rkTs then some (ringKey kind inst)
  else if kind = rkRawTx ∨ kind = rkRawRx then some (rawKey kind inst number)
  else if kind = rkTlm then some (ringKey rkTlm 0)
  else none

def isRawKind (kind : Nat) : Bool := kind = rkRawTx || kind = rkRawRx

/-- RING_CREATE (R468). -/
def cmdRingCreate (d : Cmd) (inst _id : Nat) (s : State) : State × Answer :=
  let kind := argN d 0 1
  let number := argN d 1 1
  let cq := argN d 8 2
  let key := ringOfKind inst kind number
  let raw := isRawKind kind
  orElse s
    [((kind = rkTlm && inst ≠ 0) || (raw && (getRing s (ringKey rkCq cq)).any fun r => r.owner ≠ inst), stNotPermitted),
     (!argsOnly d [(0, 3), (4, 20)] || key.isNone || 1 < argN d 2 1 || (if raw then 15 < number else number ≠ 0)
        || (raw && (getRing s (ringKey rkCq cq)).isNone) || !ringShapeOk (argN d 4 4) (argN d 16 8)
        || ((kind = rkEvent || kind = rkTs) && !irqOk (argN d 10 2) (argN d 12 2)), stBadParam),
     ((getRing s (key.getD 0)).isSome, stStateConflict)]
    fun s =>
      let ring : Ring :=
        { kind := kind, owner := inst, number := number, base := argN d 16 8, entries := argN d 4 4, vector := argN d 10 2,
          modCount := argN d 12 2, modUsec := argN d 14 2, splitPhase := argN d 2 1 = 1, cq := if raw then cq else 0 }
      ({ s with rings := tset s.rings (key.getD 0) ring }, .ok)

def execRingCreate (r : CmdRing) (d : Cmd) (s : State) : Host.Outcome State Fault Refusal :=
  goOnKeep s (runCmd 0x13 false r d (cmdRingCreate d) s)

/-- RING_DESTROY (R468, R474). -/
def cmdRingDestroy (d : Cmd) (inst _id : Nat) (s : State) : State × Answer :=
  let kind := argN d 0 1
  let key := ringOfKind inst kind (argN d 1 1)
  orElse s
    [(kind = rkTlm && inst ≠ 0, stNotPermitted),
     (!argsOnly d [(0, 2)] || key.isNone || (!isRawKind kind && argN d 1 1 ≠ 0) || 15 < argN d 1 1
        || (getRing s (key.getD 0)).isNone, stBadParam)]
    fun s => ({ s with rings := tdel s.rings (key.getD 0) }, .ok)

def execRingDestroy (r : CmdRing) (d : Cmd) (s : State) : Host.Outcome State Fault Refusal :=
  goOnKeep s (runCmd 0x14 false r d (cmdRingDestroy d) s)

-- ------------------------------------------------------------------ memory regions

/-- Live regions of an instance. -/
def mrsOf (s : State) (inst : Nat) : Nat := (tvals s.mrs).countP fun m => m.live && m.owner = inst

/-- The variant a reused region index takes (R464). -/
def nextVariant (s : State) (k : Nat) : Nat := match tget s.mrs k with | some m => (m.variant + 1) % 256 | none => 0

/-- MR_REG (R464): the key holds the region index in [31:8] and the variant in [7:0]. -/
def cmdMrReg (d : Cmd) (inst _id : Nat) (s : State) : State × Answer :=
  let link := argN d 0 1
  let access := argN d 1 1
  let len := argN d 16 8
  let n := lowestFrom (fun k => !((tget s.mrs k).any (·.live))) 1048576 0
  orElse s
    [(!argsOnly d [(0, 2), (8, 16)] || 1 < link || 7 < access || len = 0 || 2 ^ 40 < len, stBadParam),
     (n.isNone || (getInst s inst).shares.mrs ≤ mrsOf s inst, stNoResource)]
    fun s =>
      let k := n.getD 0
      let m : MemRegion :=
        { owner := inst, variant := nextVariant s k, live := true, link := link, access := access, addr := argN d 8 8, length := len }
      ({ s with mrs := tset s.mrs k m }, .done stOK [(0, 4, k * 256 + m.variant)] [])

def execMrReg (r : CmdRing) (d : Cmd) (s : State) : Host.Outcome State Fault Refusal := goOnKeep s (runCmd 0x18 false r d (cmdMrReg d) s)

/-- Does an outstanding work request of an instance name a key (R464)? -/
def keyInUse (s : State) (inst key : Nat) : Bool :=
  (tvals s.qps).any (fun q => q.live && q.owner = inst
    && (q.sends.any (fun w => w.lkey = key && w.done.isNone && !w.own) || q.recvs.any (fun w => w.lkey = key)
      || (tvals q.rxMsgs).any fun m => m.wr.any fun w => w.lkey = key))
  || (tvals s.msgs).any (fun m => !m.finished && (m.steered.toList ++ m.amendedTo.toList).any fun t => t.wr.any fun x => x.2.lkey = key)
  || (tvals s.rings).any fun r => r.owner = inst && (r.kind = rkSq || r.kind = rkRq || isRawKind r.kind)
      && (r.posted.any (fun p => le p 4 4 = key) || r.rawOut.any fun w => w.lkey = key && w.status.isNone)

/-- MR_DEREG (R464). -/
def cmdMrDereg (d : Cmd) (inst _id : Nat) (s : State) : State × Answer :=
  let key := argN d 0 4
  let m := (tget s.mrs (key / 256)).filter fun m => m.live && m.variant = key % 256
  orElse s
    [(m.any (fun m => m.owner ≠ inst), stNotPermitted), (m.isNone || !argsOnly d [(0, 4)], stBadParam),
     (keyInUse s inst key, stStateConflict)]
    fun s => ({ s with mrs := tmod s.mrs (key / 256) fun m => { m with live := false } }, .ok)

def execMrDereg (r : CmdRing) (d : Cmd) (s : State) : Host.Outcome State Fault Refusal := goOnKeep s (runCmd 0x19 false r d (cmdMrDereg d) s)

-- ------------------------------------------------------------------ SHAPE

/-- R395: a rate in Mb/s, or unlimited. -/
def rateOk (v : Nat) : Bool := v ≤ 1600000 || v = 0x1FFFFF
def burstOk (v : Nat) : Bool := 64 ≤ v && v ≤ 16777215

/-- Writes a bucket's RATE, BURST and MODE (R387, R388). -/
def setBucket (s : State) (k rate burst : Nat) (mark forgive : Bool) : State :=
  let s := bucketRate (bucketBurst s k burst) k rate forgive
  { s with buckets := tmodD s.buckets k {} fun b => { b with mark := mark } }

/-- SHAPE (R386, R469, R541). -/
def cmdShape (d : Cmd) (inst _id : Nat) (s : State) : State × Answer :=
  let t := argN d 0 1
  let fl := argN d 1 1
  let id := argN d 4 4
  let q := qpByNum s id
  let onInst := t < 2
  orElse s
    [(!ready s rdyShp, stNotReady), ((onInst && inst ≠ 0) || (!onInst && q.any fun q => q.2.owner ≠ inst), stNotPermitted),
     (!argsOnly d [(0, 2), (4, 12)] || 3 < t || 3 < fl || !rateOk (argN d 8 4) || !burstOk (argN d 12 4)
        || (if onInst then 1023 < id || !instExists s id else q.isNone), stBadParam)]
    fun s =>
      let rx := t % 2 = 1
      let k := if onInst then instBucket id rx else qpBucket (id % 2 ^ 18) rx
      (setBucket s k (argN d 8 4) (argN d 12 4) (rx && bit fl 1) (bit fl 0), .ok)

def execShape (r : CmdRing) (d : Cmd) (s : State) : Host.Outcome State Fault Refusal := goOnKeep s (runCmd 0x28 false r d (cmdShape d) s)

end Sys2Proof.Machine
end

