-- ==== Sys2Proof/Machine/QpCmds.lean ====
section
/-! DEFINITION. Queue pair commands (R317-R322, R347, R350, R463, R471). -/

namespace Sys2Proof.Machine

open Sys2Proof

-- ------------------------------------------------------------------ QP_CREATE

/-- Queue pairs of an instance. -/
def qpsOf (s : State) (inst : Nat) : Nat := (tvals s.qps).countP fun q => q.live && q.owner = inst

/-- The queue pair that takes a free index: its generation advances from 63 to 1 (R317). -/
def freshQp (s : State) (k inst sendCq recvCq : Nat) : Qp :=
  match tget s.qps k with
  | some q => { gen := if q.gen = 63 then 1 else q.gen + 1, owner := inst, sendCq := sendCq, recvCq := recvCq, detach := q.detach }
  | none => { owner := inst, sendCq := sendCq, recvCq := recvCq }

/-- QP_CREATE (R463, R481): a queue pair in RESET with its two rings. -/
def cmdQpCreate (d : Cmd) (inst _id : Nat) (s : State) : State × Answer :=
  let scq := argN d 0 2
  let rcq := argN d 2 2
  let cqOf := fun n => getRing s (ringKey rkCq n)
  let n := lowestFrom (fun k => !((tget s.qps k).any (·.live))) 262144 0
  orElse s
    [(!ready s rdyWgt, stNotReady), ((cqOf scq).any (·.owner ≠ inst) || (cqOf rcq).any (·.owner ≠ inst), stNotPermitted),
     (!argsOnly d [(0, 4), (8, 12), (24, 12)] || (cqOf scq).isNone || (cqOf rcq).isNone || !ringShapeOk (argN d 16 4) (argN d 8 8)
        || !ringShapeOk (argN d 32 4) (argN d 24 8), stBadParam),
     (n.isNone || (getInst s inst).shares.qps ≤ qpsOf s inst, stNoResource)]
    fun s =>
      let k := n.getD 0
      let q := freshQp s k inst scq rcq
      let sq : Ring := { kind := rkSq, owner := inst, number := k, base := argN d 8 8, entries := argN d 16 4 }
      let rq : Ring := { kind := rkRq, owner := inst, number := k, base := argN d 24 8, entries := argN d 32 4 }
      ({ s with qps := tset s.qps k q, rings := tset (tset s.rings (ringKey rkSq k) sq) (ringKey rkRq k) rq },
       .done stOK [(0, 4, qpNum k q)] [])

def execQpCreate (r : CmdRing) (d : Cmd) (s : State) : Host.Outcome State Fault Refusal :=
  goOnKeep s (runCmd 0x20 false r d (cmdQpCreate d) s)

-- ------------------------------------------------------------------ the attribute block (R319, R463)

def attrVlan (d : Cmd) : Option Nat := if bit (bufN d 6 2) 15 then some (bufN d 6 2 % 4096) else none
def attrPortOk (s : State) (d : Cmd) : Bool := bufN d 0x19 1 < 16 && portExists s (bufN d 0x19 1)
def attrVlanOk (d : Cmd) : Bool := bits (bufN d 6 2) 14 12 = 0

/-- PEER_IP as a number in wire order (R463). -/
def attrIp (d : Cmd) : Nat := if bufN d 0x18 1 = 4 then be d.buf 8 4 else be d.buf 8 16

/-- IP_VERSION 4 or 6 with a unicast address (R319). -/
def attrIpOk (d : Cmd) : Bool :=
  if bufN d 0x18 1 = 4 then byteAt d.buf 8 < 224 && attrIp d ≠ 0 && zeroAt d.buf 0xC 12
  else bufN d 0x18 1 = 6 && byteAt d.buf 8 ≠ 0xFF && attrIp d ≠ 0

def attrSportOk (d : Cmd) : Bool := bufN d 0x1A 2 = 0 || 49152 ≤ bufN d 0x1A 2
def attrSport (d : Cmd) (qi : Nat) : Nat := if bufN d 0x1A 2 = 0 then 49152 + qi % 16384 else bufN d 0x1A 2
def attrCipher (d : Cmd) : Bool := bufN d 0x70 1 = 1
def attrResvOk (d : Cmd) : Bool := zeroAt d.buf 0x71 15

/-- Ranges of the attributes read at RTR. -/
def attrRtrOk (s : State) (d : Cmd) : Bool :=
  attrPortOk s d && attrVlanOk d && attrIpOk d && attrSportOk d && bufN d 0x1C 1 < 8 && 1 ≤ bufN d 0x1D 1
  && [1024, 2048, 4096, 8192].contains (bufN d 0x1E 2) && bufN d 0x20 4 < 2 ^ 24 && bufN d 0x24 4 < 2 ^ 24
  && 1 ≤ bufN d 0x2C 2 && bufN d 0x2C 2 ≤ 4096 && bufN d 0x70 1 ≤ 1 && attrResvOk d

/-- Ranges of the attributes read at RTS; CIPHER is what RTR gave, where RTR has been. -/
def attrRtsOk (q : Qp) (d : Cmd) : Bool :=
  bufN d 0x28 4 < 2 ^ 24 && bufN d 0x2E 1 < 16 && !bit (bufN d 0x2F 1) 3 && bufN d 0x70 1 ≤ 1
  && (q.st = .reset || attrCipher d = q.rxKey.isSome) && attrResvOk d

/-- The conditions that every QP_MODIFY shares, in the order of R11. -/
def qpChecks (s : State) (inst : Nat) (d : Cmd) (bad : Qp → Bool) (conflict : Qp → Bool) : List (Bool × Nat) :=
  let q := qpByNum s (argN d 0 4)
  [(!ready s rdyWgt, stNotReady), (q.any (fun q => q.2.owner ≠ inst), stNotPermitted),
   (q.isNone || !argsOnly d [(0, 6)] || 4 < argN d 4 1 || q.any (fun q => bad q.2), stBadParam),
   (q.any (fun q => conflict q.2), stStateConflict)]

/-- A row of QP_MODIFY carries the descriptors of its TARGET; one whose TARGET names no row is refused by any of them. -/
def modifyCmd (target : Nat) (r : CmdRing) (d : Cmd) (f : Nat → Nat → State → State × Answer) (s : State) : State :=
  if argN d 4 1 = target ∨ 4 < argN d 4 1 then runCmd 0x21 false r d f s else s

/-- The index of the QP a command names. -/
def argQp (d : Cmd) : Nat := argN d 0 4 % 2 ^ 18

-- ------------------------------------------------------------------ QP_MODIFY

/-- The attributes of RTR (R319): the responder side starts at RQ_PSN. -/
def setRtr (q : Qp) (qi : Nat) (d : Cmd) : Qp :=
  { q with st := .rtr, peerMac := BitVec.ofNat 48 (be d.buf 0 6), vlan := attrVlan d, ipv := bufN d 0x18 1,
           peerIp := BitVec.ofNat 128 (attrIp d), port := bufN d 0x19 1, sport := attrSport d qi, tc := bufN d 0x1C 1,
           hop := bufN d 0x1D 1, pmtu := bufN d 0x1E 2, peerQp := bufN d 0x20 4, ePsn := bufN d 0x24 4, msgWindow := bufN d 0x2C 2,
           creditMsn := bufN d 0x2C 2 - 1, rxKey := if attrCipher d then some (BitVec.ofNat 256 (be d.buf 0x30 32)) else none }

/-- QP_MODIFY to RTR (R320, R347, R463; MASK is for TARGET 4 alone): RESET only; the peer entry exists from then on. -/
def cmdQpRtr (d : Cmd) (inst _id : Nat) (s : State) : State × Answer :=
  let peer := addPeer s (bufN d 0x19 1) (BitVec.ofNat 128 (attrIp d)) (bufN d 0x18 1)
  orElse s
    (qpChecks s inst d (fun _ => !attrRtrOk s d) (fun q => q.st ≠ .reset) ++ [(peer.isNone, stNoResource)])
    fun s => (modQp (peer.getD s) (argQp d) fun q => setRtr q (argQp d) d, .ok)

def execQpModifyRtr (r : CmdRing) (d : Cmd) (s : State) : Host.Outcome State Fault Refusal := goOnKeep s (modifyCmd 1 r d (cmdQpRtr d) s)

/-- Retry counts: the block's, or WGT_RETRY's (R319, R463). -/
def retryOf (s : State) (d : Cmd) : Nat × Nat :=
  let v := bufN d 0x2F 1
  if bit v 7 then (regBits s wgtRetry 2 0, regBits s wgtRetry 6 4) else (bits v 2 0, bits v 6 4)

/-- The attributes of RTS: the requester side starts at SQ_PSN with the congestion state of R340. The credit before the first ACK is
the queue pair's own MSG_WINDOW (DESIGN CHOICE; log entry 27). -/
def setRts (s : State) (q : Qp) (d : Cmd) : Qp :=
  let p := bufN d 0x28 4
  let rt := retryOf s d
  ccStart s
    { q with st := .rts, sqPsn := p, unaPsn := p, nextMsn := 0, credit := q.msgWindow - 1, profile := bufN d 0x2E 1, retryMax := rt.1,
             rnrRetry := rt.2, expiries := 0, rnrUsed := 0,
             txKey := if attrCipher d then some (BitVec.ofNat 256 (be d.buf 0x50 32)) else none }

/-- QP_MODIFY to RTS (R320): RTR only. -/
def cmdQpRts (d : Cmd) (inst _id : Nat) (s : State) : State × Answer :=
  orElse s (qpChecks s inst d (fun q => !attrRtsOk q d) (fun q => q.st ≠ .rtr))
    fun s => (modQp s (argQp d) fun q => setRts s q d, .ok)

def execQpModifyRts (r : CmdRing) (d : Cmd) (s : State) : Host.Outcome State Fault Refusal := goOnKeep s (modifyCmd 2 r d (cmdQpRts d) s)

/-- The attributes of a change in RTS by MASK: a new path or source port restarts the congestion state (R319). -/
def setInRts (s : State) (q : Qp) (qi : Nat) (d : Cmd) : Qp :=
  let m := argN d 5 1
  let q1 := if bit m 0 then { q with port := bufN d 0x19 1, peerMac := BitVec.ofNat 48 (be d.buf 0 6), vlan := attrVlan d } else q
  let q2 := if bit m 1 then { q1 with sport := attrSport d qi } else q1
  let p := bufN d 0x2E 1
  let q3 := if bit m 2 then { q2 with profile := p, ecn := regBit s (wgtCcReg p 2) 20 } else q2
  if q3.port ≠ q.port ∨ q3.peerMac ≠ q.peerMac ∨ q3.sport ≠ q.sport then ccStart s q3 else q3

/-- QP_MODIFY in RTS (R319, R320, R347). -/
def cmdQpInRts (d : Cmd) (inst _id : Nat) (s : State) : State × Answer :=
  let m := argN d 5 1
  let q := qpByNum s (argN d 0 4)
  let peer := match q with
    | some q => if bit m 0 then addPeer s (bufN d 0x19 1) q.2.peerIp q.2.ipv else some s
    | none => some s
  orElse s
    (qpChecks s inst d
      (fun _ => 7 < m || (bit m 0 && (!attrPortOk s d || !attrVlanOk d)) || (bit m 1 && !attrSportOk d)
        || (bit m 2 && 15 < bufN d 0x2E 1) || !attrResvOk d)
      (fun q => q.st ≠ .rts) ++ [(peer.isNone, stNoResource)])
    fun s =>
      let s := peer.getD s
      (freePeers (modQp s (argQp d) fun q => setInRts s q (argQp d) d), .ok)

def execQpModifyInRts (r : CmdRing) (d : Cmd) (s : State) : Host.Outcome State Fault Refusal := goOnKeep s (modifyCmd 4 r d (cmdQpInRts d) s)

/-- A queue pair in RESET: what QP_CREATE gave it, the service it is attached to, and the path to the peer it had, by which a stray packet is still
known and answered (R318). -/
def resetQp (q : Qp) : Qp :=
  { gen := q.gen, live := q.live, owner := q.owner, sendCq := q.sendCq, recvCq := q.recvCq, service := q.service, serviceAt := q.serviceAt,
    serviceEnd := q.serviceEnd, detach := q.detach, ipv := q.ipv, peerIp := q.peerIp, peerQp := q.peerQp, port := q.port,
    peerMac := q.peerMac, vlan := q.vlan, sport := q.sport, tc := q.tc, hop := q.hop }

/-- Flushes a queue pair in RTR or RTS (R320, R322). -/
def flushLive (s : State) (qi : Nat) : State :=
  match getQp s qi with
  | some q => if q.st = .rtr ∨ q.st = .rts then qpError s qi none none else s
  | none => s

/-- QP_MODIFY to RESET (R320, R322). -/
def cmdQpReset (d : Cmd) (inst _id : Nat) (s : State) : State × Answer :=
  orElse s (qpChecks s inst d (fun _ => false) (fun _ => false))
    fun s => (freePeers (modQp (markClosing (flushLive s (argQp d)) (argQp d)) (argQp d) resetQp), .ok)

def execQpModifyReset (r : CmdRing) (d : Cmd) (s : State) : Host.Outcome State Fault Refusal := goOnKeep s (modifyCmd 0 r d (cmdQpReset d) s)

-- ------------------------------------------------------------------ QP_QUERY, QP_DESTROY

/-- Numeric code of a QP state (R471). -/
def qpCode : QpState → Nat
  | .reset => 0
  | .rtr => 1
  | .rts => 2
  | .error => 3

/-- The QP record (R471): the addresses in wire order, the rate in Mb/s. -/
def qpRecord (qi : Nat) (q : Qp) : Bytes :=
  let b := record 128
    [(0x00, 4, qpNum qi q), (0x04, 1, qpCode q.st), (0x05, 1, q.port), (0x06, 1, q.tc), (0x07, 1, q.profile),
     (0x0E, 2, match q.vlan with | some v => v + 32768 | none => 0), (0x20, 4, q.peerQp), (0x24, 2, q.sendCq), (0x26, 2, q.recvCq),
     (0x28, 2, q.sport), (0x2A, 2, q.pmtu), (0x2C, 2, q.msgWindow), (0x2E, 1, q.retryMax + 16 * q.rnrRetry),
     (0x2F, 1, b2n q.rxKey.isSome), (0x30, 4, q.sqPsn), (0x34, 4, q.ePsn), (0x38, 4, q.cwnd), (0x3C, 4, (q.rate * 8000).floor.toNat),
     (0x40, 4, q.srtt / 8), (0x44, 4, q.rttvar / 8), (0x48, 8, q.sentCount), (0x50, 8, q.retxCount), (0x58, 8, q.recvCount),
     (0x60, 4, outBytes q), (0x64, 1, q.ipv), (0x65, 1, q.hop)]
  overlay (overlay b 0x08 (toBe 6 q.peerMac.toNat)) 0x10 (if q.ipv = 4 then toBe 4 q.peerIp.toNat else toBe 16 q.peerIp.toNat)

/-- QP_QUERY (R471). -/
def cmdQpQuery (d : Cmd) (inst _id : Nat) (s : State) : State × Answer :=
  match qpByNum s (argN d 0 4) with
  | none => orElse s [(!ready s rdyWgt, stNotReady), (true, stBadParam)] fun s => (s, .ok)
  | some (qi, q) =>
    orElse s [(!ready s rdyWgt, stNotReady), (q.owner ≠ inst, stNotPermitted), (!argsOnly d [(0, 4)], stBadParam)]
      fun s => (s, .done stOK [] (qpRecord qi q))

def execQpQuery (r : CmdRing) (d : Cmd) (s : State) : Host.Outcome State Fault Refusal :=
  goOnKeep s (runCmd 0x22 false r d (cmdQpQuery d) s)

/-- A queue pair is freed: its rings, its buckets, its attachment and its peer go with it (R320, R347). -/
def freeQp (s : State) (qi : Nat) : State :=
  let s := markClosing (flushLive s qi) qi
  let s := modQp s qi fun q => { resetQp q with live := false, service := none }
  let s := { s with
    rings := tdel (tdel s.rings (ringKey rkSq qi)) (ringKey rkRq qi)
    buckets := tdel (tdel s.buckets (qpBucket qi false)) (qpBucket qi true)
    services := s.services.map fun v => (v.1, { v.2 with attached := v.2.attached.filter (· ≠ qi) })
    results := s.results.filter (·.2.qp ≠ qi) }
  freePeers s

/-- QP_DESTROY (R320). -/
def cmdQpDestroy (d : Cmd) (inst _id : Nat) (s : State) : State × Answer :=
  match qpByNum s (argN d 0 4) with
  | none => orElse s [(!ready s rdyWgt, stNotReady), (true, stBadParam)] fun s => (s, .ok)
  | some (qi, q) =>
    orElse s [(!ready s rdyWgt, stNotReady), (q.owner ≠ inst, stNotPermitted), (!argsOnly d [(0, 4)], stBadParam)]
      fun s => (freeQp s qi, .ok)

def execQpDestroy (r : CmdRing) (d : Cmd) (s : State) : Host.Outcome State Fault Refusal :=
  goOnKeep s (runCmd 0x23 false r d (cmdQpDestroy d) s)

end Sys2Proof.Machine
end

