-- ==== Sys2Proof/Machine/ArmCmds.lean ====
section
/-! DEFINITION. Armature commands (R267-R299, R466, R472): reading and checking a plan, and the commands of R297. -/

namespace Sys2Proof.Machine

open Sys2Proof

-- ------------------------------------------------------------------ reading a plan (R294)

def planMembers (b : Bytes) : Nat := le b 6 2
def planShards (b : Bytes) : Nat := le b 0xA 2
def planStreams (b : Bytes) : Nat := le b 0xC 4
def shardOff (b : Bytes) (i : Nat) : Nat := 64 + 8 * planMembers b + 16 * i
def planStreamOff (b : Bytes) (i : Nat) : Nat := 64 + 8 * planMembers b + 16 * planShards b + 40 * i

def planShard (b : Bytes) (i : Nat) : Shard :=
  let o := shardOff b i
  { num := le b o 2, primary := le b (o + 2) 2, standby := le b (o + 4) 2, unit := le b (o + 6) 2, firing := le b (o + 8) 4,
    collectBeat := le b (o + 12) 4 }

def planStream (b : Bytes) (i : Nat) : Stream :=
  let o := planStreamOff b i
  { num := le b o 2, kind := byteAt b (o + 2), groups := le b (o + 4) 2, src := le b (o + 6) 2, dst := le b (o + 8) 2,
    srcLane := byteAt b (o + 10), srcChan := byteAt b (o + 11), dstLane := byteAt b (o + 12), dstChan := byteAt b (o + 13),
    windowNs := le b (o + 14) 2, sendBeat := le b (o + 16) 4, consumeBeat := le b (o + 20) 4, pathMax := le b (o + 24) 4,
    sendOff := le b (o + 28) 2, priPort := byteAt b (o + 30), stbPort := byteAt b (o + 31),
    groupMac := BitVec.ofNat 48 (be b (o + 32) 6) }

def parsePlan (b : Bytes) : Plan :=
  { armId := le b 8 2, beat := le b 0x10 2, cipher := bit (le b 0x12 2) 0, periodBeats := le b 0x14 4, epoch := le b 0x18 8,
    timeBound := le b 0x20 4, sMin := le b 0x24 4,
    members := (List.range (planMembers b)).map fun i => (le b (64 + 8 * i) 2, le b (64 + 8 * i + 2) 2),
    shards := (List.range (planShards b)).map (planShard b), streams := (List.range (planStreams b)).map (planStream b) }

/-- A ring record of the argument block (R466): stream, slots, base. -/
def armRings (d : Cmd) : List (Nat × Nat × Nat) :=
  (List.range (bufN d 0x12 2)).map fun i => (bufN d (0x40 + 16 * i) 4, bufN d (0x44 + 16 * i) 4, bufN d (0x48 + 16 * i) 8)

-- ------------------------------------------------------------------ the plan's rules

/-- R294's header and the sizes of R267 and R272. -/
def planHeadOk (b : Bytes) (len : Nat) : Bool :=
  let p := parsePlan b
  le b 0 4 = 0x504D5241 && le b 4 2 = 1 && 2 ≤ planMembers b && planMembers b ≤ 512 && 1 ≤ planShards b && planShards b ≤ 4096
  && 1 ≤ planStreams b && planStreams b ≤ 65536 && 32 ≤ p.beat && p.beat ≤ 1024 && le b 0x12 2 ≤ 1 && 1 ≤ p.periodBeats
  && p.periodBeats ≤ 2 ^ 20 && 1000 ≤ periodNs p && periodNs p ≤ 1000000000 && 1 ≤ p.timeBound && p.timeBound ≤ 10000
  && le b 0x28 8 = len && len = planStreamOff b (planStreams b) && zeroAt b 0x30 16

def domainOf (p : Plan) (m : Nat) : Option Nat := (p.members.find? fun x => x.1 = m).map (·.2)

/-- Members, shards and their numbers (R267, R268). -/
def planShardsOk (b : Bytes) (p : Plan) : Bool :=
  rising (p.members.map (·.1)) && p.members.all (fun m => m.1 < 512)
  && (List.range (planMembers b)).all (fun i => zeroAt b (64 + 8 * i + 4) 4)
  && rising (p.shards.map (·.num))
  && p.shards.all fun h =>
    (domainOf p h.primary).isSome && h.collectBeat < p.periodBeats
    && (h.standby = 0xFFFF || (h.standby ≠ h.primary && (domainOf p h.standby).isSome && domainOf p h.standby = domainOf p h.primary))

/-- One stream record: its ranges, and zero in the fields that its KIND does not use (R276, R294). -/
def planStreamOk (b : Bytes) (p : Plan) (i : Nat) : Bool :=
  let o := planStreamOff b i
  let t := planStream b i
  let src := findShard p t.src
  let dst := findShard p t.dst
  let noSend := t.windowNs = 0 && t.sendBeat = 0 && t.pathMax = 0 && t.sendOff = 0 && t.priPort = 0 && t.stbPort = 0 && t.groupMac = 0
  t.kind ≤ 2 && byteAt b (o + 3) = 0 && zeroAt b (o + 0x26) 2 && 1 ≤ t.groups && t.groups ≤ 128
  && t.srcLane < 8 && t.srcChan < 16 && t.dstLane < 8 && t.dstChan < 16
  && (if t.kind = 1 then t.src = 0xFFFF && t.srcLane = 0 && t.srcChan = 0 else src.isSome)
  && (if t.kind = 2 then t.dst = 0xFFFF && t.dstLane = 0 && t.dstChan = 0 && t.consumeBeat = 0
      else dst.isSome && t.consumeBeat < p.periodBeats)
  && (if t.kind = 0 then t.sendOff < p.beat && t.priPort < 16 && t.groupMac.getLsbD 40
        && (if src.any (·.standby = 0xFFFF) then t.stbPort = 0xFF else t.stbPort < 16)
      else noSend)

/-- Two streams enter one channel of one shard at one consume beat (R277). -/
def channelsClash (p : Plan) : Bool :=
  !decide (((p.streams.filter (·.kind ≠ 2)).map fun t => (t.dst, t.dstLane, t.dstChan, t.consumeBeat)).Pairwise (· ≠ ·))

/-- 1/600 ns that a bundle takes on its slower sending port (R286; DEDUCED: a port number's rate is this adapter's, log entry 28). -/
def bundleTime (s : State) (p : Plan) (t : Stream) : Nat :=
  let n := (if p.cipher then 90 else 78) + 66 * t.groups
  n * max (portByteTime s t.priPort) (if t.stbPort < 16 then portByteTime s t.stbPort else 0)

def openNs (p : Plan) (t : Stream) : Nat := t.sendBeat * p.beat + t.sendOff

/-- The slack σ of a bundle stream in 1/600 ns (R286). -/
def slackOf (s : State) (p : Plan) (t : Stream) : Int :=
  (t.consumeBeat * p.beat * 600 : Nat)
    - (((openNs p t + 2 + t.pathMax + 2 * p.timeBound + (if p.cipher then 24 else 6)) * 600 + bundleTime s p t : Nat) : Int)

/-- R286 for one bundle stream. -/
def windowRulesOk (s : State) (p : Plan) (t : Stream) : Bool :=
  let collect := ((findShard p t.src).map (·.collectBeat)).getD 0
  1200 + bundleTime s p t ≤ t.windowNs * 600 && collect * p.beat + 40 ≤ openNs p t && openNs p t + t.windowNs ≤ periodNs p
  && 0 ≤ slackOf s p t

/-- S_min (R287): the least σ, in whole ns; of a plan with no bundle stream, zero. -/
def planSMin (s : State) (p : Plan) : Nat :=
  match (p.streams.filter (·.kind = 0)).map (slackOf s p) with
  | [] => 0
  | x :: l => (l.foldl min x).toNat / 600

/-- R290 for one shard, in 1/1 000 ns. -/
def collectOk (p : Plan) (h : Shard) : Bool :=
  p.streams.all fun t =>
    t.kind = 2 || t.dst ≠ h.num
    || t.consumeBeat * p.beat * 1000 + 12000 + (4 * t.groups + h.firing) * 625 + 8000 ≤ h.collectBeat * p.beat * 1000

/-- A plan's windows as (member, port, opening, length). -/
def planWindows (p : Plan) : List (Nat × Nat × Nat × Nat) :=
  p.streams.flatMap fun t =>
    match findShard p t.src with
    | some h =>
      if t.kind ≠ 0 then []
      else (h.primary, t.priPort, openNs p t, t.windowNs) ::
        (if h.standby = 0xFFFF then [] else [(h.standby, t.stbPort, openNs p t, t.windowNs)])
    | none => []

def windowsOverlap (p : Plan) : Bool :=
  !decide ((planWindows p).Pairwise fun x y => x.1 ≠ y.1 ∨ x.2.1 ≠ y.2.1 ∨ x.2.2.1 + x.2.2.2 ≤ y.2.2.1 ∨ y.2.2.1 + y.2.2.2 ≤ x.2.2.1)

/-- Shards of which a member is primary or standby. -/
def localShards (p : Plan) (m : Nat) : List Shard := p.shards.filter fun h => h.primary = m || h.standby = m

def isLocalShard (p : Plan) (m n : Nat) : Bool := (localShards p m).any (·.num = n)

/-- Does a member receive a bundle stream (R283)? -/
def receives (p : Plan) (m : Nat) (t : Stream) : Bool :=
  t.kind = 0 && (isLocalShard p m t.dst || (findShard p t.src).any (·.standby = m))

/-- Does a member send a stream, or own the memory ring of one? -/
def sends (p : Plan) (m : Nat) (t : Stream) : Bool := t.kind = 0 && isLocalShard p m t.src
def localRing (p : Plan) (m : Nat) (t : Stream) : Bool :=
  (t.kind = 1 && isLocalShard p m t.dst) || (t.kind = 2 && isLocalShard p m t.src)

/-- The ring records name each local feed and result once, with a power of two of slots from 2 to 4 096 (R466). -/
def ringRecordsOk (p : Plan) (m : Nat) (d : Cmd) : Bool :=
  let rs := armRings d
  rs.all (fun r => isPow2 r.2.1 && 2 ≤ r.2.1 && r.2.1 ≤ 4096 && p.streams.any fun t => t.num = r.1 && localRing p m t)
  && p.streams.all (fun t => !localRing p m t || rs.any fun r => r.1 = t.num)
  && decide ((rs.map (·.1)).Pairwise (· ≠ ·))

/-- R269 and R277 for the units of the local shards: image flags, entry links and exit lanes. -/
def localUnitsOk (s : State) (p : Plan) (m : Nat) : Bool :=
  (localShards p m).all (fun h => (getUnit s h.unit).any fun u => u.kind = 0 && u.drainClean && !u.guard && !u.full)
  && decide (((localShards p m).map (·.unit)).Pairwise (· ≠ ·))
  && p.streams.all fun t =>
    (t.kind = 2 || !isLocalShard p m t.dst || (findShard p t.dst).any fun h =>
      (getUnit s h.unit).any fun u => (entryLink u t.dstLane 0 t.dstChan).isSome)
    && (t.kind = 1 || !isLocalShard p m t.src || (findShard p t.src).any fun h => (getUnit s h.unit).any fun u => t.srcLane < u.lanes)

-- ------------------------------------------------------------------ what armatures reserve (R296)

/-- An armature's windows on a port of this adapter as (opening in the period, length), whatever its state. -/
def armPortWindows (a : Armature) (port : Nat) : List (Nat × Nat) :=
  a.plan.streams.filterMap fun t => if windowPort a t = some port then some (openNs a.plan t, t.windowNs) else none

def reservedNs (a : Armature) (port : Nat) : Nat := ((armPortWindows a port).map (·.2)).sum

/-- Two windows of one period length overlap, whatever their epochs. -/
def windowsMeet (period : Nat) (x y : Nat × Nat) : Bool :=
  (y.1 + period - x.1 % period) % period < x.2 || (x.1 + period - y.1 % period) % period < y.2

/-- Windows with their epoch added, modulo the period. -/
def armPhases (a : Armature) (port : Nat) : List (Nat × Nat) :=
  (armPortWindows a port).map fun w => ((a.plan.epoch + w.1) % periodNs a.plan, w.2)

/-- The entries that count toward the limit of 1 024: the user list and one for each armature window (R296, R384). -/
def mergedEntries (g : GateList) (ws : List (Nat × Nat)) : Nat := g.entries.length + ws.length

/-- Would a port carry more than it may with a new armature (R296)? On a port where the new one has no window, only windows of its owner that exceed a
lowered GATE_SHARE refuse it (R482). -/
def portOverfull (s : State) (a : Armature) (port : Nat) : Bool :=
  let others := (tvals s.arms).filter fun x => armPortWindows x port ≠ []
  let period := periodNs a.plan
  let mine := armPortWindows a port
  if mine = [] then
    let own := others.filter (·.owner = a.owner)
    (own.head?).any fun x => (getInst s a.owner).shares.gateShare * periodNs x.plan < (own.map fun x => reservedNs x port).sum * 100
  else
    let all := (others.map fun x => reservedNs x port).sum + reservedNs a port
    let own := ((others.filter (·.owner = a.owner)).map fun x => reservedNs x port).sum + reservedNs a port
    let g := (getPort s port).oper
    regBits s armMaxShare 6 0 * period < all * 100
    || (getInst s a.owner).shares.gateShare * period < own * 100
    || others.any (fun x => periodNs x.plan ≠ period
        || (armPhases x port).any fun w => (armPhases a port).any fun v => windowsMeet period w v)
    || 1024 < mergedEntries g ((others ++ [a]).flatMap fun x => armPhases x port) + (getPort s port).goneWins
    || (gateCycle g ≠ 0 && period % gateCycle g ≠ 0)

/-- Bundle buffer bytes of an armature (R296). -/
def bundleBytes (a : Armature) : Nat :=
  ((a.plan.streams.filter (receives a.plan a.member)).map fun t => 2 * (32 + 66 * t.groups)).sum

-- ------------------------------------------------------------------ ARM_CREATE

/-- The armature that a command describes, in IDLE. -/
def armOf (d : Cmd) (inst : Nat) : Armature :=
  { owner := inst, plan := parsePlan d.ext, member := bufN d 0x10 2, key := BitVec.ofNat 256 (be d.buf 0x20 32), rings := armRings d }

/-- BAD_PARAM conditions of ARM_CREATE (R295). -/
def planBad (s : State) (d : Cmd) : Bool :=
  let b := d.ext
  let p := parsePlan b
  let m := bufN d 0x10 2
  !argsOnly d [] || !zeroAt d.buf 0x14 12 || !planHeadOk b (bufN d 8 8) || !planShardsOk b p || !rising (p.streams.map (·.num))
  || !(List.range (planStreams b)).all (planStreamOk b p) || channelsClash p
  || !(p.streams.all fun t => t.kind ≠ 0 || windowRulesOk s p t) || !p.shards.all (collectOk p) || windowsOverlap p
  || (domainOf p m).isNone || !ringRecordsOk p m d || (!p.cipher && be d.buf 0x20 32 ≠ 0) || !localUnitsOk s p m

/-- ARM_CREATE (R295, R296, R466): the armature is IDLE and its units are attached. -/
def cmdArmCreate (d : Cmd) (inst _id : Nat) (s : State) : State × Answer :=
  let a := armOf d inst
  let hs := localShards a.plan a.member
  let units := hs.map fun h => getUnit s h.unit
  let n := lowestFree s.arms 4
  orElse s
    [(!ready s rdyArr || !ready s rdyTim || !ready s rdyArm, stNotReady),
     (units.any (fun u => u.any fun u => u.owner ≠ inst), stNotPermitted),
     (planBad s d, stBadParam),
     (units.any (fun u => u.any fun u => u.st ≠ .bisque || u.scrub.isSome || u.retired || u.arm.isSome), stStateConflict),
     (n.isNone || (List.range 16).any (portOverfull s a) || 4 * MiB < bundleBytes a + ((tvals s.arms).map bundleBytes).sum, stNoResource),
     (planSMin s a.plan ≠ a.plan.sMin
        || hs.any (fun h => (getUnit s h.unit).any fun u => h.firing < u.lastExit), stIntegrity)]
    fun s =>
      let k := n.getD 0
      let s := { s with arms := tset s.arms k a }
      let s := hs.foldl (fun s h => modUnit s h.unit fun u => { u with arm := some k }) s
      (s, .done stOK [(0, 1, k), (4, 4, a.plan.sMin)] [])

def execArmCreate (r : CmdRing) (d : Cmd) (s : State) : Host.Outcome State Fault Refusal :=
  goOnKeep s (runCmd 0x30 false r d (cmdArmCreate d) s)

-- ------------------------------------------------------------------ the other commands (R297)

/-- The current period of an armature's plan, before EPOCH negative (R273). -/
def curPeriod (s : State) (p : Plan) : Int := ((netNs s : Int) - p.epoch) / (max 1 (periodNs p) : Nat)

/-- The conditions that every command naming an armature slot shares. -/
def armChecks (s : State) (inst : Nat) (mgr : Bool) (a : Option Armature) (bad : Bool) : List (Bool × Nat) :=
  [(!ready s rdyArm, stNotReady), (a.any (fun a => !(a.owner = inst || (mgr && inst = 0))), stNotPermitted), (a.isNone || bad, stBadParam)]

/-- The time base is locked with its offset within TIME_BOUND (R298, R407). -/
def timeLocked (s : State) (p : Plan) : Bool :=
  (s.tb.st = .locked || s.tb.st = .grandmaster) && offsetMag s ≤ p.timeBound * 65536

/-- ARM_START (R297, R298): ARMED until T_K. -/
def cmdArmStart (d : Cmd) (inst id : Nat) (s : State) : State × Answer :=
  let n := argN d 0 1
  let k := argN d 8 8
  let a := getArm s n
  orElse s
    (armChecks s inst false a (!argsOnly d [(0, 1), (8, 8)] || a.any fun a => (k : Int) < curPeriod s a.plan + 2)
      ++ [(a.any (fun a => a.st ≠ .idle), stStateConflict), (a.any (fun a => !timeLocked s a.plan), stTimeLost)])
    fun s => (modArm s n fun a => { a with st := .armed, startK := k, startCmd := some id }, .wait n)

def execArmStart (r : CmdRing) (d : Cmd) (s : State) : Host.Outcome State Fault Refusal :=
  goOnKeep s (runCmd 0x31 false r d (cmdArmStart d) s)

/-- ARM_STOP (R297): at once when ARMED, else at T_K or the next period start; of several stops of a RUNNING armature the first to come acts
(DEDUCED; log entry 78). -/
def cmdArmStop (d : Cmd) (inst id : Nat) (s : State) : State × Answer :=
  let n := argN d 0 1
  let k := argN d 8 8
  let a := getArm s n
  orElse s
    (armChecks s inst true a (!argsOnly d [(0, 1), (8, 8)]) ++ [(a.any (fun a => a.st = .idle), stStateConflict)])
    fun s =>
      if a.any fun a => a.st = .armed then
        (finishCmd? (modArm s n fun a => { a with st := .idle, startCmd := none }) (a.bind (·.startCmd)) stFlushed [], .ok)
      else (modArm s n fun a => { a with stopAt := a.stopAt ++ [(k, some id)] }, .wait n)

def execArmStop (r : CmdRing) (d : Cmd) (s : State) : Host.Outcome State Fault Refusal :=
  goOnKeep s (runCmd 0x32 false r d (cmdArmStop d) s)

/-- ARM_DESTROY (R297). -/
def cmdArmDestroy (d : Cmd) (inst _id : Nat) (s : State) : State × Answer :=
  let n := argN d 0 1
  let a := getArm s n
  orElse s
    (armChecks s inst true a (!argsOnly d [(0, 1)]) ++ [(a.any (fun a => a.st ≠ .idle), stStateConflict)])
    fun s => (removeArm s n, .ok)

def execArmDestroy (r : CmdRing) (d : Cmd) (s : State) : Host.Outcome State Fault Refusal :=
  goOnKeep s (runCmd 0x33 false r d (cmdArmDestroy d) s)

/-- What ARM_PROMOTE and ARM_DEMOTE share: RUNNING, and the member's role in the shard. -/
def armRole (d : Cmd) (inst : Nat) (s : State) (role : Shard → Nat) (f : ShardRun → ShardRun) : State × Answer :=
  let n := argN d 0 1
  let h := argN d 2 2
  let a := getArm s n
  orElse s
    (armChecks s inst false a (!argsOnly d [(0, 1), (2, 2)]
        || a.any fun a => a.st = .running && !((findShard a.plan h).any fun x => role x = a.member))
      ++ [(a.any (fun a => a.st ≠ .running), stStateConflict)])
    fun s => (modArm s n fun a => { a with shards := tmodD a.shards h {} f }, .ok)

/-- ARM_PROMOTE (R297, R301). -/
def cmdArmPromote (d : Cmd) (inst _id : Nat) (s : State) : State × Answer :=
  armRole d inst s (·.standby) fun x => { x with pendPromote := true }

def execArmPromote (r : CmdRing) (d : Cmd) (s : State) : Host.Outcome State Fault Refusal :=
  goOnKeep s (runCmd 0x34 false r d (cmdArmPromote d) s)

/-- ARM_DEMOTE (R297). -/
def cmdArmDemote (d : Cmd) (inst _id : Nat) (s : State) : State × Answer :=
  armRole d inst s (·.primary) fun x => { x with pendDemote := true }

def execArmDemote (r : CmdRing) (d : Cmd) (s : State) : Host.Outcome State Fault Refusal :=
  goOnKeep s (runCmd 0x35 false r d (cmdArmDemote d) s)

def shardRun (a : Armature) (h : Nat) : ShardRun := tgetD a.shards h {}

/-- Does this member hold an unpromoted standby of a stream's source shard (R301)? -/
def observes (a : Armature) (t : Stream) : Bool :=
  (findShard a.plan t.src).any fun h => h.standby = a.member && !(shardRun a h.num).promoted

/-- The current period (R273): of a running armature the one it runs, else that of the present instant, which is 0 before EPOCH (log entry 114). -/
def nowPeriod (s : State) (a : Armature) : Nat := if a.st = .running then a.period else (curPeriod s a.plan).toNat

/-- ROLE of R472. -/
def shardRole (a : Armature) (h : Shard) : Nat :=
  let x := tgetD a.shards h.num {}
  if h.standby = a.member then (if x.promoted then 2 else 1) else if x.demoted then 3 else 0

/-- The record of ARM_QUERY (R472). A standby receives its shard's streams until it is promoted (R270, R283). -/
def armRecord (s : State) (n : Nat) (a : Armature) : Bytes :=
  let hs := localShards a.plan a.member
  let ts := a.plan.streams.filter fun t => sends a.plan a.member t || receives a.plan a.member t
  record 64
    [(0x00, 1, n), (0x01, 1, match a.st with | .idle => 0 | .armed => 1 | .running => 2), (0x02, 2, a.plan.armId), (0x04, 2, a.member),
     (0x06, 2, hs.length), (0x08, 4, ts.length), (0x0C, 4, a.plan.sMin), (0x10, 8, nowPeriod s a), (0x18, 8, a.startK),
     (0x20, 8, a.taintedPeriods)]
  ++ hs.flatMap (fun h => record 8 [(0, 2, h.num), (2, 1, shardRole a h), (4, 2, h.unit)])
  ++ ts.flatMap fun t => record 8 [(0, 2, t.num), (2, 1, b2n (!sends a.plan a.member t || observes a t)), (4, 4, (tgetD a.streams t.num {}).late)]

/-- ARM_QUERY (R297, R472). -/
def cmdArmQuery (d : Cmd) (inst _id : Nat) (s : State) : State × Answer :=
  let n := argN d 0 1
  match getArm s n with
  | none => orElse s (armChecks s inst true none false) fun s => (s, .ok)
  | some a => orElse s (armChecks s inst true (some a) (!argsOnly d [(0, 1)])) fun s => (s, .done stOK [] (armRecord s n a))

def execArmQuery (r : CmdRing) (d : Cmd) (s : State) : Host.Outcome State Fault Refusal :=
  goOnKeep s (runCmd 0x36 false r d (cmdArmQuery d) s)

end Sys2Proof.Machine
end

