-- ==== Sys2Proof/Machine/Line.lean ====
section
/-! DEFINITION. A port's line: raw transmit completions (R449, R450), frames that are discarded unsent, the link going down and
training again (R356, R357, R381, R546), gate list takeover (R384, R385), and the loss of a time master (R403, R405, R408). -/

namespace Sys2Proof.Machine

open Sys2Proof

-- ------------------------------------------------------------------ raw transmit completions

/-- A raw transmit completion (R449). -/
def rawRec (queue : Nat) (w : RawOut) (status : Nat) : Bytes :=
  record 64 [(0, 8, w.cookie.toNat), (8, 1, status), (9, 1, 4), (0xA, 1, w.opcode), (0xC, 4, queue), (0x10, 4, w.index.toNat),
    (0x14, 4, if status = stOK then w.bytes else 0)]

/-- Posts, in ring order, the raw descriptors at the head that have their status (R450). One behind a failed one completes with FLUSHED and not with OK,
which would say that the earlier ones did (DEDUCED; log entry 112). -/
def retireRawList (key queue : Nat) : List RawOut → State → State
  | [], s => s
  | w :: t, s =>
    match w.status with
    | none => s
    | some st0 =>
      match getRing s key with
      | none => s
      | some r =>
        let st := if r.failed && st0 = stOK then stFlushed else st0
        let s := modRing s key fun r => { r with rawOut := t, failed := r.failed || decide (st ≠ stOK) }
        retireRawList key queue t (if w.signaled || st ≠ stOK then cqPost s r.cq (rawRec queue w st) else s)

/-- A raw descriptor of an instance's queue has its status. -/
def rawFinish (s : State) (inst queue : Nat) (index : BitVec 32) (status : Nat) : State :=
  let key := rawKey rkRawTx inst queue
  let s := modRing s key fun r =>
    { r with rawOut := r.rawOut.map fun w => if w.index = index ∧ w.status = none then { w with status := some status } else w }
  match getRing s key with
  | some r => retireRawList key queue r.rawOut s
  | none => s

/-- A status the manual does not give: one of the codes of R9, a free value (log entry 2). -/
def freeStatus (s : State) : Nat × State :=
  let (v, s) := drawNat s
  (v % 15, s)

/-- A raw frame that was not sent completes; the manual gives no status for it (log entry 2). -/
def rawUnsent (s : State) (f : TxFrame) : State :=
  if f.kind = .raw then
    let (st, s) := freeStatus s
    rawFinish s f.inst f.rawQueue f.sqIndex st
  else s

-- ------------------------------------------------------------------ the link goes down (R381)

/-- The frame being received is cut off: it ends as one with a bad FCS (R365). -/
def cutFrame (s : State) (p : Nat) : State :=
  match (getPort s p).rx with
  | none => s
  | some f =>
    match f.dest with
    | some d => endFrame s p { f with fcsOk := false } d
    | none => releaseFrame (modPort s p fun q => { q with rx := none }) p f f.room

/-- A reply or RESCIND that is discarded unsent shows in no verdict word (R95, R381). -/
def glazeUnsent (s : State) (f : TxFrame) : State :=
  match f.msg, f.kind with
  | some id, .reply => modMsg s id fun m => { m with replied := false, provisional := false, reply := none }
  | some id, .rescind => modMsg s id fun m => { m with rescindLost := true }
  | _, _ => s

/-- Discards what a port has queued, counting it (R381). -/
def discardQueued (s : State) (p : Nat) : State :=
  let fs := queuedFrames (getPort s p)
  let s := modPort s p fun q => { q with ctrlQ := [], replyQ := [], txQ := [] }
  (fs.foldl rawUnsent (regAdd s (macTxDiscard p) fs.length) |> fun s => fs.foldl glazeUnsent s)

/-- Where a PTP message starts in a frame. -/
def ptpOff (f : Bytes) : Nat := if frameType f = 0x88F7 then l3Off f else (udpOff f).getD 0 + 8

/-- A PTP message that waits on a port and belongs to a delay exchange: a request or an answer (types 1-3, 9 and 10). -/
def isDelayFrame (f : RxFrame) : Bool := f.dest = some .timeBase && [1, 2, 3, 9, 10].contains (byteAt f.data (ptpOff f.data) % 16)

/-- A delay exchange that spans a retrain is discarded (R422). -/
def dropDelays (s : State) (p : Nat) : State :=
  let gone := (getPort s p).inbox.filter isDelayFrame
  gone.foldl (fun s f => freeKept s p f) (modPort s p fun q =>
    { q with inbox := q.inbox.filter fun f => !isDelayFrame f, pdelay := none, delayReq := none, delayWait := none })

/-- A port's link is down: queued frames are discarded, the frame being received is cut off, low-power idle ends and
must be negotiated again (SPLIT × LPI of 16_modes_and_limits.md), LINK_CHANGE is set. The port keeps its timestamp FIFO (R421). -/
def portDown (s : State) (p : Nat) : State :=
  if (getPort s p).linkUp then
    let s := modPort s p fun q => { q with linkUp := false, lpiTx := false, lpiRx := false, wakeAt := none, lldpNow := false }
    let s := regPut s (macLpiWake p) (regBits s (macLpiWake p) 15 0)
    regOr (dropDelays (cutFrame (discardQueued s p) p) p) (macEvent p) 1
  else s

/-- The lanes a port trains with: the widest group of its own healthy lanes, aligned to its width (R355, R357). -/
def trainLanes (s : State) (p : Nat) : Nat :=
  let w := 8 / 2 ^ s.split
  let bad := fun l => (s.retired ++ s.byHand).contains { kind := 4, num := l : Channel }
  ([8, 4, 2, 1].find? fun n => n ≤ w && (List.range (w / n)).any fun g => (List.range n).all fun i => !bad (p + g * n + i)).getD 0

-- ------------------------------------------------------------------ gate list takeover (R384)

/-- The gate states in force now (R382, R551): every gate is open while EN is clear. -/
def gateWord (s : State) (p : Nat) : Byte :=
  let pt := getPort s p
  let t := netNs s
  if pt.oper.en then
    BitVec.ofNat 8 (((List.range 8).filter fun c => gateOpen pt (stretchNs s p) c t).map (2 ^ ·)).sum
  else 0xFF#8

/-- R307, R384: with the armature windows of the port, too many entries, or a cycle that does not divide their period. -/
def gateRefused (s : State) (p : Nat) (g : GateList) : Bool :=
  let as := (tvals s.arms).filter fun a => armPortWindows a p ≠ []
  1024 < mergedEntries g (as.flatMap fun a => armPortWindows a p) || as.any fun a => periodNs a.plan % g.cycle ≠ 0

/-- The pending list of a port comes into force: its command completes. One that the windows of an armature created since no longer let in is
refused (R307). -/
def takeOver (s : State) (p : Nat) : State :=
  match (getPort s p).pendGate with
  | none => s
  | some (g, t) =>
    let cmd := s.cmds.find? fun c => c.opcode = 0x41 && c.arg = p
    let s := modPort s p fun q => { q with pendGate := none }
    if gateRefused s p g then finishCmd? s (cmd.map (·.id)) stNoResource []
    else
      let s := modPort s p fun q => { q with oper := g, goneWins := 0 }
      let s := regPut (regPut s (gateChangeTimeLo p) (t % 2 ^ 32)) (gateChangeTimeHi p) (t / 2 ^ 32 % 2 ^ 32)
      let s := regOr s (gateEvent p) 1
      let s := modPort s p fun q => { q with gates := gateWord s p }
      finishCmd? s (cmd.map (·.id)) stOK []

/-- A pending takeover is removed: its command completes FLUSHED (R383). -/
def dropTakeover (s : State) (p : Nat) : State :=
  let s := modPort s p fun q => { q with pendGate := none }
  match s.cmds.find? (fun c => c.opcode = 0x41 && c.arg = p) with
  | some c => finishCmd s c.id stFlushed []
  | none => s

-- ------------------------------------------------------------------ the time base loses its master (R403, R405, R408)

/-- ROLE of TIM_ROLE in force (R400). -/
def tbRole (s : State) : Nat := bits s.tb.role.toNat 1 0

/-- An enabled port; a port in loopback leaves the PTP instance (R547), and one that the split removed (R401). -/
def tbPort (s : State) (p : Nat) : Bool := bit s.tb.role.toNat (11 + p) && portLoop s p = 0 && portExists s p

/-- The magnitude of the last offset estimate in whole ns, as TIM_HOLD_ERR saturates it (R408). -/
def offsetNs (s : State) : Nat := min 0xFFFFFFFF (s.tb.offset.natAbs / 65536)

/-- Entry to HOLDOVER: E0 is the last offset estimate's magnitude, F the frequency uncertainty, t_h now; E is updated every µs (R408). -/
def enterHoldover (s : State) : State :=
  let s := regOr s timEvent 2
  { s with tb := { s.tb with st := .holdover, holdE0 := s.tb.offset.natAbs, holdF := s.tb.freqUnc, holdAt := s.tb.clock,
                             holdErr := offsetNs s, holdDue := s.now + usec, goodSyncs := 0 } }

/-- The interval a signed byte of TIM_INTERVALS gives, in the unit of State.now (R402). -/
def ptpInterval (s : State) (k : Nat) : Nat :=
  let l := sgn 8 (regBits s timIntervals (8 * k + 7) (8 * k))
  600000000000 * 2 ^ l.toNat / 2 ^ (-l).toNat

/-- A master is selected (R400, R405, R406): the port and identity of its Announce, which was heard now or before. -/
def selectMaster (s : State) (x : Nat × Nat × Bytes × Nat) : State :=
  let s := regOr s timEvent 8
  { s with tb := { s.tb with master := some x.1, masterId := x.2.1, masterMsg := x.2.2.1, lastAnnounce := x.2.2.2, lastSync := s.now,
                             syncWait := none, st := if s.tb.st = .free then .acquiring else s.tb.st } }

/-- The selection of the master ends (R403): the senders heard on its port are forgotten; another master, heard on an enabled port, may be
selected in the same instant, which the best master clock algorithm decides (R400; log entry 6). -/
def loseMaster (s : State) : State :=
  let heard := s.tb.foreign.filter fun x => some x.1 ≠ s.tb.master && tbPort s x.1 && s.now < x.2.2.2 + 3 * ptpInterval s 2
  let following := s.tb.st = .locked || s.tb.st = .acquiring
  let s := { s with tb := { s.tb with master := none, masterMsg := [], foreign := heard, syncWait := none, goodSyncs := 0 } }
  match heard.find? fun x => Config.bmcaSelects x.2.2.1 none with
  | some x =>
    let s := selectMaster s x
    if following then { s with tb := { s.tb with st := .acquiring } } else s
  | none => if following then enterHoldover s else s

end Sys2Proof.Machine
end

