-- ==== Sys2Proof/Machine/AdminCmds.lean ====
section
/-! DEFINITION. Commands of the administration ring for ports and time: PORT_SPLIT (R355, R356), GATE_COMMIT (R307, R383, R384),
TIME_STEP (R385, R397, R410, R411, R422), TLM_SET (R390). -/

namespace Sys2Proof.Machine

open Sys2Proof

-- ------------------------------------------------------------------ PORT_SPLIT

/-- Frames that wait on a port for their consumer are given up, with their room. -/
def dropInbox (s : State) (p : Nat) : State :=
  (getPort s p).inbox.foldl (fun s f => freeKept s p f) (modPort s p fun q => { q with inbox := [] })

/-- Is an offset one of a port's MAC_p_, GATE_p_ or class-shaper registers, TIM_REC_DROP_p apart (R356)? -/
def portOwnReg (p off : Nat) : Bool := (0x11000 ≤ off) && regPort off = some p

/-- A port leaves the adapter (R356, R401): what it holds is given up and its registers fall back to their reset values. -/
def removePort (s : State) (p : Nat) : State :=
  let s := dropInbox (dropTakeover (portDown s p) p) p
  let s := if s.tb.master = some p then loseMaster s else s
  let s := { s with tb := { s.tb with foreign := s.tb.foreign.filter fun x => x.1 ≠ p } }
  { s with ports := tdel s.ports p, regs := s.regs.filter fun r => !portOwnReg p r.1,
           filters := s.filters.filter fun f => f.1 / 256 ≠ p, filtersOld := s.filtersOld.filter fun f => f.1 / 256 ≠ p,
           filtersLapsed := s.filtersLapsed.filter fun k => k / 256 ≠ p,
           buckets := s.buckets.filter fun b => !(b.1 < 256 && b.1 / 16 = p) }

/-- The new split is taken up: every port goes down, the ports' lanes change (R356). -/
def changeSplit (s : State) (code : Nat) : State :=
  let gone := (portsOf s).filter fun p => !splitHas code p
  let s := (portsOf s).foldl portDown s
  let s := gone.foldl removePort { s with split := code }
  (portsOf s).foldl (fun s p => modPort s p fun q => { q with lanes := trainLanes s p }) s

/-- PORT_SPLIT (R355, R356): complete once every port has its configuration in force (SPLIT_CONFIG_IN_FORCE). -/
def cmdPortSplit (d : Cmd) (_inst id : Nat) (s : State) : State × Answer :=
  orElse s
    [(!argsOnly d [(0, 1)] || 3 < argN d 0 1, stBadParam),
     ((tvals s.units).any (fun u => u.st ≠ .green) || (tvals s.qps).any (fun q => q.live && q.st ≠ .reset) || s.arms ≠ [] || s.splitCmd.isSome, stStateConflict)]
    fun s => ({ changeSplit s (argN d 0 1) with splitCmd := some id }, .wait 0)

def execPortSplit (r : CmdRing) (d : Cmd) (s : State) : Host.Outcome State Fault Refusal :=
  goOn s (runCmd 0x40 true r d (cmdPortSplit d) s)

-- ------------------------------------------------------------------ GATE_COMMIT

/-- The administrative list of a port (R383, R394). -/
def adminList (s : State) (p : Nat) : GateList :=
  { en := regBit s (gateAdminCtrl p) 0, cycle := regBits s (gateAdminCycle p) 29 0,
    base := regRaw s (gateAdminBaseLo p) + regRaw s (gateAdminBaseHi p) * 2 ^ 32,
    entries := (List.range (regBits s (gateAdminCtrl p) 11 1)).map fun n =>
      (BitVec.ofNat 8 (regRaw s (gateAdmin p + 8 * n)), regBits s (gateAdmin p + 8 * n + 4) 29 0) }

/-- R382. -/
def gateListOk (g : GateList) : Bool :=
  1 ≤ g.entries.length && g.entries.length ≤ 1024 && g.entries.all (fun e => 1 ≤ e.2 && e.2 ≤ 1000000000)
  && 1000 ≤ g.cycle && g.cycle ≤ 1000000000 && gateCycle g = g.cycle

/-- Is the CANCEL bit of GATE_COMMIT's descriptor set (12_host_rings_commands.md, opcode 0x41)? -/
def gateCancel (d : Cmd) : Bool := bit (argN d 1 1) 0

/-- What both forms refuse: reserved bytes, a port that is not there. -/
def gateArgsBad (s : State) (d : Cmd) : Bool := !argsOnly d [(0, 2)] || 1 < argN d 1 1 || !portExists s (argN d 0 1)

/-- GATE_COMMIT (R383): the administrative list is copied and takes over at BASE. -/
def cmdGateCommit (d : Cmd) (_inst _id : Nat) (s : State) : State × Answer :=
  let p := argN d 0 1
  let g := adminList s p
  orElse s
    [(portExists s p && !portReady s p, stNotReady),
     (gateArgsBad s d || !gateListOk g || g.base < netNs s + 10000, stBadParam),
     ((getPort s p).pendGate.isSome, stStateConflict), (gateRefused s p g, stNoResource)]
    fun s => (modPort s p fun q => { q with pendGate := some (g, g.base) }, .wait p)

def execGateCommit (r : CmdRing) (d : Cmd) (s : State) : Host.Outcome State Fault Refusal :=
  goOnKeep s (if gateCancel d then s else runCmd 0x41 true r d (cmdGateCommit d) s)

/-- GATE_COMMIT with CANCEL (R383). -/
def cmdGateCommitCancel (d : Cmd) (_inst _id : Nat) (s : State) : State × Answer :=
  let p := argN d 0 1
  orElse s
    [(portExists s p && !portReady s p, stNotReady), (gateArgsBad s d, stBadParam),
     ((getPort s p).pendGate.isNone, stStateConflict)]
    fun s => (dropTakeover s p, .ok)

def execGateCommitCancel (r : CmdRing) (d : Cmd) (s : State) : Host.Outcome State Fault Refusal :=
  goOnKeep s (if gateCancel d then runCmd 0x41 true r d (cmdGateCommitCancel d) s else s)

-- ------------------------------------------------------------------ TIME_STEP

/-- The clock value a TIME_STEP gives, in 2^-48 ns (R396, R410). -/
def stepTarget (s : State) (d : Cmd) : Int :=
  if argN d 0 1 = 0 then (s.tb.clock : Int) + sgn 64 (argN d 8 8) * 2 ^ 32
  else (((argN d 8 6 * 1000000000 + argN d 14 4) * 65536 + argN d 18 2 : Nat) : Int) * 2 ^ 32

/-- R410, R397: fields out of range, a result below zero, at or above 2^48 seconds or past the limit of R397. -/
def stepBad (s : State) (d : Cmd) : Bool :=
  let t := stepTarget s d
  1 < argN d 0 1 || !argsOnly d (if argN d 0 1 = 0 then [(0, 1), (8, 8)] else [(0, 1), (8, 12)])
  || (argN d 0 1 = 1 && 999999999 < argN d 14 4) || t < 0 || (18446744073 : Int) * 1000000000 * 2 ^ 48 ≤ t

/-- The step reaches the gate engine of a port: a takeover that the step passes takes place, and the list in force is realigned
(R385). -/
def stepGates (s : State) (p : Nat) : State :=
  let s := match (getPort s p).pendGate with
    | some (_, t) => if t ≤ netNs s then takeOver s p else s
    | none => s
  let s := modPort s p fun q => { q with gates := gateWord s p }
  regOr s (gateEvent p) 4

/-- The effects of a step (R411, R422). -/
def stepClock (s : State) (t : Nat) : State :=
  let s := regOr { s with tb := { s.tb with clock := t, ppsSec := none } } timEvent 1
  let s := { s with peers := s.peers.map fun p => (p.1, { p.2 with owd := [], rtt := [] }) }
  let ns := tkeys (s.instances.filter fun i => i.2.st ≠ .free)
  let s := (portsOf s).foldl (fun s p =>
    stepGates (modPort s p fun q => { q with tsStepped := ns.foldl (fun t n => tset t n true) q.tsStepped }) p) s
  match s.tb.st with
  | .locked => { s with tb := { s.tb with st := .acquiring, goodSyncs := 0 } }
  | .holdover => { s with tb := { s.tb with holdE0 := s.tb.offset.natAbs, holdAt := t, holdErr := offsetNs s, holdDue := s.now + usec } }
  | _ => s

/-- TIME_STEP (R410). -/
def cmdTimeStep (d : Cmd) (_inst _id : Nat) (s : State) : State × Answer :=
  orElse s
    [(!ready s rdyTim, stNotReady), (stepBad s d, stBadParam), ((tvals s.arms).any (fun a => a.st ≠ .idle), stStateConflict)]
    fun s => (stepClock s (stepTarget s d).toNat, .ok)

def execTimeStep (r : CmdRing) (d : Cmd) (s : State) : Host.Outcome State Fault Refusal :=
  goOnKeep s (runCmd 0x42 true r d (cmdTimeStep d) s)

-- ------------------------------------------------------------------ TLM_SET

/-- TLM_SET (R390): the ports sampled, and whether telemetry is on. -/
def cmdTlmSet (d : Cmd) (_inst _id : Nat) (s : State) : State × Answer :=
  orElse s
    [(!ready s rdyShp, stNotReady),
     (!argsOnly d [(0, 3)] || 1 < argN d 2 1, stBadParam)]
    fun s => ({ s with tlmMask := argN d 0 2, tlmOn := argN d 2 1 = 1 }, .ok)

def execTlmSet (r : CmdRing) (d : Cmd) (s : State) : Host.Outcome State Fault Refusal :=
  goOnKeep s (runCmd 0x43 true r d (cmdTlmSet d) s)

end Sys2Proof.Machine
end

