-- ==== Sys2Proof/Machine/Instances.lean ====
section
/-! DEFINITION. Instances and saggars (R475-R505): creation, shares, clusters, HBM regions, reset and destruction, dirty-page logs. -/

namespace Sys2Proof.Machine

open Sys2Proof

-- ------------------------------------------------------------------ the state table (R477)

/-- The conditions an INS_ command shares, in the order of R11: READY, retirement (R19, R479, R486), a malformed command or a target
that is no instance, and the target's state. -/
def insChecks (s : State) (n : Nat) (retired bad conflict : Bool) : List (Bool × Nat) :=
  [(!ready s rdyIns, stNotReady), (retired, stRetired), (1023 < n || !instExists s n || bad, stBadParam), (conflict, stStateConflict)]

-- ------------------------------------------------------------------ shares (R480-R483)

/-- The share block at an offset of the argument block. -/
def sharesAt (d : Cmd) (o : Nat) : Shares :=
  { qps := bufN d o 4, cqs := bufN d (o + 4) 4, mrs := bufN d (o + 8) 4, units := bufN d (o + 12) 2, regions := bufN d (o + 14) 2,
    blocks := bufN d (o + 16) 2, gateShare := bufN d (o + 18) 1, txRate := bufN d (o + 0x14) 4, txBurst := bufN d (o + 0x18) 4,
    rxRate := bufN d (o + 0x1C) 4, rxBurst := bufN d (o + 0x20) 4 }

def sharesOk (d : Cmd) (o : Nat) : Bool :=
  let h := sharesAt d o
  h.qps ≤ 262144 && h.cqs ≤ 65536 && h.mrs ≤ 1048576 && h.units ≤ 1024 && h.regions ≤ 1024 && h.blocks ≤ 368 && h.gateShare ≤ 90
  && bufN d (o + 0x13) 1 ≤ 1 && rateOk h.txRate && burstOk h.txBurst && rateOk h.rxRate && h.rxBurst < 2 ^ 25
  && burstOk (h.rxBurst % 2 ^ 24) && zeroAt d.buf (o + 0x24) 28

/-- The share block in force: caps, and the instance's buckets as SHAPE would write them (R482, R483). -/
def setShares (s : State) (n : Nat) (h : Shares) (forgive : Bool) : State :=
  let s := modInst s n fun i => { i with shares := h }
  let s := setBucket s (instBucket n false) h.txRate h.txBurst false forgive
  setBucket s (instBucket n true) h.rxRate (h.rxBurst % 2 ^ 24) (bit h.rxBurst 24) forgive

/-- INS_SHARE (R482). -/
def cmdInsShare (d : Cmd) (_inst _id : Nat) (s : State) : State × Answer :=
  let n := argN d 0 2
  orElse s (insChecks s n false (!argsOnly d [(0, 2)] || d.bufLen ≠ 64 || !sharesOk d 0) (!instActive s n))
    fun s => (setShares s n (sharesAt d 0) (bit (bufN d 0x13 1) 0), .ok)

def execInsShare (r : CmdRing) (d : Cmd) (s : State) : Host.Outcome State Fault Refusal :=
  goOnKeep s (runCmd 0x63 true r d (cmdInsShare d) s)

-- ------------------------------------------------------------------ INS_CREATE (R479)

/-- The clusters of a bitmap in the layout of R462 at an offset of the argument block. -/
def bitmapAt (d : Cmd) (o : Nat) : List Nat := (List.range 1280).filter fun c => bit (byteAt d.buf (o + c / 8)) (c % 8)

/-- A PASID field: bit 31 VALID. -/
def pasidField (v : Nat) : Option Nat := if bit v 31 then some (v % 2 ^ 20) else none

/-- A cluster that INS_CREATE or INS_CLUSTERS can give: no owner, no scrub running. -/
def clusterFree (s : State) (c : Nat) : Bool := (getCluster s c).owner.isNone && !(getCluster s c).leaving && (getCluster s c).scrub.isNone

/-- Does another instance hold a PASID on a link? -/
def pasidTaken (s : State) (link : Nat) (p : Option Nat) : Bool :=
  p.isSome && s.instances.any fun i => i.2.st ≠ .free && pasidOf i.2 link = p

def giveClusters (s : State) (n : Nat) (cs : List Nat) : State :=
  cs.foldl (fun s c => modCluster s c fun k => { k with owner := some n, leaving := false }) s

/-- Malformed creation blocks. -/
def createBad (d : Cmd) : Bool :=
  let home := bufN d 0 1
  !argsOnly d [(0, 2)] || d.bufLen ≠ 272 || 1 < home || !zeroAt d.buf 1 3 || !zeroAt d.buf 0xE 2 || !zeroAt d.buf 0x1C 4
  || !zeroAt d.buf 0x2C 4 || bits (bufN d 4 4) 30 20 ≠ 0 || bits (bufN d 8 4) 30 20 ≠ 0
  || (pasidField (bufN d (if home = 0 then 4 else 8) 4)).isNone || 2047 < bufN d 0xC 2
  || !ringShapeOk (bufN d 0x18 4) (bufN d 0x10 8) || !ringShapeOk (bufN d 0x28 4) (bufN d 0x20 8) || !sharesOk d 0x30

/-- The instance, its rings at index 0, its key, which the bit generator draws (R489), and its clusters. -/
def createInst (s : State) (n : Nat) (d : Cmd) : State :=
  let i : Instance :=
    { st := .active, home := bufN d 0 1, pasid0 := pasidField (bufN d 4 4), pasid1 := pasidField (bufN d 8 4),
      key := some (Config.xtsKey s.fresh) }
  let cmd : Ring := { kind := rkCmd, owner := n, number := n, base := bufN d 0x10 8, entries := bufN d 0x18 4 }
  let cpl : Ring := { kind := rkCpl, owner := n, number := n, base := bufN d 0x20 8, entries := bufN d 0x28 4, vector := bufN d 0xC 2 }
  let s := { s with
    fresh := s.fresh + 1
    instances := tset s.instances n i
    rings := tset (tset s.rings (ringKey rkCmd n) cmd) (ringKey rkCpl n) cpl
    buckets := tdel (tdel s.buckets (instBucket n false)) (instBucket n true)
    replySeq := s.replySeq.filter fun x => x.1 / 64 ≠ n
    bindCounters := s.bindCounters.filter fun x => x.1 / 2048 ≠ n }
  giveClusters (setShares s n (sharesAt d 0x30) (bit (bufN d 0x43 1) 0)) n (bitmapAt d 0x70)

/-- INS_CREATE (R479). Keys never run out while fewer than 1 024 instances exist. -/
def cmdInsCreate (d : Cmd) (_inst _id : Nat) (s : State) : State × Answer :=
  let n := argN d 0 2
  let cs := bitmapAt d 0x70
  orElse s
    [(!ready s rdyIns, stNotReady), (cs.any (clusterRetired s), stRetired), (n = 0 || 1023 < n || createBad d, stBadParam),
     (instExists s n || cs.any (fun c => !clusterFree s c) || pasidTaken s 0 (pasidField (bufN d 4 4))
        || pasidTaken s 1 (pasidField (bufN d 8 4)), stStateConflict)]
    fun s => (createInst s n d, .ok)

def execInsCreate (r : CmdRing) (d : Cmd) (s : State) : Host.Outcome State Fault Refusal :=
  goOnKeep s (runCmd 0x60 true r d (cmdInsCreate d) s)

-- ------------------------------------------------------------------ INS_CLUSTERS (R485-R487)

/-- The two rows of INS_CLUSTERS carry the descriptors of their OP; one whose OP names no row is refused by either. -/
def clustersCmd (op : Nat) (r : CmdRing) (d : Cmd) (f : Nat → Nat → State → State × Answer) (s : State) : State :=
  if argN d 2 1 = op ∨ 1 < argN d 2 1 then runCmd 0x64 true r d f s else s

def clustersBad (d : Cmd) : Bool := !argsOnly d [(0, 3)] || 1 < argN d 2 1 || d.bufLen ≠ 160

/-- INS_CLUSTERS with OP 0 (R486). -/
def cmdInsClustersAdd (d : Cmd) (_inst _id : Nat) (s : State) : State × Answer :=
  let n := argN d 0 2
  let cs := bitmapAt d 0
  orElse s (insChecks s n (cs.any (clusterRetired s)) (clustersBad d) (!instActive s n || cs.any fun c => !clusterFree s c))
    fun s => (giveClusters s n cs, .done stOK [(0, 2, 0), (2, 2, 0)] [])

def execInsClustersAdd (r : CmdRing) (d : Cmd) (s : State) : Host.Outcome State Fault Refusal :=
  goOnKeep s (clustersCmd 0 r d (cmdInsClustersAdd d) s)

/-- Clusters leave an instance: those with no unit are scrubbed at once, the others are LEAVING (R485, R487). -/
def leaveClusters (s : State) (cs : List Nat) : State :=
  releaseLeaving (cs.foldl (fun s c => modCluster s c fun k => { k with leaving := true }) s) cs

def clusterBusy (s : State) (c : Nat) : Bool := (tvals s.units).any fun u => u.clusters.contains c

/-- INS_CLUSTERS with OP 1 (R487). -/
def cmdInsClustersRemove (d : Cmd) (_inst _id : Nat) (s : State) : State × Answer :=
  let n := argN d 0 2
  let cs := bitmapAt d 0
  orElse s (insChecks s n false (clustersBad d || cs.any fun c => (getCluster s c).owner ≠ some n) (!instActive s n))
    fun s =>
      let busy := (cs.filter (clusterBusy s)).length
      (leaveClusters s cs, .done stOK [(0, 2, cs.length - busy), (2, 2, busy)] [])

def execInsClustersRemove (r : CmdRing) (d : Cmd) (s : State) : Host.Outcome State Fault Refusal :=
  goOnKeep s (clustersCmd 1 r d (cmdInsClustersRemove d) s)

-- ------------------------------------------------------------------ HBM regions (R488-R493)

/-- The regions of an instance, counted from the completion of their HBM_REGION_CREATE on (R481). -/
def regionsOf (s : State) (n : Nat) : List Region :=
  tvals (s.regions.filter fun r => r.2.owner = n && !s.hbmJobs.any fun j => !j.freeing && j.region = r.1 && j.blocks = r.2.blocks)

/-- The home address of a byte of a region (R488, R489): its block's place in the pool. A remap leaves it as it is (R520). -/
def homeAddr (r : Region) (off : Nat) : Nat := r.blocks.getD (off / 2 ^ 28) 0 * 2 ^ 28 + off % 2 ^ 28

/-- What HBM holds of the sector at an offset of a region: State keeps the plaintext, and the sector is that under its owner's key, with its home
address as the tweak (R489). -/
def sectorStored (s : State) (g off : Nat) : Option Bytes :=
  match tget s.regions g with
  | none => none
  | some r =>
    (getInst s r.owner).key.map fun key =>
      xtsSector key (homeAddr r off) ((List.range 32).map fun i => tgetD s.hbm (g * 2 ^ 37 + off + i) 0#8)

def blocksOf (s : State) (n : Nat) : Nat := ((regionsOf s n).map (·.blocks.length)).sum

/-- HBM_REGION_CREATE (R488, R491): complete when its blocks hold zero. -/
def cmdHbmRegionCreate (d : Cmd) (_inst id : Nat) (s : State) : State × Answer :=
  let n := argN d 0 2
  let k := argN d 2 2
  let h := (getInst s n).shares
  let free := lowestFree s.regions 1024
  orElse s
    (insChecks s n false (!argsOnly d [(0, 4)] || k = 0 || 368 < k) (!instActive s n)
      ++ [(free.isNone || h.regions ≤ (regionsOf s n).length || h.blocks < blocksOf s n + k || s.freeBlocks.length < k, stNoResource)])
    fun s =>
      let g := free.getD 0
      let job : HbmJob := { blocks := s.freeBlocks.take k, freeing := false, cmd := some id, region := g }
      ({ s with regions := tset s.regions g { owner := n, blocks := job.blocks }, freeBlocks := s.freeBlocks.drop k,
                hbmJobs := s.hbmJobs ++ [job] }, .wait n)

def execHbmRegionCreate (r : CmdRing) (d : Cmd) (s : State) : Host.Outcome State Fault Refusal :=
  goOnKeep s (runCmd 0x65 true r d (cmdHbmRegionCreate d) s)

/-- A region is given up: its number is free at once, its blocks are scrubbed (R492, R493). -/
def releaseRegion (s : State) (g : Nat) (cmd destroyed : Option Nat) : State :=
  match tget s.regions g with
  | none => s
  | some r =>
    { s with regions := tdel s.regions g, hbm := s.hbm.filter fun x => x.1 / 2 ^ 37 ≠ g,
             hbmJobs := s.hbmJobs ++ [{ blocks := r.blocks, freeing := true, cmd := cmd, region := g, destroyed := destroyed }] }

/-- A unit that is not EMPTY has an extent in a region (R493). -/
def regionUsed (s : State) (g : Nat) : Bool := (tvals s.units).any fun u => u.extent.any fun e => e.1 = g

/-- HBM_REGION_RELEASE (R493). -/
def cmdHbmRegionRelease (d : Cmd) (_inst id : Nat) (s : State) : State × Answer :=
  let g := argN d 0 2
  let r := tget s.regions g
  orElse s
    [(!ready s rdyIns, stNotReady), (!argsOnly d [(0, 2)] || r.isNone, stBadParam),
     (r.any (fun r => !instActive s r.owner) || regionUsed s g, stStateConflict)]
    fun s => (releaseRegion s g (some id) none, .wait g)

def execHbmRegionRelease (r : CmdRing) (d : Cmd) (s : State) : Host.Outcome State Fault Refusal :=
  goOnKeep s (runCmd 0x66 true r d (cmdHbmRegionRelease d) s)

-- ------------------------------------------------------------------ the end of a destroy (R497)

/-- Everything a destroyed instance waits for is scrubbed: clusters held by RETIRED units do not count. -/
def destroyDone (s : State) (n : Nat) : Bool :=
  !s.hbmJobs.any (fun j => j.destroyed = some n) && s.clusters.all fun c => c.2.owner ≠ some n || c.2.scrub.isNone

/-- The instance becomes FREE when its last scrub has finished; the command completes. -/
def checkDestroy (s : State) (n : Nat) : State :=
  match (getInst s n).proc with
  | none => s
  | some p =>
    if p.released && destroyDone s n then
      let s := { s with
        instances := tdel s.instances n
        rings := tdel (tdel s.rings (ringKey rkCmd n)) (ringKey rkCpl n)
        services := s.services.filter fun v => v.1 / 16 ≠ n }
      finishCmd? s p.cmd (if p.stepFour then stSquashed else stOK) [(0, 4, p.flushed), (4, 4, p.messages), (8, 2, p.unitsSquashed)]
    else s

/-- HBM_SCRUB_DONE (R491-R493, R497): the oldest scrub or initialisation has finished. -/
def execHbmScrubDone (s : State) : Host.Outcome State Fault Refusal :=
  goOnKeep s (match s.hbmJobs with
    | [] => s
    | j :: t =>
      let s := { s with hbmJobs := t }
      if j.freeing then
        let s := finishCmd? { s with freeBlocks := s.freeBlocks ++ j.blocks } j.cmd stOK []
        match j.destroyed with | some n => checkDestroy s n | none => s
      else if ((tget s.regions j.region).map (·.blocks)) = some j.blocks then finishCmd? s j.cmd stOK [(0, 2, j.region)]
      else finishCmd? s j.cmd stFlushed [])

/-- CLUSTER_SCRUB_DONE (R485, R487): the cluster becomes free. -/
def execClusterScrubDone (cluster : Nat) (s : State) : Host.Outcome State Fault Refusal :=
  goOnKeep s (match (getCluster s cluster).scrub with
    | none => s
    | some _ =>
      let o := (getCluster s cluster).owner
      let s := modCluster s cluster fun k => { k with owner := none, leaving := false, scrub := none, pattern := .idle, switchAt := none }
      match o with | some n => checkDestroy s n | none => s)

-- ------------------------------------------------------------------ dirty-page logs (R498-R502)

def logOf (i : Instance) (link : Nat) : Option DirtyLog := if link = 0 then i.log0 else i.log1
def setLog (s : State) (n link : Nat) (g : Option DirtyLog) : State :=
  modInst s n fun i => if link = 0 then { i with log0 := g } else { i with log1 := g }

/-- The logs on a link that has gone down end, and a command that waits on one is FLUSHED (R502). -/
def endLogs (s : State) (link : Nat) : State :=
  (tkeys s.instances).foldl (fun s n =>
    match logOf (getInst s n) link with
    | some g => finishCmd? (setLog s n link none) (g.sync.map (·.1)) stFlushed []
    | none => s) s

/-- INS_LOG_START (R498). -/
def cmdInsLogStart (d : Cmd) (_inst _id : Nat) (s : State) : State × Answer :=
  let n := argN d 0 2
  let link := argN d 2 1
  let base := argN d 8 8
  let len := argN d 16 8
  let a := argN d 24 8
  let b := argN d 32 8
  let size := ceilDiv len (2 ^ 18) * 8
  orElse s
    (insChecks s n false
      (n = 0 || !argsOnly d [(0, 3), (8, 32)] || 1 < link || base % 4096 ≠ 0 || len % 4096 ≠ 0 || len < 4096 || 2 ^ 40 < len
        || a % 8 ≠ 0 || b % 8 ≠ 0 || (a < b + size && b < a + size))
      ((getInst s n).st = .destroying || (logOf (getInst s n) link).isSome))
    fun s => (setLog s n link (some { base := base, length := len, bitmapA := a, bitmapB := b }), .ok)

def execInsLogStart (r : CmdRing) (d : Cmd) (s : State) : Host.Outcome State Fault Refusal :=
  goOnKeep s (runCmd 0x67 true r d (cmdInsLogStart d) s)

/-- The other bitmap becomes active: what fell due until now belongs to the old one (R501). -/
def swapLog (g : DirtyLog) (id : Nat) (stop : Bool) : DirtyLog :=
  { g with writingB := !g.writingB, marked := [], due := [], outside := 0, sync := some (id, stop), oldMarked := g.marked,
           oldDue := g.due, oldOutside := g.outside }

/-- What INS_LOG_SYNC and INS_LOG_STOP share (R501). -/
def cmdLogSync (stop : Bool) (d : Cmd) (_inst id : Nat) (s : State) : State × Answer :=
  let n := argN d 0 2
  let link := argN d 2 1
  let g := logOf (getInst s n) link
  orElse s
    (insChecks s n false (n = 0 || !argsOnly d [(0, 3)] || 1 < link) (g.isNone || g.any fun g => g.sync.isSome))
    fun s => (setLog s n link (g.map fun g => swapLog g id stop), .wait n)

/-- INS_LOG_SYNC (R501). -/
def execInsLogSync (r : CmdRing) (d : Cmd) (s : State) : Host.Outcome State Fault Refusal :=
  goOnKeep s (runCmd 0x68 true r d (cmdLogSync false d) s)

/-- INS_LOG_STOP (R501). -/
def execInsLogStop (r : CmdRing) (d : Cmd) (s : State) : Host.Outcome State Fault Refusal :=
  goOnKeep s (runCmd 0x69 true r d (cmdLogSync true d) s)

/-- The word of a bitmap with its marks (R499). -/
def bitmapWord (marked : List Nat) (w : Nat) : Nat := ((marked.filter fun n => n / 64 = w).map fun n => 2 ^ (n % 64)).sum

/-- One read-modify-write of a bitmap word: the marks that are due for the word of the oldest due page are merged in (R500). The answer
is the new marks and what stays due. -/
def markWord (s : State) (bitmap : Nat) (marked due : List Nat) : State × List Nat × List Nat :=
  match due with
  | [] => (s, marked, due)
  | p :: _ =>
    let w := p / 64
    let m := (marked ++ due.filter fun n => n / 64 = w).dedup
    (hostWrite s 0 (getInst s 0).home (bitmap + 8 * w) (toLe 8 (bitmapWord m w)), m, due.filter fun n => n / 64 ≠ w)

/-- One word of a log's marks becomes visible: the old bitmap's first. -/
def markLog (s : State) (n link : Nat) (g : DirtyLog) : State :=
  if g.oldDue ≠ [] then
    let r := markWord s (if g.writingB then g.bitmapA else g.bitmapB) g.oldMarked g.oldDue
    setLog r.1 n link (some { g with oldMarked := r.2.1, oldDue := r.2.2 })
  else
    let r := markWord s (if g.writingB then g.bitmapB else g.bitmapA) g.marked g.due
    setLog r.1 n link (some { g with marked := r.2.1, due := r.2.2 })

/-- DIRTY_PAGE_MARK (R499, R500). -/
def execDirtyPageMark (inst link : Nat) (s : State) : Host.Outcome State Fault Refusal :=
  goOnKeep s (match logOf (getInst s inst) link with
    | some g => if g.oldDue = [] ∧ g.due = [] then s else markLog s inst link g
    | none => s)

/-- A sync or stop completes: every mark of the old bitmap is visible (R501). -/
def finishSync (s : State) (n link : Nat) (g : DirtyLog) (id : Nat) (stop : Bool) : State :=
  let s := setLog s n link (if stop then none else some { g with sync := none, oldMarked := [], oldOutside := 0 })
  finishCmd s id stOK [(0, 1, b2n (!g.writingB)), (8, 8, g.oldMarked.length), (16, 8, g.oldOutside)]

/-- LOG_SYNC_DONE (R501). -/
def execLogSyncDone (inst link : Nat) (s : State) : Host.Outcome State Fault Refusal :=
  goOnKeep s (match logOf (getInst s inst) link with
    | some g =>
      match g.sync with
      | some (id, stop) => if g.oldDue = [] then finishSync s inst link g id stop else s
      | none => s
    | none => s)

/-- All of a log's marks become visible, at most k words. -/
def markAll : Nat → State → Nat → Nat → State
  | 0, s, _, _ => s
  | k + 1, s, n, link =>
    match logOf (getInst s n) link with
    | some g => if g.oldDue = [] ∧ g.due = [] then s else markAll k (markLog s n link g) n link
    | none => s

/-- A destroy stops a log as INS_LOG_STOP would (R497). -/
def endLog (s : State) (n link : Nat) : State :=
  match logOf (getInst s n) link with
  | none => s
  | some g =>
    let s := markAll (g.due.length + g.oldDue.length) s n link
    match logOf (getInst s n) link, g.sync with
    | some g, some (id, _) => setLog (finishSync s n link g id true) n link none
    | _, _ => setLog s n link none

-- ------------------------------------------------------------------ instance reset (R494-R497)

/-- Work requests of an instance's queue pairs that have no completion yet. -/
def openWork (s : State) (n : Nat) : Nat :=
  ((s.qps.filter fun q => q.2.live && q.2.owner = n).map fun q =>
    q.2.sends.countP (·.done.isNone) + ((getRing s (ringKey rkSq q.1)).map (·.posted.length)).getD 0 + q.2.recvs.length
      + (tvals q.2.rxMsgs).countP (·.wr.isSome)).sum

/-- Keys of the units an instance owns. -/
def unitsOf (s : State) (n : Nat) : List Nat := tkeys (s.units.filter fun u => u.2.owner = n)

/-- Step 2 of R495 for one unit: its generation slots close without a RESULT; FIRED drains, BISQUE and GREEN go to EMPTY. A unit that
belongs to an armature that still runs waits for its stop (R308). -/
def resetUnit (s : State) (bound ui : Nat) : State :=
  match getUnit s ui with
  | none => s
  | some u =>
    if u.retired || u.scrub.isSome then s
    else
      let s := if u.kind = 1 then (openSlots u).foldl (fun s l => closeSlot s ui l.1) s else s
      let s := modUnit s ui fun u => { u with swap := u.swap.filter fun w => !w.atRound }
      match u.st with
      | .fired => if u.arm.isSome then s else startDrain s ui bound false none false
      | .cooling => modUnit s ui fun u => { u with drain := u.drain.map fun d => { d with toBisque := false, deadline := min d.deadline (s.now + bound) } }
      | _ => startScrub s ui none stOK

/-- An armature of the instance is removed at once, or stops at its next period start and is then removed (R308). -/
def resetArm (s : State) (a : Nat) : State :=
  match getArm s a with
  | none => s
  | some k =>
    if k.st = .running ∨ k.stopping.isSome then
      modArm s a fun k => { k with removing := true, st := if k.st = .running then .running else .idle, stopAt := (0, none) :: k.stopAt }
    else removeArm s a

/-- Is a frame on its way to an instance? -/
def frameFor (n : Nat) (f : RxFrame) : Bool :=
  match f.dest with | some (.transport k) => k = n | some (.raw k _) => k = n | _ => false

/-- The frame that a port receives for an instance is given up: it goes on as one that is discarded. -/
def dropRx (s : State) (p : Nat) (f : RxFrame) : State :=
  let s := match f.msg with | some id => discardMsg s id | none => s
  modPort (shrinkFrame s p f 0 0) p fun q => { q with rx := some { f with dest := some .dropped, room := 0, occ := 0, msg := none } }

/-- A frame whose classification point came in this FAB cycle meets the instance as it is at the cycle's end (R503). -/
def dropClassified (s : State) (n p : Nat) : State :=
  match (getPort s p).rx with
  | some f =>
    if frameFor n f && (f.t0 + min 128 (rxLen f) * f.perByte) / fabCycle = fabOf s then regAdd (dropRx s p f) (macRxFilterMiss p) 1 else s
  | none => s

/-- Steps 1 and 2 of R495. -/
def beginReset (s : State) (n bound : Nat) (destroy byLink : Bool) (cmd : Option Nat) : State :=
  let work := openWork s n
  let s := modInst s n fun i =>
    { i with st := if destroy then .destroying else .resetting,
             proc := some { deadline := s.now + bound, cmd := cmd, destroy := destroy, byLink := byLink, flushed := work } }
  let s := (portsOf s).foldl (fun s p => dropClassified s n p) s
  let s := ((s.cmds.filter fun c => c.ring = .inst n).map (·.id)).foldl (fun s id => finishCmd s id stFlushed []) s
  let s := (tkeys (s.qps.filter fun q => q.2.live && q.2.owner = n)).foldl flushLive s
  let s := (tkeys (s.arms.filter fun a => a.2.owner = n)).foldl resetArm s
  (unitsOf s n).foldl (fun s ui => resetUnit s bound ui) s

/-- The bound of a reset (R494). -/
def resetBound (s : State) (us : Nat) : Nat := (if us = 0 then regBits s insDrainBound 19 0 else us) * usec

def cmdReset (destroy : Bool) (d : Cmd) (_inst id : Nat) (s : State) : State × Answer :=
  let n := argN d 0 2
  let us := argN d 4 4
  orElse s (insChecks s n false (n = 0 || !argsOnly d [(0, 2), (4, 4)] || 1000000 < us) (!instActive s n))
    fun s => (beginReset s n (resetBound s us) destroy false (some id), .wait n)

/-- INS_DESTROY (R497). -/
def execInsDestroy (r : CmdRing) (d : Cmd) (s : State) : Host.Outcome State Fault Refusal :=
  goOnKeep s (runCmd 0x61 true r d (cmdReset true d) s)

/-- INS_RESET (R495). -/
def execInsReset (r : CmdRing) (d : Cmd) (s : State) : Host.Outcome State Fault Refusal :=
  goOnKeep s (runCmd 0x62 true r d (cmdReset false d) s)

/-- Step 3 of R495: no byte of the instance in the adapter's buffers, its units EMPTY or RETIRED, its armatures gone. -/
def resetDrained (s : State) (n : Nat) : Bool :=
  !(tvals s.msgs).any (fun m => m.inst = n && !m.finished)
  && !(tvals s.ports).any (fun p => p.rx.any (frameFor n) || p.inbox.any (frameFor n))
  && (unitsOf s n).all (fun ui => (getUnit s ui).any (·.retired))
  && !(tvals s.arms).any (fun a => a.owner = n)

/-- A port gives up the frames it holds for an instance, received, being received and queued; a raw descriptor whose frame was queued completes with
FLUSHED (R495 step 4). -/
def purgePort (s : State) (n p : Nat) : State :=
  let s := ((getPort s p).inbox.filter (frameFor n)).foldl (fun s f => freeKept s p f) s
  let s := match (getPort s p).rx with | some f => if frameFor n f then dropRx s p f else s | none => s
  let mine := fun f : TxFrame => f.inst = n && (f.kind = .raw || f.kind = .wgt || f.kind = .mirror)
  let gone := ((getPort s p).txQ.flatMap (·.2)).filter mine
  let s := unqueue s p fun q =>
    { q with inbox := q.inbox.filter fun f => !frameFor n f, txQ := q.txQ.map fun t => (t.1, t.2.filter fun f => !mine f) }
  gone.foldl (fun s f => if f.kind = .raw then rawFinish s n f.rawQueue f.sqIndex stFlushed else s) s

/-- Step 4 of R495: the rest is squashed. -/
def squashInst (s : State) (n : Nat) : State :=
  let s := (unitsOf s n).foldl (fun s ui => if (getUnit s ui).any fun u => u.retired || (u.arm.isSome && u.st ≠ .cooling) then s else squashUnit s ui) s
  let s := (tkeys (s.msgs.filter fun m => m.2.inst = n)).foldl discardMsg s
  let s := (portsOf s).foldl (fun s p => purgePort s n p) s
  regOr (modInst s n fun i => { i with proc := i.proc.map fun p => { p with stepFour := true } }) insEvent 1

/-- INS_DRAIN_BOUND_EXPIRE (R495 step 4). -/
def execInsDrainBoundExpire (inst : Nat) (s : State) : Host.Outcome State Fault Refusal :=
  goOnKeep s (match (getInst s inst).proc with
    | some p =>
      if p.deadline ≤ s.now && !p.released && !p.stepFour && !resetDrained s inst then squashInst s inst else s
    | none => s)

/-- A ring starts again at index 0 (R495 step 6). -/
def restartRing (r : Ring) : Ring :=
  { r with prod := 0, cons := 0, posted := [], reserved := 0, armed := false, armIndex := 0, times := [], firstAt := none }

/-- Step 5 of R495: what the instance built is freed. -/
def freeBuilt (s : State) (n : Nat) : State :=
  let s := (tkeys (s.qps.filter fun q => q.2.live && q.2.owner = n)).foldl freeQp s
  let s := (List.range 16).foldl (fun s p =>
    if tget s.ports p = none then s
    else modPort s p fun q => { q with fifo := q.fifo.filter (·.inst ≠ n), tsGap := tdel q.tsGap n, tsStepped := tdel q.tsStepped n }) s
  let s := modInst s n fun i => { i with eventGap := 0 }
  { s with
    mrs := s.mrs.map fun m => if m.2.owner = n then (m.1, { m.2 with live := false }) else m
    rings := s.rings.filter fun r => r.2.owner ≠ n || r.2.kind = rkCmd || r.2.kind = rkCpl
    tables := s.tables.filter fun t => t.1 / 32768 ≠ n
    tablesOld := s.tablesOld.filter fun t => t.1 / 32768 ≠ n
    services := s.services.map fun v => if v.1 / 16 = n then (v.1, { v.2 with attached := [] }) else v }

/-- The filter entries that name an instance lapse (R497). -/
def lapseFilters (s : State) (n : Nat) : State :=
  { s with filtersLapsed := (s.filtersLapsed ++ tkeys (s.filters.filter fun f => bits (f.2.toNat / 2 ^ 32) 25 16 = n)).dedup }

/-- R497: the saggar goes back: clusters, then regions, then key, PASIDs and filter references. -/
def releaseSaggar (s : State) (n : Nat) : State :=
  let s := endLog (endLog s n 0) n 1
  let s := leaveClusters s (tkeys (s.clusters.filter fun c => c.2.owner = some n && c.2.scrub.isNone))
  let s := (tkeys (s.regions.filter fun r => r.2.owner = n)).foldl (fun s g => releaseRegion s g none (some n)) s
  let s := modInst (lapseFilters s n) n fun i =>
    { i with key := none, pasid0 := none, pasid1 := none, proc := i.proc.map fun p => { p with released := true } }
  checkDestroy s n

/-- Steps 5 and 6 of R495, or the release of R497. -/
def endReset (s : State) (n : Nat) (p : ResetProc) : State :=
  let s := freeBuilt s n
  if p.destroy then releaseSaggar s n
  else
    let s := modRing (modRing s (ringKey rkCmd n) restartRing) (ringKey rkCpl n) restartRing
    let s := modInst s n fun i => { i with st := .active, proc := none }
    finishCmd? s p.cmd (if p.stepFour then stSquashed else stOK) [(0, 4, p.flushed), (4, 4, p.messages), (8, 2, p.unitsSquashed)]

/-- INS_RESET_COMPLETE (R495 steps 3, 5 and 6; R497). -/
def execInsResetComplete (inst : Nat) (s : State) : Host.Outcome State Fault Refusal :=
  goOnKeep s (match (getInst s inst).proc with
    | some p => if !p.released && resetDrained s inst then endReset s inst p else s
    | none => s)

-- ------------------------------------------------------------------ INS_QUERY (R505)

def insCode : InsState → Nat
  | .free => 0
  | .active => 1
  | .resetting => 2
  | .destroying => 3

def pasidWord (p : Option Nat) : Nat := match p with | some v => v + 2 ^ 31 | none => 0

/-- The greatest percentage of a period that an instance's armatures reserve on a port. -/
def busiestShare (s : State) (n : Nat) : Nat :=
  ((List.range 16).map fun p =>
    ((tvals s.arms).filter (·.owner = n)).foldl (fun t a => t + reservedNs a p * 100 / max 1 (periodNs a.plan)) 0).foldl max 0

def insRecord (s : State) (n : Nat) : Bytes :=
  let i := getInst s n
  let h := i.shares
  record 128
    [(0x00, 2, n), (0x02, 1, insCode i.st), (0x03, 1, i.home), (0x04, 4, pasidWord i.pasid0), (0x08, 4, pasidWord i.pasid1),
     (0x10, 4, h.qps), (0x14, 4, h.cqs), (0x18, 4, h.mrs), (0x1C, 2, h.units), (0x1E, 2, h.regions), (0x20, 2, h.blocks),
     (0x22, 1, h.gateShare), (0x24, 4, h.txRate), (0x28, 4, h.txBurst), (0x2C, 4, h.rxRate), (0x30, 4, h.rxBurst),
     (0x50, 4, qpsOf s n), (0x54, 4, ringsOf s rkCq n), (0x58, 4, mrsOf s n), (0x5C, 2, (unitsOf s n).length),
     (0x5E, 2, (regionsOf s n).length), (0x60, 2, blocksOf s n), (0x62, 2, s.clusters.countP fun c => c.2.owner = some n),
     (0x64, 2, s.clusters.countP fun c => c.2.owner = some n && c.2.leaving), (0x66, 2, busiestShare s n),
     (0x68, 4, (i.log0.map (·.marked.length)).getD 0), (0x6C, 4, (i.log1.map (·.marked.length)).getD 0)]

/-- INS_QUERY (R477, R505). -/
def cmdInsQuery (d : Cmd) (_inst _id : Nat) (s : State) : State × Answer :=
  orElse s [(!ready s rdyIns, stNotReady), (!argsOnly d [(0, 2)] || 1023 < argN d 0 2, stBadParam)]
    fun s => (s, .done stOK [] (insRecord s (argN d 0 2)))

def execInsQuery (r : CmdRing) (d : Cmd) (s : State) : Host.Outcome State Fault Refusal :=
  goOnKeep s (runCmd 0x6A true r d (cmdInsQuery d) s)

end Sys2Proof.Machine
end

