-- ==== Sys2Proof/Machine/Faults.lean ====
section
/-! DEFINITION. The fault manager's shared operations (R28, R507-R524, R526, R527, R537, R598): error events and retry budgets, located
faults and their reports, retirement of channels, the repair log, spare shifts, the loss of a die and of the IOD. -/

namespace Sys2Proof.Machine

open Sys2Proof

-- ------------------------------------------------------------------ channels and budgets (R517)

def errKey (c : Channel) : Nat := c.kind * 2 ^ 32 + c.num

def clusterChan (c : Nat) : Channel := { kind := 1, num := c }
def coreChan (core : Nat) : Channel := { kind := 2, num := core }
def laneChan (link m lane : Nat) : Channel := { kind := 3, num := link + 256 * m + 65536 * lane }
def pcChan (stack pc : Nat) : Channel := { kind := 5, num := stack + 256 * pc }

def faultWindow (s : State) : Nat := regBits s fltBudget 15 0 * msec
def faultCount (s : State) : Nat := regBits s fltBudget 23 16

/-- Decisions wait while the management processor restarts, and under the recovery loader (R529, R531). -/
def decisionsWait (s : State) : Bool := s.mgmt.restarting || s.mgmt.recovery

/-- Records an error event of a channel; the answer is the number of its events in the present window. Events older than the window are
dropped, but not while decisions wait, so that they can be made afterwards. -/
def countError (s : State) (c : Channel) : State × Nat :=
  let l := tgetD s.errors (errKey c) [] ++ [s.now]
  let recent := l.filter fun t => s.now < t + faultWindow s
  ({ s with errors := tset s.errors (errKey c) (if decisionsWait s then l else recent) }, recent.length)

/-- Did some event of a list bring the count within the window before it above the budget? -/
def overBudget (s : State) (l : List Nat) : Bool :=
  l.any fun t => faultCount s < l.countP fun x => x ≤ t && t < x + faultWindow s

def isRetired (s : State) (c : Channel) : Bool := (s.retired ++ s.byHand).contains c

/-- The history of the repair log (R537): at most 1 024 entries; further ones are counted. -/
def logHistory (s : State) (c : Channel) (source : Nat) : State :=
  if s.history.length < 1024 then
    { s with history := s.history ++ [{ time := reportNs s, kind := c.kind, source := source, chan := c.num }] }
  else { s with histLost := min 65535 (s.histLost + 1) }

-- ------------------------------------------------------------------ spare shifts (R17, R19, R527)

def columnOf (c : Nat) : Nat := dieOfCluster c * 16 + c % 16

/-- Is the column of a cluster shifted, at manufacture or in service? -/
def columnShifted (s : State) (c : Nat) : Bool :=
  (Config.factoryShift (dieOfCluster c) (c % 16)).isSome || (tget s.shifts (columnOf c)).isSome

def columnPending (s : State) (c : Nat) : Bool := s.shiftPend.any fun x => x.die = dieOfCluster c && x.column = c % 16

/-- Units that must move for a shift from a cluster's row. -/
def unitsToMove (s : State) (x : Shift) : List (Nat × List (Nat × Nat)) :=
  (s.units.filter fun u => usesUnshifted u.2 x).map fun u => (u.1, [])

/-- The column of a cluster becomes shift-pending, and the owner of each unit that must move is told (R527 steps 1 and 2). -/
def startShift (s : State) (c : Nat) (cmd : Option Nat) (deadline : Option Nat) : State :=
  let x : Shift := { die := dieOfCluster c, column := c % 16, row := c % 320 / 16, cmd := cmd, deadline := deadline }
  let us := unitsToMove s x
  let s := { s with shiftPend := s.shiftPend ++ [x] }
  if us = [] then s
  else report s (faultReport 10 0 1 0xFF c ((us.head?.map (·.1)).getD 0xFFFF) 0xFF 0 0 (ownersOf s us))

/-- A cluster is retired: a spare shift, or RETIRED if its column is already shifted or shift-pending (R17, R19, R538). -/
def retireCluster (s : State) (c : Nat) : State :=
  if columnShifted s c || columnPending s c then modCluster s c fun k => { k with retired := true } else startShift s c none none

-- ------------------------------------------------------------------ lanes and modules (R13, R357, R519)

def unitLinks (u : MUnit) : List (Nat × Nat × Nat × Nat) :=
  (u.copies.flatMap fun c => c.links.map fun l => (c.lane, c.copy, l.1, l.2)) ++ u.io.map fun e => (e.lane, e.copy, e.core, e.side)

/-- Units that use a crossing or I/O link that a module carries, with their copies. -/
def unitsOnModule (s : State) (link m : Nat) : List (Nat × List (Nat × Nat)) :=
  s.units.filterMap fun u =>
    let named := ((unitLinks u.2).filter fun x => moduleOf x.2.2.1 x.2.2.2 = some (link, m)).map fun x => (x.1, x.2.1)
    if faultable u.2 && named ≠ [] then some (u.1, named.dedup) else none

/-- The port whose lanes hold a SerDes lane. -/
def portOfLane (s : State) (lane : Nat) : Nat := lane / (8 / 2 ^ s.split) * (8 / 2 ^ s.split)

/-- A port trains again with the lanes it has (R357). -/
def retrainPort (s : State) (p : Nat) : State :=
  let s := portDown s p
  regOr (modPort s p fun q => { q with lanes := trainLanes s p }) (macEvent p) 1

-- ------------------------------------------------------------------ retirement (R517)

/-- The effect of a channel's retirement; PC_REMAP carries out a pseudo-channel's. -/
def retireEffect (s : State) (c : Channel) : State :=
  match c.kind with
  | 1 => retireCluster s c.num
  | 2 => retireCluster s (clusterOf c.num)
  | 3 => (holdFaults s (unitsOnModule s (c.num % 256) (c.num / 256 % 256))).1
  | 4 => retrainPort s (portOfLane s c.num)
  | _ => s

/-- A channel is retired by the adapter (source 1) or by FLT_RETIRE (source 2): map and history are written first (R537). -/
def retireChannel (s : State) (c : Channel) (source : Nat) : State :=
  let s := logHistory s c source
  let s := if source = 2 then { s with byHand := s.byHand ++ [c] } else { s with retired := s.retired ++ [c] }
  regOr (retireEffect s c) fltEvent 8

/-- Channels of kinds 1, 2, 4 and 5 that a permanent fault retires; kind 3 lanes are repaired at once, the others have no retirement. -/
def retirable (c : Channel) : Bool := c.kind = 1 || c.kind = 2 || c.kind = 4 || c.kind = 5

/-- Is a channel retired already? A cluster is, with its cores, while it is marked RETIRED or its own spare shift is pending; once shifted it
stands on another physical cluster. -/
def goneAlready (s : State) (c : Channel) : Bool :=
  let cl := if c.kind = 2 then clusterOf c.num else c.num
  if c.kind = 1 || c.kind = 2 then
    (getCluster s cl).retired || s.shiftPend.any fun x => x.die * 320 + x.row * 16 + x.column = cl
  else isRetired s c

/-- A permanent fault of a channel: retired unless it is already, or decisions wait. The answer says whether it was retired now. -/
def permanentFault (s : State) (c : Channel) : State × Bool :=
  if retirable c && !goneAlready s c && !decisionsWait s then (retireChannel s c 1, true) else (s, false)

/-- Counts an error event and judges it against the budget. -/
def judgeError (s : State) (c : Channel) : State × Nat × Bool :=
  let (s, n) := countError s c
  if faultCount s < n then
    let r := permanentFault s c
    (r.1, n, r.2)
  else (s, n, false)

-- ------------------------------------------------------------------ faults in the array (R509, R511, R524, R598)

/-- A fault located in the array: every unit concerned holds it, it is counted against its channels, and it is reported once. chans are
the channels it counts against, the first being the one the report names. -/
def arrayFault (s : State) (cls : Nat) (chans : List Channel) (us : List (Nat × List (Nat × Nat))) (shelf addr : Nat) : State :=
  let owners := ownersOf s us
  let (s, action) := holdFaults s us
  let r := chans.foldl (fun (a : State × List Nat × Bool) c =>
    let j := judgeError a.1 c
    (j.1, a.2.1 ++ [j.2.1], a.2.2 || j.2.2)) (s, [], false)
  let c := chans.headD { kind := 0, num := 0 }
  let copy := ((us.head?.map fun u => u.2.head?.map (·.2)).join).getD 0xFF
  let unit := (us.head?.map (·.1)).getD 0xFFFF
  report r.1 (faultReport cls (if r.2.2 then 3 else action) c.kind copy c.num unit (if us = [] then 0xFF else shelf) (r.2.1.headD 0)
    addr owners)

/-- A fault outside the units: counted against its channel, judged, and reported to the manager. -/
def plainFault (s : State) (cls action : Nat) (c : Channel) : State :=
  let (s, n, gone) := judgeError s c
  report s (faultReport cls (if gone then 3 else action) c.kind 0xFF c.num 0xFFFF 0xFF n 0 [])

-- ------------------------------------------------------------------ ALERT# (R583)

/-- ALERT# is low while a WARN or SHUTDOWN bit reads 1 or a domain's latest sample has a sensor at 100 degrees or more. -/
def refreshAlert (s : State) : State :=
  let high := regBits s pwrTherm 4 0 = 0 && regBits s pwrTherm 11 8 = 0 && s.hotNow = 0
  if s.alert = high then s else emit { s with alert := high } (.pin "ALERT#" high)

/-- PWREN_CDn takes a level (R582). -/
def setPwren (s : State) (d : Nat) (on : Bool) : State :=
  if s.pwren.getLsbD d = on then s
  else emit { s with pwren := if on then s.pwren ||| (1#4 <<< d) else s.pwren &&& ~~~(1#4 <<< d) } (.pin ("PWREN_CD" ++ toString d) on)

-- ------------------------------------------------------------------ loss of a die (R28-R30, R214, R265)

/-- Does a unit have any placement on a die? -/
def unitOnDie (u : MUnit) (d : Nat) : Bool := u.clusters.any fun c => dieOfCluster c = d

/-- The messages of a unit on the lost die: UNJUDGED with cause DOMAIN_LOSS, or a full result that is taken as CONFIRM (R28, R89). -/
def lostMsgs (s : State) (ui : Nat) : State :=
  (unitMsgs s ui).foldl (fun s m =>
    if hasFinal m.2 then s else if m.2.acted then confirmFull s m.1 else unjudge s m.1 6) s

/-- The new unit of a SWAP is lost: the SWAP completes with RETIRED (R214); its old unit goes on with its drain, or, if the swap still
waits for its round, stays FIRED. -/
def loseNewUnit (s : State) (ni : Nat) : State :=
  (s.units.filter fun u => (u.2.swap.map (·.newUnit)) = some ni).foldl (fun s x =>
    let s := finishCmd? s (x.2.drain.bind (·.cmd)) stRetired []
    let s := finishCmd? s (x.2.scrub.bind (·.2.1)) stRetired []
    let s := finishCmd? s (x.2.swap.bind (·.cmd)) stRetired []
    modUnit s x.1 fun u => { u with drain := u.drain.map fun d => { d with cmd := none }, scrub := u.scrub.map fun z => (z.1, none, z.2.2),
                                    swap := (u.swap.filter fun w => !w.atRound).map fun w => { w with cmd := none } }) s

/-- What the mark RETIRED brings a unit on the lost die: its commands complete with RETIRED, its slots close; the new unit of its SWAP goes on, and a
SWAP to it is over (R28, R214, R265). Its tokens are discarded, and its clusters that survive take up their next pattern or IDLE, at the loss (DESIGN
CHOICE: R199 names no change of pattern there; log entry 111). -/
def retireUnit (s : State) (ui : Nat) : State :=
  match getUnit s ui with
  | none => s
  | some u =>
    let s := loseNewUnit s ui
    let s := if u.kind = 1 then closeAllSlots s ui stRetired else s
    let s := swapEntry s ui
    let s := discardTokens s ui u
    let s := finishCmd? s u.loadCmd stRetired []
    let s := finishCmd? s (u.drain.bind (·.cmd)) stRetired []
    let s := finishCmd? s (u.scrub.bind (·.2.1)) stRetired []
    let s := finishCmd? s (u.swap.bind (·.cmd)) stRetired []
    let s := modUnit s ui fun u => { u with drain := none, scrub := none, swap := none, loadCmd := none }
    stopsOver (leavePatterns s ui u) u

/-- A compute die is lost (R28): the messages of all its units, then the marks with what they bring, then the power, then one event. -/
def loseDie (s : State) (d : Nat) : State :=
  let us := tkeys (s.units.filter fun u => unitOnDie u.2 d && (!u.2.retired || u.2.scrub.isSome))
  let s := { s with dieUp := s.dieUp &&& ~~~(1#4 <<< d), dieLost := s.dieLost ||| (1#4 <<< d) }
  let s := us.foldl lostMsgs s
  let s := us.foldl (fun s i => modUnit s i fun u => { u with retired := true }) s
  let s := us.foldl retireUnit s
  let s := us.foldl (fun s i => modUnit s i fun u => { u with powerHeld := false }) s
  let s := (countError s { kind := 9, num := d }).1
  report s { code := evDomainLoss, origin := [d], status := stRetired, detail := [(0, 1, d)] }

/-- A firmware write cut short leaves no image (R530, R592). -/
def cutWrite (m : Mgmt) : Mgmt := if m.writing.isSome then { m with writing := none, flash := none } else m

/-- The IOD is lost (R31): all service stops, both PCIe links go down, PKG_SHDN# is asserted. -/
def loseIod (s : State) : State :=
  let s := (List.range 16).foldl portDown s
  let s := emit s (.pin "PKG_SHDN#" false)
  let s := { s with links := s.links.map fun l => (l.1, { l.2 with up := false }) }
  { endLogs (endLogs s 0) 1 with
    iodLost := true, pkgShdn := false, mgmt := cutWrite s.mgmt, regs := ((List.range 16).map macStatus).foldl tdel (tdel s.regs glbReady), cmds := [], msgs := [] }

end Sys2Proof.Machine
end

