-- ==== Sys2Proof/Machine/FaultCmds.lean ====
section
/-! DEFINITION. Fault management, live service and firmware commands and the steps they lead to (R517, R518, R520, R521, R525-R531, R537,
R538). -/

namespace Sys2Proof.Machine

open Sys2Proof

-- ------------------------------------------------------------------ FLT_LOG

/-- The history, oldest first (R537). -/
def historyBytes (s : State) : Bytes :=
  s.history.flatMap fun h => record 16 [(0, 8, h.time), (8, 1, h.kind), (9, 1, h.source), (12, 4, h.chan)]

/-- FLT_LOG (R525, R537). -/
def cmdFltLog (d : Cmd) (_inst _id : Nat) (s : State) : State × Answer :=
  orElse s [(!ready s rdyFlt, stNotReady), (!argsOnly d [] || d.bufLen < 16 * s.history.length, stBadParam)]
    fun s => (s, .done stOK [(0, 2, s.history.length), (2, 2, s.histLost)] (historyBytes s))

def execFltLog (r : CmdRing) (d : Cmd) (s : State) : Host.Outcome State Fault Refusal := goOnKeep s (runCmd 0x70 true r d (cmdFltLog d) s)

-- ------------------------------------------------------------------ FLT_RETIRE, FLT_RETURN

/-- Is a channel number of a kind that FLT_RETIRE takes well formed (R518, R524)? -/
def chanOk (c : Channel) : Bool :=
  let link := c.num % 256
  let m := c.num / 256 % 256
  let lane := c.num / 65536
  match c.kind with
  | 1 => c.num < 1280
  | 3 => link < 8 && m < (if link < 4 then 10 else 8) && (lane < 64 || lane = 0xFF)
  | 4 => c.num < 16
  | 5 => link < 2 && c.num / 256 < 64
  | _ => false

def argChan (d : Cmd) : Channel := { kind := argN d 0 1, num := argN d 4 4 }

/-- The redundant lanes a module still has (R12: four per module), and the use of one for a failed lane (R13); with none left the module
is retired (R517, R519). The answer is ACTION of R524. -/
def repairLane (s : State) (link m source : Nat) : State × Nat :=
  let k := link * 16 + m
  let used := tgetD s.lanesUsed k 0
  if used < 4 then ({ s with lanesUsed := tset s.lanesUsed k (used + 1) }, 4)
  else if isRetired s (moduleChan link m) then (s, 0)
  else (retireChannel s (moduleChan link m) source, 3)

/-- Units that a retired cluster leaves holding a located fault (R538). -/
def unitsInCluster (s : State) (c : Nat) : List (Nat × List (Nat × Nat)) :=
  s.units.filterMap fun u =>
    if faultable u.2 && u.2.clusters.contains c then
      some (u.1, (u.2.copies.filter fun k => k.cores.any fun x => clusterOf x = c).map fun k => (k.lane, k.copy))
    else none

/-- FLT_RETIRE's effect: as a permanent fault of the channel (R538). -/
def retireByHand (s : State) (c : Channel) : State :=
  match c.kind with
  | 1 => retireChannel (holdFaults s (unitsInCluster s c.num)).1 c 2
  | 3 =>
    if c.num / 65536 = 0xFF then retireChannel s c 2
    else
      let s := { logHistory s c 2 with byHand := s.byHand ++ [c] }
      (repairLane s (c.num % 256) (c.num / 256 % 256) 2).1
  | _ => retireChannel s c 2

/-- FLT_RETIRE (R518, R525). -/
def cmdFltRetire (d : Cmd) (_inst _id : Nat) (s : State) : State × Answer :=
  let c := argChan d
  orElse s
    [(!ready s rdyFlt, stNotReady), (!argsOnly d [(0, 1), (4, 4)] || !chanOk c, stBadParam), (isRetired s c, stStateConflict)]
    fun s => (retireByHand s c, .ok)

def execFltRetire (r : CmdRing) (d : Cmd) (s : State) : Host.Outcome State Fault Refusal :=
  goOnKeep s (runCmd 0x71 true r d (cmdFltRetire d) s)

/-- What comes back when a channel that was retired by hand is returned (R518). -/
def returnChannel (s : State) (c : Channel) : State :=
  let s := logHistory s c 3
  let s := { s with byHand := s.byHand.filter (· ≠ c), errors := tdel s.errors (errKey c) }
  match c.kind with
  | 1 =>
    let s := modCluster s c.num fun k => { k with retired := false }
    { s with shiftPend := s.shiftPend.filter fun x => !(x.cmd.isNone && x.die * 320 + x.row * 16 + x.column = c.num) }
  | 3 =>
    if c.num / 65536 = 0xFF then s
    else { s with lanesUsed := tmod s.lanesUsed (c.num % 256 * 16 + c.num / 256 % 256) (· - 1) }
  | 4 => retrainPort s (portOfLane s c.num)
  | _ => s

/-- The PLL domains 0 FAB, 1 TIME, 2 MGMT, 3 HBM: a domain that has switched is returned to its PLL (R521). -/
def returnPll (s : State) (n : Nat) : State :=
  let s := { s with pllStandby := s.pllStandby ||| (1#4 <<< n), errors := tdel s.errors (errKey { kind := 6, num := n }) }
  if n = 1 then { s with tb := { s.tb with fallback := false } } else s

/-- FLT_RETURN (R518, R521, R525): channels retired by FLT_RETIRE, and PLL domains. -/
def cmdFltReturn (d : Cmd) (_inst _id : Nat) (s : State) : State × Answer :=
  let c := argChan d
  let pll := c.kind = 6
  orElse s
    [(!ready s rdyFlt, stNotReady), (!argsOnly d [(0, 1), (4, 4)] || !(if pll then c.num < 4 else chanOk c), stBadParam),
     (if pll then s.pllStandby.getLsbD c.num else !s.byHand.contains c, stStateConflict)]
    fun s => (if pll then returnPll s c.num else returnChannel s c, .ok)

def execFltReturn (r : CmdRing) (d : Cmd) (s : State) : Host.Outcome State Fault Refusal :=
  goOnKeep s (runCmd 0x72 true r d (cmdFltReturn d) s)

-- ------------------------------------------------------------------ FLT_SHIFT and the shift itself (R527)

/-- FLT_SHIFT (R527). -/
def cmdFltShift (d : Cmd) (_inst id : Nat) (s : State) : State × Answer :=
  let c := argN d 0 2
  let ms := argN d 4 4
  orElse s
    [(!ready s rdyFlt || !ready s rdyArr, stNotReady), (!argsOnly d [(0, 2), (4, 4)] || 1279 < c || ms = 0 || 3600000 < ms, stBadParam),
     (columnPending s c || columnShifted s c, stStateConflict)]
    fun s => (startShift s c (some id) (some (s.now + ms * msec)), .wait c)

def execFltShift (r : CmdRing) (d : Cmd) (s : State) : Host.Outcome State Fault Refusal :=
  goOnKeep s (runCmd 0x73 true r d (cmdFltShift d) s)

/-- Entries of an SRAM table that lie in the shifted spaces of a column move to the spaces of its cores or clusters, which hold zero. -/
def moveSpaces (t : Table Byte) (width spaces : Nat) (inCol : Nat → Bool) : Table Byte :=
  let moved := fun (k : Nat) => spaces ≤ k / 2 ^ width && inCol (k / 2 ^ width - spaces)
  (t.filter fun x => moved x.1).foldl (fun t x => tset t (x.1 - spaces * 2 ^ width) x.2) (t.filter fun x => !moved x.1)

/-- All four shelves of a column take the shifted setting; the shift is recorded (R20, R527 step 5). -/
def applyShift (s : State) (x : Shift) : State :=
  let col := x.die * 16 + x.column
  let inCol := fun c : Nat => columnOf c = col && x.row ≤ c % 320 / 16
  let cl := x.die * 320 + x.row * 16 + x.column
  let s := logHistory s (clusterChan cl) 1
  let mine := fun c : Channel => c = clusterChan cl || (c.kind = 2 && clusterOf c.num = cl)
  { s with
    retired := s.retired.filter fun c => !mine c
    errors := s.errors.filter fun e => !mine { kind := e.1 / 2 ^ 32, num := e.1 % 2 ^ 32 }
    shifts := tset s.shifts col x.row
    shiftPend := s.shiftPend.filter fun y => !(y.die = x.die && y.column = x.column)
    csram := moveSpaces s.csram 16 20480 fun core => inCol (clusterOf core)
    clsram := moveSpaces s.clsram 20 1280 inCol
    cores := s.cores.map fun c => if inCol (clusterOf (c.1 / 4)) then (c.1, { c.2 with shifted := false }) else c
    units := s.units.map fun u => (u.1, { u.2 with shiftedCols := u.2.shiftedCols.filter (· ≠ col) }) }

/-- SPARE_SHIFT_APPLY (R527 step 5): no unit uses the unshifted setting any more. -/
def execSpareShiftApply (die column : Nat) (s : State) : Host.Outcome State Fault Refusal :=
  goOnKeep s (match s.shiftPend.find? fun x => x.die = die && x.column = column with
    | some x =>
      if unitsToMove s x = [] then finishCmd? (applyShift s x) x.cmd stOK [(0, 2, x.moved)] else s
    | none => s)

/-- FLT_SHIFT_BOUND_EXPIRE (R527): the command completes, the shift stays pending. -/
def execFltShiftBoundExpire (s : State) : Host.Outcome State Fault Refusal :=
  goOnKeep s (match s.shiftPend.find? fun x => x.deadline.any fun t => t ≤ s.now with
    | some x =>
      let s := { s with shiftPend := s.shiftPend.map fun y => if y.die = x.die ∧ y.column = x.column then { y with cmd := none, deadline := none } else y }
      finishCmd? s x.cmd stTimeout [(0, 2, x.moved)]
    | none => s)

-- ------------------------------------------------------------------ FLT_DIE_RETURN (R528)

/-- Are a die's sensors below 95 degrees, if it was shut down for temperature? -/
def dieCool (s : State) (d : Nat) : Bool := !regBit s pwrTherm (8 + d) || (tget s.temps d).any (· < 95)

/-- FLT_DIE_RETURN (R528): the die is powered. -/
def cmdFltDieReturn (d : Cmd) (_inst id : Nat) (s : State) : State × Answer :=
  let k := argN d 0 1
  orElse s
    [(!ready s rdyFlt, stNotReady), (!argsOnly d [(0, 1)] || 3 < k, stBadParam),
     (s.dieUp.getLsbD k || !dieCool s k || s.dieReturn.isSome, stStateConflict)]
    fun s =>
      (setPwren { s with dieReturn := some { die := k, cmd := some id } } k true, .wait k)

def execFltDieReturn (r : CmdRing) (d : Cmd) (s : State) : Host.Outcome State Fault Refusal :=
  goOnKeep s (runCmd 0x74 true r d (cmdFltDieReturn d) s)

/-- Channels that a successful die return gives back: clusters and cores of the die, and modules of the links at it, that the adapter had
retired and that passed (R518, R528). -/
def returnedByDie (d : Nat) (failed : List Nat) (c : Channel) : Bool :=
  match c.kind with
  | 1 => c.num / 320 = d && !failed.contains c.num
  | 2 => dieOf c.num = d && !failed.contains (clusterOf c.num)
  | 3 =>
    let link := c.num % 256
    link = d || ((ringPair link).1 = d || (ringPair link).2 = d)
  | _ => false
where
  ringPair : Nat → Nat × Nat
    | 4 => (0, 1)
    | 5 => (1, 3)
    | 6 => (3, 2)
    | 7 => (2, 0)
    | _ => (9, 9)

/-- Every byte and every shelf of a die is zero. -/
def scrubDie (s : State) (d : Nat) : State :=
  let core := fun (k : Nat) => k % 20480 / 5120 = d
  let cl := fun (k : Nat) => k % 1280 / 320 = d
  { s with
    csram := s.csram.filter fun x => !core (x.1 / 2 ^ 16)
    clsram := s.clsram.filter fun x => !cl (x.1 / 2 ^ 20)
    cores := s.cores.filter fun x => !core (x.1 / 4)
    inqs := s.inqs.filter fun x => !core (x.1 / 16) || x.2.frozen
    xfifos := s.xfifos.filter fun x => !core (x.1 / 16)
    joinSince := s.joinSince.filter fun x => !core (x.1 / 1024)
    joinDone := s.joinDone.filter fun x => !core (x.1 / 1024)
    coreFired := s.coreFired.filter fun x => !core x.1
    clPend := s.clPend.filter fun w => !cl w.cluster }

/-- The die is back (R528): self-test, retirement map, scrub, DIE_UP; its RETIRED units, which stay so until then, reach EMPTY by scrub unless
another of their dies is down. -/
def dieBack (s : State) (d : Nat) (failed : List Nat) : State :=
  let s := scrubDie s d
  let s := { s with dieUp := s.dieUp ||| (1#4 <<< d), dieLost := s.dieLost &&& ~~~(1#4 <<< d), dieRail := s.dieRail ||| (1#4 <<< d), retired := s.retired.filter fun c => !returnedByDie d failed c }
  let s := refreshAlert (regClr s pwrTherm (2 ^ (8 + d)))
  let s := s.clusters.foldl (fun s c =>
    if dieOfCluster c.1 = d ∧ s.byHand.contains (clusterChan c.1) = false then modCluster s c.1 fun k => { k with retired := false } else s) s
  let s := failed.foldl (fun s c => if isRetired s (clusterChan c) then modCluster s c fun k => { k with retired := true }
    else retireChannel s (clusterChan c) 1) s
  let up := fun u : MUnit => u.clusters.all fun c => s.dieUp.getLsbD (dieOfCluster c)
  { s with units := s.units.map fun u =>
      if u.2.retired && unitOnDie u.2 d && up u.2 then (u.1, { u.2 with scrub := some (s.now, none, stOK), drain := none })
      else u }

/-- DIE_RETURN_DONE (R528): the sequence has ended, well or not. -/
def execDieReturnDone (die : Nat) (ok : Bool) (failed : List Nat) (s : State) : Host.Outcome State Fault Refusal :=
  goOnKeep s (match s.dieReturn with
    | some x =>
      if x.die = die then
        let s := { s with dieReturn := none }
        if ok then
          let bad := (failed.filter fun c => dieOfCluster c = die).dedup
          finishCmd? (dieBack s die bad) x.cmd stOK [(0, 2, bad.length)]
        else
          finishCmd? (setPwren s die false) x.cmd stRetired []
      else s
    | none => s)

-- ------------------------------------------------------------------ firmware (R529-R531)

/-- FW_WRITE (R530): digest and signature are checked before anything is erased. -/
def cmdFwWrite (d : Cmd) (_inst id : Nat) (s : State) : State × Answer :=
  orElse s
    [(!argsOnly d [], stBadParam), (s.mgmt.writing.isSome, stStateConflict), (!Config.firmwareSignatureOk d.buf, stIntegrity)]
    fun s => ({ s with mgmt := { s.mgmt with writing := some (d.buf, id) } }, .wait 0)

def execFwWrite (r : CmdRing) (d : Cmd) (s : State) : Host.Outcome State Fault Refusal := goOnKeep s (runCmd 0x75 true r d (cmdFwWrite d) s)

/-- FW_FLASH_WRITTEN (R530): the image is in flash; the running firmware goes on. -/
def execFwFlashWritten (s : State) : Host.Outcome State Fault Refusal :=
  goOnKeep s (match s.mgmt.writing with
    | some (b, id) => finishCmd { s with mgmt := { s.mgmt with flash := some b, writing := none } } id stOK []
    | none => s)

/-- Commands that are pending in the processor: those of the administration ring it handles; a gate takeover waits in the gate engine, and
FW_ACTIVATE waits for the start itself. -/
def inProcessor (c : PendCmd) : Bool := 0x40 ≤ c.opcode && c.opcode ≠ 0x41 && c.opcode ≠ 0x76

/-- A restart of the management processor begins (R529); GLB_READY.MGMT stays 1 (R541). What was pending in the processor completes with
TIMEOUT; a shift stays pending, a die that was coming back stays down (R538). -/
def beginRestart (s : State) : State :=
  let s := regOr (regAdd s fltMgmtRestarts 1) fltEvent 0x10
  let s := { s with mgmt := { s.mgmt with restarting := true, failedStarts := 0, startDeadline := s.now + 50 * msec } }
  let s := (s.cmds.filter inProcessor).foldl (fun s c => finishCmd s c.id stTimeout []) s
  let s := { s with shiftPend := s.shiftPend.map fun (x : Shift) => { x with cmd := none, deadline := none } }
  match s.dieReturn with
  | some x => setPwren { s with dieReturn := none } x.die false
  | none => s

/-- FW_ACTIVATE (R531). -/
def cmdFwActivate (d : Cmd) (_inst id : Nat) (s : State) : State × Answer :=
  orElse s
    [(!argsOnly d [], stBadParam), (s.mgmt.writing.isSome || s.mgmt.activate.isSome, stStateConflict)]
    fun s =>
      let s := beginRestart s
      ({ s with mgmt := { s.mgmt with activate := some id } }, .wait 0)

def execFwActivate (r : CmdRing) (d : Cmd) (s : State) : Host.Outcome State Fault Refusal :=
  goOnKeep s (runCmd 0x76 true r d (cmdFwActivate d) s)

/-- A start has failed: it is retried, or after the third the recovery loader runs, with every port in STORE_FORWARD (R369, R531). -/
def failedStart (s : State) : State :=
  let n := s.mgmt.failedStarts + 1
  if n < 3 then
    regAdd { s with mgmt := { s.mgmt with failedStarts := n, startDeadline := s.now + 50 * msec } } fltMgmtRestarts 1
  else
    let s := regOr (finishCmd? s s.mgmt.activate stTimeout []) glbResetCause 0x10
    { s with mgmt := { s.mgmt with failedStarts := n, restarting := false, recovery := true, activate := none } }

/-- FW_START_TIMEOUT (R531). -/
def execFwStartTimeout (s : State) : Host.Outcome State Fault Refusal :=
  goOnKeep s (if s.mgmt.restarting && s.mgmt.startDeadline ≤ s.now then failedStart s else s)

end Sys2Proof.Machine
end

