-- ==== Sys2Proof/Machine/Mailbox.lean ====
section
/-! DEFINITION. The management mailbox (R573, R574). -/

namespace Sys2Proof.Machine

open Sys2Proof

/-- Does the management processor take mailbox requests now (R529, R573)? -/
def mboxServed (s : State) : Bool := ready s rdyMgmt && !s.mgmt.restarting

/-- A write to GLB_MBOX_REQ (R573): CODE [7:0], SEQ [15:8], ARG [31:16]. It posts one request; a write while BUSY is ignored and
recorded; one while MGMT is 0 is discarded. -/
def mboxPost (s : State) (v : Nat) : State :=
  if !mboxServed s then s
  else if s.mgmt.mbox.isSome then regOr s glbEvent 8
  else
    let q : MboxReq := { code := v % 256, seq := BitVec.ofNat 8 (v / 256), arg := v / 65536 % 65536 }
    { regPut s glbMboxReq v with mgmt := { s.mgmt with mbox := some q } }

def mboxWord (code : Nat) (seq : Byte) (arg : BitVec 16) : Nat := code + seq.toNat * 256 + arg.toNat * 65536

def execFwInfo (seq : Byte) (arg : BitVec 16) (s : State) : Host.Outcome State Fault Refusal :=
  goOnKeep s (mboxPost s (mboxWord 1 seq arg))

def execUptime (seq : Byte) (arg : BitVec 16) (s : State) : Host.Outcome State Fault Refusal :=
  goOnKeep s (mboxPost s (mboxWord 2 seq arg))

def execLinkInfo (seq : Byte) (arg : BitVec 16) (s : State) : Host.Outcome State Fault Refusal :=
  goOnKeep s (mboxPost s (mboxWord 3 seq arg))

def execLldpPeer (seq : Byte) (arg : BitVec 16) (s : State) : Host.Outcome State Fault Refusal :=
  goOnKeep s (mboxPost s (mboxWord 4 seq arg))

/-- FW_INFO: the running firmware's version and build date. -/
def mboxFwInfo (s : State) : List Nat := [s.mgmt.fwVersion.toNat, s.mgmt.fwDate.toNat, 0, 0]

/-- UPTIME: ms since the processor last started, low word first, and restarts since power-on. -/
def mboxUptime (s : State) : List Nat :=
  let ms := (s.now - s.mgmt.startedAt) / msec
  [ms % 2 ^ 32, ms / 2 ^ 32 % 2 ^ 32, regRaw s fltMgmtRestarts, 0]

/-- LINK_INFO of a link. The manual gives the two sizes no value: free values (log entry 2). -/
def mboxLinkInfo (s : State) (l : Nat) : List Nat × State :=
  let k := tgetD s.links l {}
  let (payload, s) := drawNat s
  let (request, s) := drawNat s
  ([b2n k.up + k.gen * 2 + 16 * 16, payload % 2 ^ 32, request % 2 ^ 32, 0], s)

/-- LLDP_PEER of a port; before any LLDPDU the manual gives no time (log entry 2). -/
def mboxLldpPeer (s : State) (p : Nat) : List Nat × State :=
  let q := getPort s p
  let word := b2n q.lldpSeen + b2n q.lldpLpi * 2 + q.lldpWake % 65536 * 65536
  if q.lldpSeen then ([word, min 0xFFFFFFFF ((s.now - q.lldpAt) / (1000 * msec)), 0, 0], s)
  else
    let (t, s) := drawNat s
    ([word, t % 2 ^ 32, 0, 0], s)

/-- The status and the four result words of a request (R574). -/
def mboxResult (s : State) (q : MboxReq) : (Nat × List Nat) × State :=
  if q.code = 1 ∧ q.arg = 0 then ((stOK, mboxFwInfo s), s)
  else if q.code = 2 ∧ q.arg = 0 then ((stOK, mboxUptime s), s)
  else if q.code = 3 ∧ q.arg < 2 then
    let (d, s) := mboxLinkInfo s q.arg
    ((stOK, d), s)
  else if q.code = 4 ∧ q.arg < 16 ∧ portExists s q.arg then
    let (d, s) := mboxLldpPeer s q.arg
    ((stOK, d), s)
  else ((stBadParam, [0, 0, 0, 0]), s)

/-- DATA0-DATA3 are written, then STATUS [7:0] and SEQ [15:8] (R573, R570). -/
def mboxAnswer (s : State) (seq : Byte) (st : Nat) (d : List Nat) : State :=
  let s := regPut s glbMboxData0 (d.getD 0 0)
  let s := regPut s glbMboxData1 (d.getD 1 0)
  let s := regPut s glbMboxData2 (d.getD 2 0)
  let s := regPut s glbMboxData3 (d.getD 3 0)
  { regPut s glbMboxResp (st + seq.toNat * 256) with mgmt := { s.mgmt with mbox := none } }

/-- MBOX_COMPLETE: the request in progress completes; the recovery loader answers every request NOT_READY (R531). -/
def execMboxComplete (s : State) : Host.Outcome State Fault Refusal :=
  goOnKeep s (match s.mgmt.mbox with
    | some q =>
      if mboxServed s then
        if s.mgmt.recovery then mboxAnswer s q.seq stNotReady [0, 0, 0, 0]
        else
          let ((st, d), s) := mboxResult s q
          mboxAnswer s q.seq st d
      else s
    | none => s)

end Sys2Proof.Machine
end

