-- ==== Sys2Proof/Machine/Doorbells.lean ====
section
/-! DEFINITION. Doorbells and the instance page (R430-R436, R440, R478), and what a doorbell lets go on: receive requests (R320, R445),
messages that wait for a slot or a buffer (R61, R337), an armed ring's vector (R440). -/

namespace Sys2Proof.Machine

open Sys2Proof

-- ------------------------------------------------------------------ the ring a doorbell names (R433, R434)

/-- The key of the ring that a doorbell of a kind names on a page; none where NUMBER names no ring of the kind. -/
def doorbellKey (kind page : Nat) (b : Doorbell) : Option Nat :=
  let n := b.number.toNat
  if kind = rkSq ∨ kind = rkRq ∨ kind = rkCq then some (ringKey kind n)
  else if kind = rkRawTx ∨ kind = rkRawRx then if n < 16 then some (rawKey kind page n) else none
  else if kind = rkSteer then if n < 2 ^ 14 then some (steerKey page (n / 256) (n % 256)) else none
  else if n ≠ 0 then none
  else if kind = rkAdmin ∨ kind = rkAdminCpl ∨ kind = rkTlm then if page = 0 then some (ringKey kind 0) else none
  else some (ringKey kind page)

/-- Kinds whose entries the adapter produces. -/
def adapterProduces (kind : Nat) : Bool :=
  kind = rkCq || kind = rkCpl || kind = rkEvent || kind = rkTs || kind = rkSteer || kind = rkAdminCpl || kind = rkTlm

/-- Kinds that name an MSI-X vector (R440). -/
def hasVector (kind : Nat) : Bool := kind = rkCq || kind = rkCpl || kind = rkEvent || kind = rkTs || kind = rkAdminCpl

/-- The ring that a doorbell reaches, unless it is one of R434's. -/
def doorbellRing (s : State) (kind page : Nat) (b : Doorbell) : Option (Nat × Ring) :=
  if !b.aligned || b.reserved ≠ 0 || (b.arm && !adapterProduces kind) then none
  else
    match doorbellKey kind page b with
    | none => none
    | some k =>
      match getRing s k with
      | some r => if r.owner = page && r.kind = kind then some (k, r) else none
      | none => none

/-- A discarded doorbell: counted, but not on the page of an instance that is resetting or being destroyed (R478), nor on the page of one
that does not exist, but for instance 0's (R434). -/
def dropDoorbell (s : State) (page : Nat) : State :=
  if (getInst s page).st = .active ∨ page = 0 then countInst s page 0 1 else s

/-- What a doorbell does: nothing on a page whose instance does not serve; else f on the ring it names. -/
def onDoorbell (s : State) (kind page : Nat) (b : Doorbell) (f : Nat → Ring → State) : State :=
  if (getInst s page).st = .resetting ∨ (getInst s page).st = .destroying then s
  else
    match doorbellRing s kind page b with
    | some (k, r) => f k r
    | none => dropDoorbell s page

-- ------------------------------------------------------------------ producer doorbells (R431, R435, R352)

/-- The descriptors of n new entries, 64 bytes each; the adapter reads each once (R432). -/
def newDescs (descs : List Bytes) (n : Nat) : List Bytes := (List.range n).map fun i => sliceZ (descs.getD i []) 0 64

/-- A producer index: overrun past ENTRIES, no effect where it is the present one; else it replaces the index, also by one that takes back
entries which the engine has not served (R352, R435). -/
def producerBell (s : State) (k : Nat) (r : Ring) (b : Doorbell) (descs : List Bytes) : State :=
  if r.entries < (b.index - r.cons).toNat then ringOverrun s r.owner r.kind b.number.toNat
  else
    let n := (b.index - r.cons).toNat
    modRing s k fun r => { r with prod := b.index, posted := (r.posted ++ newDescs descs (n - ringCount r)).take n }

-- ------------------------------------------------------------------ consumer doorbells (R435, R440)

/-- A consumer index: overrun past the producer index; else entries are free, and ARM arms the ring. -/
def consumerBell (s : State) (k : Nat) (r : Ring) (b : Doorbell) : State :=
  if ringCount r < (b.index - r.cons).toNat then ringOverrun s r.owner r.kind b.number.toNat
  else
    let s := modRing s k fun r =>
      let times := r.times.drop (b.index - r.cons).toNat
      { r with cons := b.index, times := times, armed := r.armed || (b.arm && hasVector r.kind),
               armIndex := if b.arm then b.index else r.armIndex, firstAt := if b.arm then times.head? else r.firstAt }
    raiseIfDue s k

def consumerDoorbell (s : State) (kind page : Nat) (b : Doorbell) : State :=
  onDoorbell s kind page b fun k r => consumerBell s k r b

-- ------------------------------------------------------------------ messages that wait for a slot or a buffer (R61, R337)

/-- A held message takes the slot or buffer that is free now, and goes on. -/
def serveOne (s : State) (id : Nat) : State :=
  match getMsg s id with
  | some m =>
    if m.steerUntil.any (fun t => decide (s.now < t)) then
      match takeSteer s id with
      | some s => tryComplete s id
      | none => s
    else s
  | none => s

/-- Held messages of an instance, the oldest first. -/
def serveHeld (s : State) (inst : Nat) : State :=
  ((s.msgs.filter fun m => m.2.inst = inst && m.2.steerUntil.isSome).map (·.1)).foldl serveOne s

-- ------------------------------------------------------------------ the commands

/-- SQ_DOORBELL (R433, R435): the requests wait for the engine. -/
def execSqDoorbell (page : Nat) (b : Doorbell) (descs : List Bytes) (s : State) : Host.Outcome State Fault Refusal :=
  goOnKeep s (onDoorbell s rkSq page b fun k r => producerBell s k r b descs)

/-- A receive request that obeys R445 and has no reserved field set (R5). -/
def recvOk (op : Nat) (d : Bytes) : Bool := byteAt d 0 = op && recvReservedOk d

/-- A receive request (R320, R445): flushed in ERROR, a malformed one fails, refused in RESET (R11); else it is posted. -/
def postRecvWr (s : State) (i : Nat) (index : BitVec 32) (d : Bytes) : State :=
  match getQp s i with
  | none => s
  | some q =>
    let w := parseRecv index d
    let fail := fun (st : Nat) => postRecv s i q { wrId := w.wrId.toNat, status := st, opcode := 1, port := q.port }
    match q.st with
    | .error => fail stFlushed
    | st =>
      if !recvOk 8 d then fail stBadParam
      else if st = .reset then fail stStateConflict
      else modQp s i fun q => { q with recvs := q.recvs ++ [w] }

/-- Takes the receive ring's new entries, from an index on. -/
def takeRecvs (s : State) (i : Nat) : BitVec 32 → List Bytes → State
  | _, [] => s
  | x, d :: t => takeRecvs (postRecvWr s i x d) i (x + 1) t

/-- A receive ring's consumer index: its entries are used as messages take their buffers. -/
def rqCons (s : State) (i : Nat) (r : Ring) : BitVec 32 :=
  r.prod - BitVec.ofNat 32 (((getQp s i).map fun q => q.recvs.length).getD 0)

/-- RQ_DOORBELL (R320, R433, R435, R445). -/
def execRqDoorbell (page : Nat) (b : Doorbell) (descs : List Bytes) (s : State) : Host.Outcome State Fault Refusal :=
  goOnKeep s (onDoorbell s rkRq page b fun k r =>
    let i := b.number.toNat
    let r := { r with cons := rqCons s i r }
    let s := modRing s k fun _ => r
    if r.entries < (b.index - r.cons).toNat then ringOverrun s r.owner r.kind i
    else
      let n := (b.index - r.cons).toNat
      let ds := newDescs descs (n - ringCount r)
      let s := modQp (modRing s k fun r => { r with prod := b.index }) i fun q => { q with recvs := q.recvs.take n }
      serveHeld (takeRecvs s i r.prod ds) page)

/-- CQ_DOORBELL (R433, R435, R440). -/
def execCqDoorbell (page : Nat) (b : Doorbell) (s : State) : Host.Outcome State Fault Refusal := goOnKeep s (consumerDoorbell s rkCq page b)

/-- CMD_RING_DOORBELL (R433, R435): the commands wait for the engine. -/
def execCmdRingDoorbell (page : Nat) (b : Doorbell) (s : State) : Host.Outcome State Fault Refusal :=
  goOnKeep s (onDoorbell s rkCmd page b fun k r => modRing (producerBell s k r b []) k fun r => { r with posted := [] })

/-- CMD_CPL_DOORBELL (R433, R435, R440, R442). -/
def execCmdCplDoorbell (page : Nat) (b : Doorbell) (s : State) : Host.Outcome State Fault Refusal :=
  goOnKeep s (consumerDoorbell s rkCpl page b)

/-- EVENT_RING_DOORBELL (R433, R435, R440). -/
def execEventRingDoorbell (page : Nat) (b : Doorbell) (s : State) : Host.Outcome State Fault Refusal :=
  goOnKeep s (consumerDoorbell s rkEvent page b)

/-- RAW_TX_DOORBELL (R433, R435): the descriptors wait for the engine. -/
def execRawTxDoorbell (page : Nat) (b : Doorbell) (descs : List Bytes) (s : State) : Host.Outcome State Fault Refusal :=
  goOnKeep s (onDoorbell s rkRawTx page b fun k r => producerBell s k r b descs)

/-- A malformed raw receive buffer completes with BAD_PARAM and leaves its ring (R5, R445). -/
def rejectRawRx (s : State) (k : Nat) (r : Ring) (d : Bytes) : State :=
  let base : RecvRec := { wrId := (parseRecv r.cons d).wrId.toNat, status := stBadParam, opcode := 17 }
  cqPost (modRing s k fun r => { r with cons := r.cons + 1 }) r.cq (recvRec base)

/-- The new entries of a raw receive ring are posted, but for malformed ones. -/
def postRawRx (s : State) (k : Nat) (r : Ring) (b : Doorbell) (descs : List Bytes) : State :=
  let new := newDescs descs ((b.index - r.cons).toNat - ringCount r)
  let t := producerBell s k r b descs
  if r.entries < (b.index - r.cons).toNat || new.all (recvOk 17) then t
  else
    (new.filter fun d => !recvOk 17 d).foldl (fun t d => rejectRawRx t k r d)
      (modRing t k fun r => { r with posted := r.posted.filter (recvOk 17) })

/-- RAW_RX_DOORBELL (R433, R435, R447): the buffers are posted, but for malformed ones. -/
def execRawRxDoorbell (page : Nat) (b : Doorbell) (descs : List Bytes) (s : State) : Host.Outcome State Fault Refusal :=
  goOnKeep s (onDoorbell s rkRawRx page b fun k r => postRawRx s k r b descs)

/-- TS_RING_DOORBELL (R433, R435, R440). -/
def execTsRingDoorbell (page : Nat) (b : Doorbell) (s : State) : Host.Outcome State Fault Refusal := goOnKeep s (consumerDoorbell s rkTs page b)

/-- STEER_RING_DOORBELL (R433, R435, R465): slots are free, and messages that wait for one go on. -/
def execSteerRingDoorbell (page : Nat) (b : Doorbell) (s : State) : Host.Outcome State Fault Refusal :=
  goOnKeep s (onDoorbell s rkSteer page b fun k r => serveHeld (consumerBell s k r b) page)

/-- ADMIN_RING_DOORBELL (R433-R435): instance 0's page only. -/
def execAdminRingDoorbell (page : Nat) (b : Doorbell) (s : State) : Host.Outcome State Fault Refusal :=
  goOnKeep s (onDoorbell s rkAdmin page b fun k r => modRing (producerBell s k r b []) k fun r => { r with posted := [] })

/-- ADMIN_CPL_DOORBELL (R433-R435, R440, R572). -/
def execAdminCplDoorbell (page : Nat) (b : Doorbell) (s : State) : Host.Outcome State Fault Refusal :=
  goOnKeep s (consumerDoorbell s rkAdminCpl page b)

/-- TLM_RING_DOORBELL (R433-R435): instance 0's page only. -/
def execTlmRingDoorbell (page : Nat) (b : Doorbell) (s : State) : Host.Outcome State Fault Refusal :=
  goOnKeep s (consumerDoorbell s rkTlm page b)

/-- MSIX_MOD_EXPIRE (R440): the moderation time of an armed ring has passed. -/
def execMsixModExpire (ring : Nat) (s : State) : Host.Outcome State Fault Refusal := goOnKeep s (raiseIfDue s ring)

-- ------------------------------------------------------------------ INSTANCE_STATUS (R436)

/-- What a read of an instance page returns: INSTANCE_STATUS at 0x800, zero elsewhere; reads change nothing. -/
def readPage (s : State) (page off : Nat) : Nat :=
  if off = 0x800 then
    b2n (instExists s page) + b2n (ready s rdyWgt) * 2 + b2n (ready s rdyShf) * 4 + b2n (ready s rdyArm) * 8 + b2n (ready s rdyTim) * 16
      + b2n ((getInst s page).st = .resetting || (getInst s page).st = .destroying) * 32
  else 0

end Sys2Proof.Machine
end

