-- ==== Sys2Proof/Machine/WorkRequests.lean ====
section
/-! DEFINITION. Work requests taken by the engine (R320, R321, R323, R335, R443, R444), raw transmit descriptors (R386, R417, R446), and reads
over PCIe that fail (R428). -/

namespace Sys2Proof.Machine

open Sys2Proof

-- ------------------------------------------------------------------ send work requests

/-- The head of a send queue: its index and its bytes. -/
def sqHead (s : State) (i : Nat) : Option (BitVec 32 × Bytes) :=
  (getRing s (ringKey rkSq i)).bind fun r => r.posted.head?.map fun d => (r.cons, d)

/-- The head leaves the ring and becomes a request of the QP. -/
def takeHead (s : State) (i : Nat) : State :=
  modRing s (ringKey rkSq i) fun r => { r with cons := r.cons + 1, posted := r.posted.drop 1 }

/-- A request that is over at once: it completes in ring order (R450). In RTS it takes the queue pair to ERROR, as no later request of the ring may
complete with OK (DEDUCED; log entry 112). -/
def refuseSend (s : State) (i : Nat) (w : SendWr) (st : Nat) : State :=
  let own := fun (x : Option Nat) => modQp (takeHead s i) i fun q => { q with sends := q.sends ++ [{ w with done := x }] }
  match getQp s i with
  | some q => if q.st = .rts then qpError (own none) i (some (w.index, st)) none else retireSends (own (some st)) i
  | none => s

/-- R444: OPCODE or LENGTH out of range, NOTIFY on another request than a WRITE, or a reserved field. -/
def sendBad (d : Bytes) (w : SendWr) : Bool :=
  !(1 ≤ w.opcode && w.opcode ≤ 3) || 2 ^ 31 < w.length || (w.opcode ≠ 1 && w.length = 0) || (bit w.flags 1 && w.opcode ≠ 2)
  || !sendReservedOk d

/-- Does a request wait: for earlier READs under FENCE (R443), for credit (R335), for an RNR delay (R332)? -/
def sendWaits (s : State) (q : Qp) (w : SendWr) : Bool :=
  (bit w.flags 2 && q.sends.any fun x => x.opcode = 3 && x.done.isNone)
  || !seqGe q.credit q.nextMsn
  || (match q.rnrUntil with | some t => s.now < t | none => false)

/-- Has a QP pending send work: a request at the head of its ring that does not wait? -/
def sendPending (s : State) (i : Nat) (q : Qp) : Bool :=
  match sqHead s i with
  | some (index, d) => q.live && !(q.st = .rts && sendWaits s q (parseSend index d []))
  | none => false

/-- Places after the one served last, in round robin order. -/
def turnDist (last n size : Nat) : Nat := (n + size - 1 - last) % size

/-- The engine's order over send work (R351): instances with pending send work in round robin, and within an instance its queue pairs. -/
def sendTurn (s : State) (i : Nat) (q : Qp) : Bool :=
  sendPending s i q && s.qps.all fun x =>
    !sendPending s x.1 x.2 ||
      (if x.2.owner = q.owner then
         let last := tgetD s.srvQps q.owner 0
         turnDist last i (2 ^ 18) ≤ turnDist last x.1 (2 ^ 18)
       else turnDist s.srvLast q.owner 1024 ≤ turnDist s.srvLast x.2.owner 1024)

/-- The QP has had its turn (R351). -/
def sendServed (s : State) (i : Nat) (q : Qp) : State := { s with srvLast := q.owner, srvQps := tset s.srvQps q.owner i }

/-- The request at the head of a QP's ring, in its turn (R320, R323, R444). Its checks fail in the order of R11. A local access failure in RTS
is R321's; a buffer behind a link that is down fails with FLUSHED (R429). -/
def serveWr (s : State) (i opcode : Nat) (q : Qp) (index : BitVec 32) (d payload : Bytes) : State :=
  let w0 := parseSend index d []
  let (st, _) := localAccess s q.owner w0.lkey w0.localAddr w0.length (if w0.opcode = 3 then acLocalWrite else 0)
  if q.st = .error then refuseSend s i w0 stFlushed
  else if st = stNotPermitted then refuseSend s i w0 st
  else if sendBad d w0 then refuseSend s i w0 stBadParam
  else if q.st ≠ .rts then refuseSend s i w0 stStateConflict
  else if st ≠ stOK then refuseSend s i w0 st
  else
    let w := { w0 with payload := if opcode = 3 then [] else sliceZ payload 0 w0.length }
    countInst (modQp (takeHead s i) i fun q => beginSend q w) q.owner 6 1

/-- The engine serves a QP whose turn it is and whose next request has the row's opcode; a request with an opcode of no row comes with any. -/
def startWr (s : State) (i opcode : Nat) (payload : Bytes) : State :=
  match getQp s i, sqHead s i with
  | some q, some (index, d) =>
    let op := byteAt d 0
    if (op ≠ opcode ∧ 1 ≤ op ∧ op ≤ 3) ∨ sendTurn s i q = false then s
    else serveWr (sendServed s i q) i opcode q index d payload
  | _, _ => s

/-- WR_SEND (R443). The payload is what the adapter reads at LOCAL_ADDR. -/
def execWrSend (qp : Nat) (payload : Bytes) (s : State) : Host.Outcome State Fault Refusal := goOnKeep s (startWr s qp 1 payload)

/-- WR_WRITE (R443). -/
def execWrWrite (qp : Nat) (payload : Bytes) (s : State) : Host.Outcome State Fault Refusal := goOnKeep s (startWr s qp 2 payload)

/-- WR_READ (R443). -/
def execWrRead (qp : Nat) (s : State) : Host.Outcome State Fault Refusal := goOnKeep s (startWr s qp 3 [])

-- ------------------------------------------------------------------ raw transmit (R446)

/-- A raw transmit descriptor's fields. -/
structure RawDesc where
  opcode : Nat
  flags : Nat
  port : Nat
  tc : Nat
  lkey : Nat
  cookie : DWord
  addr : Nat
  length : Nat
  tsOff : Nat
  cfOff : Nat
  deriving DecidableEq, Repr

def parseRaw (d : Bytes) : RawDesc :=
  { opcode := byteAt d 0, flags := byteAt d 1, port := byteAt d 2, tc := byteAt d 3, lkey := le d 4 4, cookie := BitVec.ofNat 64 (le d 8 8),
    addr := le d 0x10 8, length := le d 0x18 4, tsOff := le d 0x1C 2, cfOff := le d 0x1E 2 }

/-- A raw transmit taken from its ring and not completed. -/
def rawOutOf (index : BitVec 32) (x : RawDesc) : RawOut :=
  { index := index, cookie := x.cookie, bytes := x.length, signaled := bit x.flags 0, opcode := x.opcode, lkey := x.lkey }

/-- Does a PTP message over UDP on IPv6 carry the two trailing bytes that IEEE 1588-2019 provides (R417): the datagram is longer than the
message by two or more? -/
def hasTrail (f : Bytes) (o : Nat) : Bool := be f (o + 10) 2 + 2 ≤ be f (o + 4) 2 - 8 && o + be f (o + 4) 2 ≤ f.length

/-- R417 refuses a TS_INSERT frame over UDP on IPv6 without the trailing bytes; STORE_FORWARD recomputes the checksum instead. -/
def trailRefused (s : State) (x : RawDesc) (f : Bytes) : Bool :=
  bit x.flags 1 && !(getPort s x.port).sfTx && ipVer f = 6 && match udpOff f with | some o => !hasTrail f o | none => false

/-- R446: a field out of range, an inserted field outside the frame, CF_INSERT without TS_INSERT, or a frame that R417 refuses. -/
def rawBad (s : State) (d : Bytes) (x : RawDesc) (f : Bytes) : Bool :=
  x.opcode ≠ 0x10 || 15 < x.flags || 15 < x.port || !portExists s x.port || 7 < x.tc || x.length < 60
  || maxFrame s x.port - 4 < x.length || !zeroAt d 0x20 32
  || (bit x.flags 1 && x.length < x.tsOff + 10) || (bit x.flags 3 && (x.length < x.cfOff + 8 || !bit x.flags 1)) || trailRefused s x f

/-- The raw frame as it is queued. -/
def rawFrame (s : State) (inst number : Nat) (index : BitVec 32) (x : RawDesc) (f : Bytes) : TxFrame :=
  { kind := .raw, data := f, inst := inst, queuedAt := s.now, tsOff := if bit x.flags 1 then some x.tsOff else none,
    cfOff := if bit x.flags 3 then some x.cfOff else none, tsRecord := bit x.flags 2, cookie := x.cookie, signaled := bit x.flags 0,
    sqIndex := index, rawQueue := number }

/-- RAW_TRANSMIT (R386, R446, R450, R541): the descriptor at the head of a raw transmit ring; it waits for its instance's shaper. The frame is what
the adapter reads at ADDR. Behind one that failed, a descriptor is flushed: none may complete with OK (DEDUCED; log entry 112). -/
def rawTransmit (s : State) (inst number : Nat) (frame : Bytes) : State :=
  let key := rawKey rkRawTx inst number
  match getRing s key with
  | none => s
  | some r =>
    match r.posted with
    | [] => s
    | d :: t =>
      if !instActive s inst then s
      else
        let x := parseRaw d
        let f := sliceZ frame 0 (min x.length 16384)
        let taken := modRing s key fun r => { r with cons := r.cons + 1, posted := t, rawOut := r.rawOut ++ [rawOutOf r.cons x] }
        let (st, _) := localAccess s inst x.lkey x.addr x.length 0
        if portExists s x.port && !portReady s x.port then rawFinish taken inst number r.cons stNotReady
        else if st = stNotPermitted then rawFinish taken inst number r.cons st
        else if rawBad s d x f then rawFinish taken inst number r.cons stBadParam
        else
          if st ≠ stOK || r.failed then rawFinish taken inst number r.cons (if r.failed then stFlushed else st)
          else if !bucketPermits s (instBucket inst false) then s
          else
            let g := rawFrame s inst number r.cons x f
            let s := bucketCharge taken (instBucket inst false) (wireBytes f.length)
            if txOpen s x.port then queueTc s x.port x.tc g
            else rawUnsent (regAdd s (macTxDiscard x.port) 1) g

def execRawTransmit (inst number : Nat) (frame : Bytes) (s : State) : Host.Outcome State Fault Refusal :=
  goOnKeep s (rawTransmit s inst number frame)

-- ------------------------------------------------------------------ reads that fail (R428)

/-- The work request whose buffer the adapter is reading: the oldest one that is not wholly sent, else the one at the head of the ring. -/
def failWr (s : State) (i st : Nat) : State :=
  match getQp s i with
  | none => s
  | some q =>
    match q.sends.find? (fun w => w.started && w.done.isNone && w.opcode ≠ 3 && w.sent < w.packets) with
    | some w => qpError s i (some (w.index, st)) none
    | none =>
      match sqHead s i with
      | some (index, d) =>
        if q.st = .rts then
          qpError (modQp (takeHead s i) i fun q => { q with sends := q.sends ++ [parseSend index d []] }) i (some (index, st)) none
        else s
      | none => s

/-- A LOAD whose image cannot be read fails and its unit is scrubbed (R191); another command fails as it is taken, under the OPCODE of its
descriptor (R453). -/
def failCmd (s : State) (r : CmdRing) (tag : BitVec 32) (opcode st : Nat) : State :=
  match s.cmds.find? fun c => c.ring = r && c.tag = tag with
  | some c =>
    (match s.units.find? fun u => u.2.loadCmd = some c.id with
     | some (ui, _) => startScrub (modUnit s ui fun u => { u with loadCmd := none, image := [] }) ui (some c.id) st
     | none => s)
  | none =>
    match takeCmd s r with
    | some (index, s) =>
      completeCmd s r tag index opcode st 0 []
    | none => s

/-- A message whose data cannot be read fails: its completion carries the status, and says of the message what any does (R451); its receive buffer is
used. -/
def failMsg (s : State) (id st : Nat) : State :=
  match getMsg s id with
  | none => s
  | some m =>
    if m.finished then s
    else
      let s := discardMsg s id
      match m.qp with
      | none => s
      | some i =>
        let s := match getQp s i with
          | some q =>
            let r := (tget q.rxMsgs m.msn).getD { opcode := m.opcode, capture := m.capture, msgId := some id }
            let s := modQp s i fun q => { q with rxMsgs := tmod q.rxMsgs m.msn fun r => { r with wr := none } }
            postRecv s i q { failedRec s q m.msn r with wrId := (r.wr.map (·.wrId.toNat)).getD 0, status := st }
          | none => s
        updateCredit (completeAll s i) i

/-- The frame of a raw transmit queue's next descriptor cannot be read: the descriptor fails. -/
def failRaw (s : State) (inst number st : Nat) : State :=
  let key := rawKey rkRawTx inst number
  match getRing s key with
  | some r =>
    match r.posted with
    | d :: t =>
      if !instActive s inst then s
      else
        rawFinish (modRing s key fun r => { r with cons := r.cons + 1, posted := t, rawOut := r.rawOut ++ [rawOutOf r.cons (parseRaw d)] })
          inst number r.cons st
    | [] => s
  | none => s

/-- The data that a peer's READ asks for cannot be read: R428 has the message fail with the status, and the failure takes the course of R321's access
failures, a receive completion and NAK ACCESS (DEDUCED; log entry 113). -/
def failReadData (s : State) (i st : Nat) : State :=
  match (getQp s i).bind (·.respQ.head?) with
  | some (psn, msn, _) => rxError s i msn st 2 psn
  | none => s

def readFailed (s : State) (f : ReadFor) (st : Nat) : State :=
  match f with
  | .workRequest i => failWr s i st
  | .command r tag opcode => failCmd s r tag opcode st
  | .message id => failMsg s id st
  | .rawTransmit inst number => failRaw s inst number st
  | .readData i => failReadData s i st

/-- PCIE_READ_COMPLETION (R428): Unsupported Request or Completer Abort. -/
def execPcieReadCompletion (f : ReadFor) (s : State) : Host.Outcome State Fault Refusal := goOnKeep s (readFailed s f stNotPermitted)

/-- PCIE_COMPLETION_TIMEOUT (R428). -/
def execPcieCompletionTimeout (f : ReadFor) (s : State) : Host.Outcome State Fault Refusal := goOnKeep s (readFailed s f stTimeout)

end Sys2Proof.Machine
end

