-- ==== Sys2Proof/Machine/ArrayCmds.lean ====
section
/-! DEFINITION. The array's commands: firing, routing, crossings, link parity, UCIe retries and starved joins (R98-R125, R143-R175, R509). -/

namespace Sys2Proof.Machine

open Sys2Proof

/-- Is the die of a core up? -/
def coreUp (s : State) (core : Nat) : Bool := core < 20480 && s.dieUp.getLsbD (dieOf core)

/-- OPERATION_FIRE (R98-R125): one engine cycle of a core. -/
def execOperationFire (core : Nat) (s : State) : Host.Outcome State Fault Refusal :=
  goOnKeep s (if coreUp s core then engineCycle s core false else s)

/-- ROUTER_PASS (R109, R146-R150): one router cycle of a core. -/
def execRouterPass (core : Nat) (s : State) : Host.Outcome State Fault Refusal :=
  goOnKeep s (if coreUp s core then routeCore (settleCluster s (cycleOf s)) core (cycleOf s) else s)

/-- CROSSING_TRANSFER (R156, R550): the crossing into a core's queue in a direction, for each shelf, at a latency of 12 to 14 cycles. -/
def execCrossingTransfer (core dir latency : Nat) (s : State) : Host.Outcome State Fault Refusal :=
  goOnKeep s (match linkEnd core dir with
    | .cross g =>
      if coreUp s core && coreUp s g then
        (List.range 4).foldl (fun s k => crossShelf s core dir k (latency + xingDelay s (dieOf core) (dieOf g)) (cycleOf s)) s
      else s
    | _ => s)

-- ------------------------------------------------------------------ link parity (R174, R509)

/-- How many tokens arrive on a link into a shelf's queue in this cycle. -/
def arrivingIn (s : State) (core dir shelf : Nat) : Nat :=
  let t := cycleOf s
  let q := settleQ t (getQ s core dir shelf)
  if q.lastIn.1 = t then min q.lastIn.2 q.toks.length else 0

/-- A token that arrives on a link into a queue in this cycle is discarded; its slot is free again as R147 states. Of two that arrive together the
row names neither: which of them it is is a free value (log entry 2). -/
def dropArriving (s : State) (core dir shelf : Nat) : State :=
  let t := cycleOf s
  let q := settleQ t (getQ s core dir shelf)
  let n := arrivingIn s core dir shelf
  if n = 0 then s
  else
    let (v, s) := if n = 1 then (0, s) else drawNat s
    modQ s core dir shelf fun _ => { removeToks q [q.toks.length - n + v % n] t with lastIn := (t, n - 1) }

/-- ARR_PARITY_LOC (R175), with the shelf that the failed tag shows. -/
def parityLoc (core dir tag : Nat) : Nat :=
  core + dir * 2 ^ 15 + tag * 2 ^ 17 + (match linkEnd core dir with | .cross _ => 2 ^ 19 | .io => 2 ^ 20 | .core _ => 0) + 2 ^ 31

/-- The channel a link fault counts against (R517): the module that carries a crossing or I/O link, else the receiving core's cluster. -/
def linkChan (core dir : Nat) : Channel :=
  match moduleOf core dir with | some (l, m) => moduleChan l m | none => clusterChan (clusterOf core)

/-- LINK_PARITY_FAIL (R174, R509): a word that arrives in this cycle for a shelf of the core is discarded from that shelf's queue and recorded with the
shelf that its tag shows, which may be another where it is the tag that failed; every unit that uses the link into the core is concerned. Where no word
arrives there, none can fail. -/
def execLinkParityFail (core dir : Nat) (shelf : WordShelf) (s : State) : Host.Outcome State Fault Refusal :=
  goOnKeep s (if coreUp s core && 0 < arrivingIn s core dir shelf.queue then
      let s := regAdd (dropArriving s core dir shelf.queue) arrParityCount 1
      let s := if regBit s arrParityLoc 31 then s else regPut s arrParityLoc (parityLoc core dir shelf.tag)
      let s := regOr s arrEvent 2
      arrayFault s 3 [linkChan core dir] (unitsOnLink s core dir) shelf.tag 0
    else s)

-- ------------------------------------------------------------------ UCIe retries (R158)

/-- The two dies of a ring link, in the order of ARR_XING_RETRY. -/
def ringDies (link : Nat) : Nat × Nat := match link with | 0 => (0, 1) | 1 => (1, 3) | 2 => (3, 2) | _ => (2, 0)

/-- Does a crossing queue lie on a ring link? -/
def onRing (link key : Nat) : Bool :=
  match linkEnd (key / 16) (key / 4 % 4) with
  | .cross g => ringDies link = (dieOf (key / 16), dieOf g) || ringDies link = (dieOf g, dieOf (key / 16))
  | _ => false

/-- UCIE_RETRY (R158): counted; every token in flight on the ring link arrives up to 32 cycles late. -/
def execUcieRetry (link delay : Nat) (s : State) : Host.Outcome State Fault Refusal :=
  goOnKeep s (if link < 4 ∧ s.dieUp.getLsbD (ringDies link).1 ∧ s.dieUp.getLsbD (ringDies link).2 then
      let n := regBits s arrXingRetry (8 * link + 7) (8 * link)
      let s := regPut s arrXingRetry (putBits (regRaw s arrXingRetry) (8 * link + 7) (8 * link) (min 255 (n + 1)))
      { s with xfifos := s.xfifos.map fun x =>
          if onRing link x.1 then (x.1, { x.2 with late := x.2.late ++ [(cycleOf s, min 32 delay)] }) else x }
    else s)

-- ------------------------------------------------------------------ starved joins (R171-R173, R208, R214)

/-- ARR_STARVE_LOC (R175). -/
def starveLoc (s : State) (core shelf entry : Nat) : Nat :=
  let f := opDecode (tgetD (getCs s core shelf).ops entry 0)
  core + shelf * 2 ^ 15 + entry * 2 ^ 17 + b2n (markMismatch s core shelf f) * 2 ^ 25 + 2 ^ 31

/-- The unit drains as under COOL with the default bound, to EMPTY; a unit already COOLING keeps its bound. Where a COOL was taken in the same FAB
cycle, the expiry starts the drain and COOL completes with STATE_CONFLICT (R172, R208, R214). -/
def wdogDrain (s : State) (ui : Nat) (u : MUnit) : State :=
  if u.st = .fired then startDrain s ui (drainBound s 0) false none true
  else if u.swap.isNone && u.drain.any (fun d => decide (d.began / fabCycle = s.now / fabCycle) && d.cmd.isSome && !d.wdog) then
    finishCmd? (startDrain s ui (drainBound s 0) false none true) (u.drain.bind (·.cmd)) stStateConflict []
  else modUnit s ui fun u => { u with drain := u.drain.map fun d => { d with toBisque := false, wdog := true } }

/-- The expiry of a join's count (R172): recorded and reported once per unit; the unit drains. -/
def starve (s : State) (ui : Nat) (u : MUnit) (core shelf entry : Nat) : State :=
  let loc := starveLoc s core shelf entry
  let s := if regBit s arrStarveLoc 31 then s else regPut s arrStarveLoc loc
  let s := regOr s arrEvent 1
  let s := modUnit s ui fun u => { u with starveCount := u.starveCount + 1 }
  if u.starveRaised then s
  else
    let s := modUnit s ui fun u => { u with starveRaised := true }
    let s := report s { code := evJoinStarved, origin := [ui], status := stJoinStarved, detail := [(0, 4, loc), (4, 2, ui)], owners := [u.owner] }
    match getUnit s ui with
    | some u => wdogDrain s ui u
    | none => s

/-- ARR_JOIN_WDOG as it applies in this cycle (R173). -/
def wdogNow (s : State) : Nat :=
  match s.wdogPrev with
  | some (c, v) => if c = cycleOf s then v else regBits s arrJoinWdog 20 0
  | none => regBits s arrJoinWdog 20 0

/-- JOIN_STARVED (R171, R172): a join of a FIRED or COOLING shelf whose condition has held for ARR_JOIN_WDOG cycles. The count goes on; it reaches
another value only when that is written. -/
def execJoinStarved (core shelf entry : Nat) (s : State) : Host.Outcome State Fault Refusal :=
  goOnKeep s (match tget s.joinSince (joinKey core shelf entry), unitAt s (clusterOf core) shelf with
    | some c, some (ui, u) =>
      let f := opDecode (tgetD (getCs s core shelf).ops entry 0)
      if coreUp s core && (u.st = .fired || u.st = .cooling) && u.scrub.isNone && !u.retired && !coreAside u core && isJoin f
          && joinHeld s core shelf f && c + wdogNow s ≤ cycleOf s + 1 && tget s.joinDone (joinKey core shelf entry) ≠ some (wdogNow s) then
        starve { s with joinDone := tset s.joinDone (joinKey core shelf entry) (wdogNow s) } ui u core shelf entry
      else s
    | _, _ => s)

end Sys2Proof.Machine
end

