-- ==== Sys2Proof/Machine/Generation.lean ====
section
/-! DEFINITION. Generation (R239-R266): sequence messages taken at a round start, rounds, turns and RESULTs. -/

namespace Sys2Proof.Machine

open Sys2Proof

-- ------------------------------------------------------------------ sequence messages (R241, R243, R247, R249)

/-- The FIRED unit of a service (R239, R243). -/
def firedService (s : State) (k : Nat) : Option (Nat × MUnit) :=
  s.units.find? fun u => u.2.kind = 1 && u.2.st = .fired && !u.2.retired && serviceOf u.2 = k

/-- The unit a sequence message goes to (R243): the service's FIRED unit for an OPEN, else the one its handle names. -/
def seqUnit (s : State) (k : Nat) (h : SeqHdr) : Option (Nat × MUnit) :=
  if h.op = 1 then firedService s k
  else ((getUnit s (h.handle / 64)).filter fun u => u.kind = 1).map fun u => (h.handle / 64, u)

/-- TEMP: +0, or finite and positive, in BF16 (R245). -/
def tempOk (t : Nat) : Bool := t < 0x7F80

/-- Fields that R245 and R246 fix for an operation, and the message's length. -/
def seqFormed (h : SeqHdr) (len : Nat) : Bool :=
  h.magic = 0x6C53 && h.version = 1 && h.reserved = 0 && h.status = 0
  && (match h.op with
    | 1 => h.handle = 0 && h.count = 0 && h.keep = 0 && tempOk h.temp && h.flags = 0 && h.nin = 0 && len = 32
    | 2 => 1 ≤ h.count && h.count ≤ 2048 && h.seed = 0 && h.temp = 0 && h.flags = 0 && h.nin = 0 && len = 32 + 4 * h.count
    | 3 => 1 ≤ h.count && h.count ≤ 16 && h.seed = 0 && h.temp = 0 && h.flags < 2 && 1 ≤ h.nin && h.nin ≤ 32 && len = 32 + 4 * h.nin
    | 4 => h.count = 0 && h.keep = 0 && h.seed = 0 && h.temp = 0 && h.flags = 0 && h.nin = 0 && len = 32
    | _ => false)

/-- Input tokens of a message. -/
def seqInputs (h : SeqHdr) (d : Bytes) : List Nat :=
  match h.op with | 2 => seqTokens d h.count | 3 => seqTokens d h.nin | _ => []

/-- L after the request (R247). -/
def seqAfter (h : SeqHdr) : Nat := match h.op with | 2 => h.keep + h.count | 3 => h.keep + h.nin + h.count - 1 | _ => 0

/-- The lowest FREE slot of a unit. -/
def freeSlot (u : MUnit) : Option Nat :=
  lowestFrom (fun k => !(getSlot u k).opened) ((u.gen.map (·.slots)).getD 0) 0

/-- The conditions of R249, in the order of R11, given the unit the message goes to. -/
def seqChecks (qp : Nat) (q : Qp) (h : SeqHdr) (d : Bytes) (u : Option (Nat × MUnit)) : List (Bool × Nat) :=
  let named := 2 ≤ h.op && h.op ≤ 4
  let slot := (u.map fun u => getSlot u.2 (h.handle % 64)).getD {}
  let g := (u.bind (·.2.gen))
  [(named && u.any (fun u => u.2.owner ≠ q.owner), stNotPermitted),
   (named && slot.opened && slot.qp ≠ qp, stNotPermitted),
   (!seqFormed h d.length || (named && (!slot.opened || u.any fun u => u.2.retired)), stBadParam),
   (g.any (fun g => (seqInputs h d).any (g.vocab ≤ ·) || g.maxCtx < seqAfter h), stBadParam),
   (named && h.op ≠ 1 && (slot.len < h.keep || slot.req.isSome), stStateConflict),
   (h.op = 1 && (u.isNone || u.any fun u => (freeSlot u.2).isNone), stNoResource)]

/-- A refused message (R249): a RESULT with the status, and the slot unchanged. -/
def seqRefuse (s : State) (qp k : Nat) (h : SeqHdr) (u : Option (Nat × MUnit)) (st : Nat) : State :=
  let l := match u with
    | some u => let x := getSlot u.2 (h.handle % 64); if h.op ≠ 1 ∧ x.opened ∧ x.qp = qp then x.len else 0
    | none => 0
  let b := resultBytes h.handle h.reqId l st true []
  let s := countService s k 8 1
  match u with
  | some u => queueResult s u.1 qp s.now none b
  | none => sendResult s qp b

/-- What an accepted message does to its slot (R247). -/
def seqApply (s : State) (qp k ui : Nat) (u : MUnit) (h : SeqHdr) (d : Bytes) : State :=
  match h.op with
  | 1 =>
    let n := (freeSlot u).getD 0
    let s := countService (countService s k 4 1) k 12 1
    let s := modSlot s ui n fun l =>
      { l with opened := true, qp := qp, len := 0, seed := BitVec.ofNat 64 h.seed, temp := BitVec.ofNat 16 h.temp, req := none, closing := false }
    queueResult s ui qp s.now none (resultBytes (handleOf ui n) h.reqId 0 stOK true [])
  | 4 =>
    let s := countService (closeSlot s ui (h.handle % 64)) k 5 1
    queueResult s ui qp s.now none (resultBytes h.handle h.reqId 0 stOK true [])
  | op =>
    let s := countService s k (if op = 2 then 6 else 7) 1
    let r : GenReq :=
      { op := op, reqId := h.reqId, taken := true, keep := h.keep, toIngest := seqInputs h d, count := if op = 3 then h.count else 0,
        stream := bit h.flags 0 }
    modSlot s ui (h.handle % 64) fun l => { l with len := h.keep, hist := l.hist.take h.keep, req := some r }

/-- May a waiting message be taken now (R251)? At a round start of the unit it goes to, unless it came in that very cycle (R265); at once where no
round will come. -/
def seqReady (s : State) (k : Nat) (x : Nat × Bytes) : Bool :=
  match seqUnit s k (parseSeq x.2) with
  | none => true
  | some (_, u) => !roundsRun u || (roundDue s u && x.1 < cycleOf s)

/-- Takes the first of the sequence messages waiting on an attached queue pair that may be taken now (R241, R251). -/
def seqTake (s : State) (qp op : Nat) : State :=
  match getQp s qp with
  | none => s
  | some q =>
    match q.service with
    | none => s
    | some k =>
      match q.seqIn.find? (seqReady s k) with
      | none => s
      | some x =>
        let h := parseSeq x.2
        if h.op ≠ op ∧ 1 ≤ h.op ∧ h.op ≤ 4 then s
        else
          let u := seqUnit s k h
          let s := modQp s qp fun q => { q with seqIn := q.seqIn.erase x }
          match firstFail (seqChecks qp q h x.2 u), u with
          | some st, u => seqRefuse s qp k h u st
          | none, some (ui, v) => seqApply s qp k ui v h x.2
          | none, none => s

/-- SEQ_OPEN (R243, R247, R249). -/
def execSeqOpen (qp : Nat) (s : State) : Host.Outcome State Fault Refusal := goOnKeep s (seqTake s qp 1)

/-- SEQ_APPEND (R247, R249). -/
def execSeqAppend (qp : Nat) (s : State) : Host.Outcome State Fault Refusal := goOnKeep s (seqTake s qp 2)

/-- SEQ_DRAFT (R247, R249). -/
def execSeqDraft (qp : Nat) (s : State) : Host.Outcome State Fault Refusal := goOnKeep s (seqTake s qp 3)

/-- SEQ_CLOSE (R247, R249). -/
def execSeqClose (qp : Nat) (s : State) : Host.Outcome State Fault Refusal := goOnKeep s (seqTake s qp 4)

-- ------------------------------------------------------------------ rounds (R250-R253, R264, R265)

/-- A SWAP that waits for the round start (R264): the old unit enters COOLING, the new one becomes FIRED; where another unit blocks that by then
or the two share a cluster (R190, R239, R262), it ends with STATE_CONFLICT (DEDUCED; log entry 98). -/
def swapAtRound (s : State) (ui : Nat) (u : MUnit) : State :=
  match u.swap with
  | some w =>
    if w.atRound then
      let s := modUnit s ui fun u => { u with swap := none }
      match getUnit s w.newUnit with
      | some v =>
        if v.st = .bisque ∧ v.scrub = none ∧ v.retired = false ∧ v.kind = 1 ∧ v.arm = none ∧ u.st = .fired ∧ v.owner = u.owner
            ∧ serviceOf v = serviceOf u ∧ u.clusters.any v.clusters.contains = false ∧ fireBlocked s w.newUnit v (some ui) = false then
          let s := modUnit s ui fun u => { u with swap := some { w with atRound := false, cmd := none, entry := some (cycleOf s) } }
          fireUnit (startDrain s ui w.bound false w.cmd false) w.newUnit
        else finishCmd? s w.cmd stStateConflict []
      | none => finishCmd? s w.cmd stStateConflict []
    else s
  | none => s

/-- Must a slot close at this round start (R242, R265): its queue pair was detached, failed or went away? -/
def slotCloses (s : State) (l : GenSlot) : Bool :=
  l.opened && (l.closing || match getQp s l.qp with | some q => q.st = .error || q.st = .reset | none => true)

/-- No RESULT of a slot's pending request is sent any more that is not handed to the transport (R242, R265). -/
def dropResults (s : State) (ui k : Nat) (l : GenSlot) : State :=
  match l.req with
  | none => s
  | some r => { s with results := s.results.filter fun x => !(x.1 = ui && x.2.slot = some k && be x.2.data 8 4 = r.reqId) }

/-- Closes the slots that must close: pending requests are dropped without a RESULT. -/
def closeDue (s : State) (ui : Nat) (u : MUnit) : State :=
  (u.slots.filter fun l => slotCloses s l.2).foldl (fun s l => closeSlot (dropResults s ui l.1 l.2) ui l.1) s

/-- The largest KV length after its turn among a round's working turns, or zero. -/
def roundMax (ts : List GenTurn) : Nat := ((ts.filter fun t => t.tokens ≠ []).map fun t => t.base + t.tokens.length).foldl max 0

/-- A round starts: every slot's turn is fixed, and with them the period (R251, R253). -/
def fixTurns (s : State) (ui : Nat) (u : MUnit) (g : GenParams) : State :=
  let c := cycleOf s
  let ts := (List.range g.slots).map fun k => planTurn u g c k (getSlot u k)
  let p := roundPeriod u g (roundMax ts)
  let slots := (List.range g.slots).foldl (fun t k => tmodD t k {} fun l => { l with next := ts[k]? }) u.slots
  let s := modUnit s ui fun u => { u with slots := slots, roundStart := some c, roundLen := p.1, lastChat := p.2 }
  setService (setService (countService s (serviceOf u) 0 1) (serviceOf u) 13 p.1) (serviceOf u) 14 p.2

/-- GEN_ROUND_START (R250, R251, R253, R264, R265). -/
def execGenRoundStart (unit : Nat) (s : State) : Host.Outcome State Fault Refusal :=
  goOnKeep s (match getUnit s unit with
    | some u =>
      if roundDue s u && u.scrub.isNone then
        let s := closeDue (swapAtRound s unit u) unit u
        match getUnit s unit with
        | some u => (match u.gen with | some g => fixTurns s unit u g | none => s)
        | none => s
      else s
    | none => s)

-- ------------------------------------------------------------------ turns (R251, R252, R260, R261)

/-- The turn as it starts: a fed token is the one drafted before; a slot without its request has an idle turn. -/
def startedTurn (u : MUnit) (g : GenParams) (l : GenSlot) (t : GenTurn) : GenTurn :=
  let idle : GenTurn := { t with tokens := [], sampling := false, feed := false, done := t.start + g.latBase }
  match l.req with
  | none => idle
  | some r =>
    if t.tokens = [] then idle
    else
      let ts := if t.feed then [(r.drafted.getLast?.getD 0).toNat % 2 ^ 32] else t.tokens
      { t with tokens := ts, base := l.len, done := t.start + lambda u g (l.len + ts.length) ts.length }

/-- GEN_TURN_START (R250, R251, R260): the turn's tokens enter, and its exit token is awaited. An idle turn is over with its tokens: its LAT_BASE may
reach beyond the round's end, and it holds up no later turn. -/
def execGenTurnStart (unit slot : Nat) (s : State) : Host.Outcome State Fault Refusal :=
  goOnKeep s (match getUnit s unit with
    | some u =>
      (match u.gen, (getSlot u slot).next with
       | some g, some t =>
         if t.start ≤ cycleOf s && u.scrub.isNone && !u.retired && (getSlot u slot).turn.isNone then
           let l := getSlot u slot
           let t := startedTurn u g l t
           let n := t.tokens.length
           let s := placeTurn s u slot l t
           let s := if n = 0 then s else countService s (serviceOf u) 1 1
           let s := if n = 0 then s else countService s (serviceOf u) 11 (t.base + n - g.onCtx)
           let s := modUnit s unit fun u =>
             { u with awaits := tmodD u.awaits 0 [] fun a => a ++ [if t.sampling then slot else slot + 64] }
           modSlot s unit slot fun l =>
             { l with next := none, turn := if n = 0 then none else some t, req := l.req.map fun r => if t.feed then r else { r with toIngest := r.toIngest.drop n } }
         else s
       | _, _ => s)
    | none => s)

/-- A RESULT with a request's tokens at the turn's completion time (R248). -/
def turnResult (s : State) (ui k : Nat) (l : GenSlot) (r : GenReq) (t : GenTurn) (st : Nat) (final : Bool) (recs : List DWord) : State :=
  queueResult s ui l.qp (t.done * coreCycle) (some k) (resultBytes (handleOf ui k) r.reqId l.len st final recs)

/-- A turn that samples nothing has ended: its tokens are ingested, and an APPEND's last turn answers it. -/
def turnIngested (s : State) (ui k : Nat) (l : GenSlot) (t : GenTurn) : State :=
  match l.req with
  | none => s
  | some r =>
    if r.op = 2 ∧ r.toIngest = [] then
      modSlot (turnResult s ui k l r t stOK true []) ui k fun l => { l with req := none }
    else s

/-- The fault of R261: the exit token is missing or its id is out of range. -/
def exitFault (s : State) (ui : Nat) (u : MUnit) : State :=
  report s (faultReport 8 0 0 0xFF 0 ui (u.shelves.headD 0xFF) 0 0 [u.owner])

/-- A sampling turn fails: the request ends with a status and what was drafted; the slot stays as it stands (R261). -/
def turnFailed (s : State) (ui k : Nat) (u : MUnit) (l : GenSlot) (t : GenTurn) (st : Nat) : State :=
  let s := if st = stTimeout then countService s (serviceOf u) 10 1 else s
  let s := match l.req with
    | some r => turnResult s ui k l r t st true (if r.stream then [] else r.drafted)
    | none => s
  exitFault (modSlot s ui k fun l => { l with req := none }) ui u

/-- A sampling turn gives its token (R247, R248). -/
def turnSampled (s : State) (ui k : Nat) (u : MUnit) (l : GenSlot) (t : GenTurn) (w : DWord) : State :=
  match l.req with
  | none => s
  | some r =>
    let ds := r.drafted ++ [w]
    let final := r.count ≤ ds.length
    let s := countService s (serviceOf u) 3 1
    let s := if r.stream then turnResult s ui k l r t stOK final [w]
      else if final then turnResult s ui k l r t stOK true ds
      else s
    modSlot s ui k fun l => { l with req := if final then none else some { r with drafted := ds } }

/-- GEN_TURN_COMPLETE (R247, R248, R252, R261): at the turn's completion cycle. -/
def turnComplete (s : State) (ui k : Nat) (u : MUnit) (g : GenParams) (t : GenTurn) : State :=
  let n := t.tokens.length
  let tok := turnExit u k (t.done * coreCycle)
  let s := modUnit s ui fun u => if t.sampling then spendTurn u k else u
  let l := getSlot u k
  let hist := l.hist.take t.base ++ t.tokens
  let grow := fun s => countService (storeKv (modSlot s ui k fun l => { l with len := t.base + n, hist := hist }) u g k t.base hist) (serviceOf u) 2 n
  let s := modSlot s ui k fun l => { l with turn := none }
  if n = 0 then s
  else if t.sampling then
    match tok with
    | some w =>
      if w.kind ≠ .data then turnFailed s ui k u l t stTimeout
      else if g.vocab ≤ w.payload.toNat % 2 ^ 32 then turnFailed s ui k u l t stBadParam
      else turnSampled (grow s) ui k u { l with len := t.base + n } t w.payload
    | none => turnFailed s ui k u l t stTimeout
  else turnIngested (grow s) ui k { l with len := t.base + n } t

def execGenTurnComplete (unit slot : Nat) (s : State) : Host.Outcome State Fault Refusal :=
  goOnKeep s (match getUnit s unit with
    | some u =>
      (match u.gen, (getSlot u slot).turn with
       | some g, some t => if t.done ≤ cycleOf s && !u.retired && u.scrub.isNone then turnComplete s unit slot u g t else s
       | _, _ => s)
    | none => s)

-- ------------------------------------------------------------------ RESULTs (R248)

/-- May a queue pair start a message now (R335)? -/
def creditFor (s : State) (qp : Nat) : Bool :=
  match getQp s qp with | some q => q.st ≠ .rts || seqGe q.credit q.nextMsn | none => true

/-- The first RESULT of a unit whose 500 ns have passed; it waits for credit. -/
def dueResult (s : State) (unit : Nat) : Option (Nat × GenResult) :=
  s.results.find? fun r => r.1 = unit && r.2.at_ ≤ s.now && creditFor s r.2.qp

/-- GEN_RESULT_SEND (R248): it is handed to the transport. -/
def execGenResultSend (unit : Nat) (s : State) : Host.Outcome State Fault Refusal :=
  goOnKeep s (match dueResult s unit with
    | some r => sendResult { s with results := s.results.erase r } r.2.qp r.2.data
    | none => s)

end Sys2Proof.Machine
end

