-- ==== Sys2Proof/Machine/Ports.lean ====
section
/-! DEFINITION. Ports: received pause and the pause sent (R371-R375), transmit selection (R67, R68, R85, R306, R379-R381, R386, R387) and
what a frame's departure does (R65, R96, R412, R418-R420, R450, R547), gate entries and takeovers (R382, R384), low-power idle (R69,
R377, R378), links (R355, R381, R414), telemetry (R390, R391) and timestamp records (R418-R421). -/

namespace Sys2Proof.Machine

open Sys2Proof

-- ------------------------------------------------------------------ frames that wait for a consumer

/-- May a consumer take a waiting frame: it goes there, it is released (R368), and no verdict on it is awaited (R42)? -/
def mayTake (s : State) (sel : Dest → Bool) (f : RxFrame) : Bool := f.dest.any sel && f.readyAt ≤ s.now && !frameHeld s f

/-- The oldest waiting frame that a destination may take. -/
def waiting (s : State) (p : Nat) (sel : Dest → Bool) : Option RxFrame := (getPort s p).inbox.find? (mayTake s sel)

/-- Its consumer takes it. -/
def takeWaiting (s : State) (p : Nat) (sel : Dest → Bool) : State :=
  modPort s p fun q => { q with inbox := q.inbox.eraseP (mayTake s sel) }

/-- A frame of kinds 1-3 of R362, or a probe, is consumed: its reservation ends. -/
def consume (s : State) (p : Nat) (d : Dest) (f : RxFrame) : State := freeKept (takeWaiting s p fun x => x = d) p f

/-- When the last byte of a received frame came. -/
def frameEndAt (f : RxFrame) : Nat := f.t0 + rxLen f * f.perByte

-- ------------------------------------------------------------------ received pause (R371, R372, R375, R306)

/-- REPLY_PRIO and STORM_IGNORE of MAC_p_FC. -/
def replyPrio (s : State) (p : Nat) : Nat := regBits s (macFc p) 13 11
def stormIgnore (s : State) (p : Nat) : Bool := regBit s (macFc p) 10
def storming (s : State) (p c : Nat) : Bool := regBit s (macFcStatus p) (8 + c)

/-- What is held, timed and marked with a class: under PAUSE all of them, under PFC the reply queue (8) with REPLY_PRIO. -/
def pauseGroup (s : State) (p c : Nat) : List Nat :=
  if fcMode s p = 1 then List.range 9 else if replyPrio s p = c then [c, 8] else [c]

/-- The classes a PAUSE or PFC frame names in the present mode, with their times in quanta; under PFC, those with PFC_EN. -/
def pauseTimes (s : State) (p : Nat) (f : Bytes) : List (Nat × Nat) :=
  let o := l3Off f
  if fcMode s p = 1 ∧ be f o 2 = 1 then [(0, be f (o + 2) 2)]
  else if fcMode s p = 2 ∧ be f o 2 = 0x101 then
    (List.range 8).filterMap fun c =>
      if bit (be f (o + 2) 2) c && pfcEn s p c then some (c, be f (o + 4 + 2 * c) 2) else none
  else []

/-- Is the frame a PAUSE or a PFC frame? -/
def isPause (f : Bytes) : Bool := be f (l3Off f) 2 = 1 || be f (l3Off f) 2 = 0x101

/-- One class's pause acts, or is ignored while its class is storming (R375). -/
def pauseClass (s : State) (p at_ : Nat) (x : Nat × Nat) : State :=
  if stormIgnore s p && storming s p x.1 then regAdd s (macPauseIgnored p) 1
  else (pauseGroup s p x.1).foldl (fun s c => applyPause s p c at_ x.2) s

/-- Would the pause stop ARM_TC on a port with armature windows (R306)? -/
def stopsArm (s : State) (p : Nat) (x : Nat × Nat) : Bool :=
  armWins s p ≠ [] && x.2 ≠ 0 && (pauseGroup s p x.1).contains (regBits s armTc 2 0)

/-- A MAC control frame acts (R371, R372); only PAUSE and PFC frames mean something to the adapter. -/
def pauseActs (s : State) (p : Nat) (f : RxFrame) : State :=
  if !isPause f.data then s
  else
    let s := regAdd s (macRxPause p) 1
    if fcMode s p = 0 then regAdd s (macPauseIgnored p) 1
    else
      let ts := pauseTimes s p f.data
      let s := if ts.any (stopsArm s p) then regAdd s armPauseIgnored 1 else s
      ts.foldl (fun s x => pauseClass s p (frameEndAt f) x) s

/-- Ends a hold. -/
def endHold (s : State) (p c : Nat) : State := modPort s p fun q => { q with hold := tdel q.hold c, heldSince := tdel q.heldSince c }

/-- Has a class been held without a break for FC_WDOG (R375)? -/
def wdogDue (s : State) (p c : Nat) : Bool :=
  c < 8 && held s p c && tgetD (getPort s p).heldSince c s.now + regBits s (macFcWdog p) 23 0 * usec ≤ s.now

/-- The watchdog of a class ends its hold (R375). -/
def stormOf (s : State) (p c : Nat) : State :=
  if wdogDue s p c then
    let g := pauseGroup s p c
    let s := g.foldl (fun s c => endHold s p c) s
    let s := regOr (regOr s (macFcStatus p) (((g.filter (· < 8)).map fun c => 2 ^ (8 + c)).sum)) (macEvent p) 2
    report s { code := evPauseStorm, origin := [p, c], detail := [(0, 1, p), (1, 1, c)] }
  else s

/-- PAUSE_RECEIVE (R362, R371, R372): a watchdog that expires in the same cycle is handled first (R392). -/
def execPauseReceive (port : Nat) (s : State) : Host.Outcome State Fault Refusal :=
  goOnKeep s (match waiting s port fun d => d = .mac with
    | some f => pauseActs ((List.range 8).foldl (fun s c => stormOf s port c) (consume s port .mac f)) port f
    | none => s)

/-- PAUSE_EXPIRE (R372). -/
def execPauseExpire (port cls : Nat) (s : State) : Host.Outcome State Fault Refusal :=
  goOnKeep s (match tget (getPort s port).hold cls with
    | some t => if t ≤ s.now then (pauseGroup s port cls).foldl (fun s c => endHold s port c) s else s
    | none => s)

/-- FC_WDOG_EXPIRE (R375). -/
def execFcWdogExpire (port cls : Nat) (s : State) : Host.Outcome State Fault Refusal := goOnKeep s (stormOf s port cls)

-- ------------------------------------------------------------------ the pause sent (R374)

/-- PFC_REFRESH (R374): half of the pause time has passed and the occupancy is above XON. -/
def execPfcRefresh (port cls : Nat) (s : State) : Host.Outcome State Fault Refusal :=
  goOnKeep s (
    let k := xoffKey s port cls
    let quanta := regBits s (macFcQuanta port) 15 0
    match tget (getPort s port).xoffAt k with
    | some t =>
      if fcSends s port cls && t + quanta * 64 * portByteTime s port / 2 ≤ s.now && xonBytes s port < occOf s port cls then
        modPort (sendPause s port cls quanta) port fun q => { q with xoffAt := tset q.xoffAt k s.now }
      else s
    | none => s)

/-- XON_SEND (R374): the occupancy is below XON. -/
def execXonSend (port cls : Nat) (s : State) : Host.Outcome State Fault Refusal :=
  goOnKeep s (if fcSends s port cls && xoffOn s port cls && occOf s port cls < xonBytes s port then
    modPort (sendPause s port cls 0) port fun q => { q with xoffAt := tdel q.xoffAt (xoffKey s port cls) }
  else s)

-- ------------------------------------------------------------------ a frame leaves

/-- A record that is not written is counted (R420). -/
def tsDropped (s : State) (p inst : Nat) : State :=
  modPort (regOr (regAdd s (timRecDrop + 4 * p) 1) timEvent 32) p fun q =>
    { q with tsGap := tmodD q.tsGap inst 0 fun v => min 0xFFFFFFFF (v + 1) }

/-- A record for a port's timestamp FIFO, or a drop (R420). -/
def tsRecordDue (s : State) (p : Nat) (f : TxFrame) (t16 : Nat) : State :=
  if (getPort s p).fifo.length < 1024 then
    let r : TsRecord := { inst := f.inst, time := t16, holdover := s.tb.st = .holdover, cookie := f.cookie }
    modPort s p fun q => { q with fifo := q.fifo ++ [r] }
  else tsDropped s p f.inst

/-- Counters of a message's binding. -/
def countFrame (s : State) (f : TxFrame) (k : Nat) : State :=
  match f.msg.bind (getMsg s) with | some m => countMsg s m k 1 | none => s

/-- A reply's first bit leaves (R65, R96). -/
def replyLeaves (s : State) (f : TxFrame) : State :=
  let s := countFrame s f 8
  match f.msg with
  | some id =>
    let s := match getMsg s id with | some m => if m.provisional then countFrame s f 9 else s | none => s
    modMsg s id fun m => { m with reply := m.reply.map fun r => { r with left := true } }
  | none => s

/-- What a frame's departure does besides, by its kind. That of a QP's own data packet is its send time (R339); a READ_RESP has the peer's PSN. -/
def leaveKind (s : State) (p : Nat) (f : TxFrame) (t16 : Nat) : State :=
  match f.kind with
  | .reply => replyLeaves (countPort s p 4 1) f
  | .rescind => countFrame (countPort s p 5 1) f 11
  | .followup => countFrame s f 12
  | .control => regAdd s (macTxPause p) 1
  | .raw => rawFinish (if f.tsRecord then tsRecordDue s p f t16 else s) f.inst f.rawQueue f.sqIndex stOK
  | .wgt =>
    match f.qp with
    | some i =>
      let op := byteAt f.data (wgtOff f.data + 1)
      if pktIsData op && op ≠ 4 then
        modQp s i fun q => { q with outPkts := q.outPkts.map fun x => if x.psn = f.psn then { x with sentAt := s.now } else x }
      else s
    | none => s
  | _ => s

/-- A frame goes out with its FCS (R367). In NEAR and FAR loopback it is received by the same port and the line carries nothing (R546, R547); the
error of its capture is a free value within the bound of R413 (log entry 2). -/
def putOnLine (s : State) (p : Nat) (bytes : Bytes) : State :=
  if portLoop s p = 1 ∨ portLoop s p = 2 then
    if portReceives s p && (getPort s p).rx.isNone then
      let (err, s) := drawInt s
      startFrame s p bytes (frameFcs bytes) true err
    else s
  else emit s (.wire p s.now (withFcs bytes))

/-- A frame starts: its time is taken and inserted (R412, R416), it is counted, and the port is busy until the next frame boundary. -/
def depart (s : State) (p : Nat) (f : TxFrame) : State :=
  let (t16, s) := txStamp s p
  let bytes := frameOut s p f t16
  let until_ := s.now + wireTime s p bytes.length
  let s := modPort s p fun q => { q with txBusyUntil := until_, wakeAt := none }
  let s := leaveKind (countPort (countPort s p 2 1) p 3 (bytes.length + 4)) p f t16
  putOnLine s p bytes

-- ------------------------------------------------------------------ transmit selection (R379, R380)

/-- The time a queued frame is in transmission: from its first bit to the end of its FCS. -/
def queuedTime (s : State) (p : Nat) (f : TxFrame) : Nat := lineTime s p (outLen f)

/-- The same with the gap and the preamble of the frame after it, which R67 counts too. -/
def guardTime (s : State) (p : Nat) (f : TxFrame) : Nat := wireTime s p (outLen f)

/-- Is the port at a frame boundary: able to send, nothing in transmission, not in low-power idle or waking (R378, R379)? -/
def atBoundary (s : State) (p : Nat) : Bool :=
  let q := getPort s p
  portExists s p && portReady s p && txOpen s p && regBit s (macCtrl p) 0 && q.txBusyUntil ≤ s.now && !q.lpiTx && q.wakeAt.all (fun t => decide (t ≤ s.now))
  && (portLoop s p = 0 || q.rx.isNone)

/-- The frames of the reply queue that have been handed to the MAC by now (R76, R85). -/
def handed (s : State) (p : Nat) : List TxFrame := (getPort s p).replyQ.filter fun f => f.queuedAt ≤ s.now

/-- The reply queue's head, if it may start: its transmit stage is over, flow control does not hold it, unless it is a RESCIND, and no
armature window comes in its way (R68, R85, R371, R373). -/
def replyHead (s : State) (p : Nat) : Option TxFrame :=
  match handed s p with
  | f :: _ => if f.ready ≤ s.now && (isRescind f || !held s p 8) && clearOfWindows s p (queuedTime s p f) then some f else none
  | [] => none

/-- When a message's reply is due on a port that keeps clear for it (R67): from its window end until its verdict turns out not to be a
reply. One that is held for its checks was due at the time of R77; one that is handed over, or about to be, is due when its transmit stage
ends. -/
def guardDue (s : State) (p : Nat) (id : Nat) (m : Message) : Option Nat :=
  match m.binding, windowEnd m with
  | some k, some t =>
    if k.replyGuard = 1 && replyPortOf m k = p && t ≤ s.now then
      if !m.acted then (if !m.finished && m.unjudged.isNone && !m.dropped then replyDue m else none)
      else if m.heldAs ≠ [] then replyDue m
      else
        match m.making.find? fun x => !x.followup with
        | some x => some (replyStart s p (composeFrame m (x.compose 0 0 0 0)).length x.at_)
        | none => ((getPort s p).replyQ.find? fun f => f.kind = .reply && f.msg = some id).map (·.ready)
    else none
  | _, _ => none

/-- R67: no frame of tc0-tc7 runs into a reply that is due. -/
def clearOfReplies (s : State) (p dur : Nat) : Bool :=
  let u := foreseen s
  u.msgs.all fun m => match guardDue u p m.1 m.2 with | some t => t ≤ s.now || s.now + dur ≤ t | none => true

/-- May class c start its head frame (R306, R379, R380, R384, R387)? Time messages are not shaped (R386). -/
def classMay (s : State) (p c : Nat) (f : TxFrame) : Bool :=
  let pt := getPort s p
  let dur := queuedTime s p f
  let t := netNs s
  (c ≠ regBits s armTc 2 0 || armWins s p = []) && f.ready ≤ s.now
  && gateOpen pt (stretchNs s p) c t && gateFits pt (stretchNs s p) c 4096 t (ceilDiv (net600 s + dur) 600)
  && !held s p c && (f.kind = .ptp || bucketPermits s (classBucket p c false)) && clearOfWindows s p dur && clearOfReplies s p (guardTime s p f)

/-- Does a frame fit in no open interval of the list in force (R380, R551)? -/
def neverFits (s : State) (p c : Nat) (f : TxFrame) : Bool :=
  match longestOpen (getPort s p).oper c with
  | some n => (if n = 0 then 0 else n + stretchNs s p) * 600 < queuedTime s p f
  | none => false

/-- Discards head frames that fit nowhere (R380). The number bounds them. -/
def pruneClass (p c : Nat) : Nat → State → State
  | 0, s => s
  | n + 1, s =>
    match tcQueue (getPort s p) c with
    | f :: t =>
      if f.queuedAt ≤ s.now && neverFits s p c f then
        pruneClass p c n (rawUnsent (regOr (regAdd (unqueue s p fun q => { q with txQ := tset q.txQ c t }) (gateOversize p) 1) (gateEvent p) 2) f)
      else s
    | [] => s

def pruneHeads (s : State) (p : Nat) : State := (List.range 8).foldl (fun s c => pruneClass p c (tcQueue (getPort s p) c).length s) s

/-- The first eligible class, tc7 first. -/
def classHead (s : State) (p : Nat) : Option (Nat × TxFrame) :=
  [7, 6, 5, 4, 3, 2, 1, 0].findSome? fun c =>
    match tcQueue (getPort s p) c with
    | f :: _ => if f.queuedAt ≤ s.now && classMay s p c f then some (c, f) else none
    | [] => none

/-- The MAC starts the first eligible frame (R379). -/
def selectFrame (s : State) (p : Nat) : State :=
  let q := getPort s p
  match q.ctrlQ.head?.filter fun f => clearOfWindows s p (queuedTime s p f) with
  | some f => depart (unqueue s p fun q => { q with ctrlQ := q.ctrlQ.drop 1 }) p f
  | none =>
    match replyHead s p with
    | some f => depart (unqueue s p fun q => { q with replyQ := q.replyQ.erase f }) p f
    | none =>
      match classHead s p with
      | some (c, f) =>
        let s := if f.kind = .ptp then s else bucketCharge s (classBucket p c false) (wireBytes (outLen f))
        depart (unqueue s p fun q => { q with txQ := tmodD q.txQ c [] (·.drop 1) }) p f
      | none => s

/-- TRANSMIT_SELECT (R379, R380, R373). -/
def execTransmitSelect (port : Nat) (s : State) : Host.Outcome State Fault Refusal :=
  goOn s (
    let s := handOver s s.now
    if atBoundary s port then selectFrame (pruneHeads (settleRescinds s port) port) port else s)

-- ------------------------------------------------------------------ gate lists (R382, R384)

/-- GATE_ENTRY_CHANGE (R382, R551): the gate engine sets the states of the present instant. -/
def execGateEntryChange (port : Nat) (s : State) : Host.Outcome State Fault Refusal :=
  goOnKeep s (if portExists s port && ready s rdyTim then modPort s port fun q => { q with gates := gateWord s port } else s)

/-- GATE_TAKEOVER (R383, R384): at BASE. -/
def execGateTakeover (port : Nat) (s : State) : Host.Outcome State Fault Refusal :=
  goOnKeep s (match (getPort s port).pendGate with
    | some (_, t) => if t ≤ netNs s then takeOver s port else s
    | none => s)

-- ------------------------------------------------------------------ low-power idle (R69, R377, R378)

/-- Is a port the reply port of a binding on a FIRED shelf (R69)? -/
def isReplyPort (s : State) (p : Nat) : Bool :=
  (tvals s.units).any fun u => u.st = .fired && !u.retired && u.bindings.any fun k =>
    if k.replyPort = 255 then bit k.ports p else k.replyPort = p

/-- The negotiated wake time in ns. -/
def wakeNs (s : State) (p : Nat) : Nat := regBits s (macLpiWake p) 15 0

/-- Does an armature window open within a time in ns? -/
def windowWithin (s : State) (p ns : Nat) : Bool :=
  (armWins s p).any fun w => winOpen w (netNs s) || winNext w (netNs s) ≤ netNs s + ns

/-- LPI_ENTER (R69, R377); rx: the peer signals low-power idle, which STATUS.LPI_RX shows and nothing else (R393). -/
def execLpiEnter (side : LpiSide) (s : State) : Host.Outcome State Fault Refusal :=
  goOnKeep s (
    let port := side.port
    let q := getPort s port
    if side.rx then (if portExists s port && q.linkUp then modPort s port fun q => { q with lpiRx := true } else s)
    else if portExists s port && q.linkUp && regBit s (macLpi port) 0 && regBit s (macLpiWake port) 16 && !q.lpiTx && queuedFrames q = []
        && q.txBusyUntil ≤ s.now && q.wakeAt.all (fun t => decide (t ≤ s.now)) && q.idleSince + regBits s (macLpi port) 31 16 * usec ≤ s.now
        && !isReplyPort s port && !windowWithin s port (wakeNs s port + Config.lpiEntryNs) then
      modPort s port fun q => { q with lpiTx := true, wakeAt := none }
    else s)

/-- LPI_WAKE (R378): a frame is queued, or a window opens within TW_NS; rx: the peer's low-power idle ends. -/
def execLpiWake (side : LpiSide) (s : State) : Host.Outcome State Fault Refusal :=
  goOnKeep s (
    let port := side.port
    let q := getPort s port
    if side.rx then modPort s port fun q => { q with lpiRx := false }
    else if q.lpiTx && (queuedFrames q ≠ [] || windowWithin s port (wakeNs s port)) then
      modPort s port fun q => { q with lpiTx := false, wakeAt := some (s.now + wakeNs s port * nsec) }
    else s)

-- ------------------------------------------------------------------ links (R355, R356, R381, R403, R414)

/-- LINK_DOWN (R381). A master heard on the port stays selected until R403 ends that. -/
def execLinkDown (port : Nat) (s : State) : Host.Outcome State Fault Refusal := goOnKeep s (portDown s port)

/-- LINK_UP (R355, R357, R414): the port trains on the widest group of its healthy lanes; not once the IOD is lost (R31). -/
def execLinkUp (port : Nat) (s : State) : Host.Outcome State Fault Refusal :=
  goOnKeep s (
    let n := trainLanes s port
    if portExists s port && portReady s port && !(getPort s port).linkUp && n ≠ 0 && !s.iodLost then
      regOr (modPort s port fun q =>
        { q with linkUp := true, lanes := n, txBusyUntil := s.now, idleSince := s.now, lpiTx := false, wakeAt := none }) (macEvent port) 1
    else s)

-- ------------------------------------------------------------------ records of 32 and 128 bytes (R391, R419)

/-- The next record of a ring whose entries have another size than 64 bytes; the phase bit is in the last byte (R390, R418, R437). -/
def pushSized (s : State) (key size : Nat) (bytes : Bytes) : State :=
  match getRing s key with
  | none => s
  | some r =>
    let b := overlay (sliceZ bytes 0 size) (size - 1) [BitVec.ofNat 8 (phaseOf r)]
    let addr := r.base + size * (r.prod.toNat % r.entries)
    let link := ringLink s r
    let s :=
      if r.splitPhase then
        hostWrite (hostWrite s r.owner link addr (b.take (size - 1))) r.owner link (addr + size - 1) (b.drop (size - 1))
      else hostWrite s r.owner link addr b
    raiseIfDue (modRing s key (ringWritten s.now)) key

/-- One telemetry record (R390). -/
def telemetryRec (s : State) (p gap : Nat) : Bytes :=
  let q := getPort s p
  let queue := fun (l : List TxFrame) =>
    let l := l.filter fun f => f.queuedAt ≤ s.now
    (queueBytes l, match l.head? with | some f => min 0xFFFFFFFF ((s.now - f.queuedAt) / nsec) | none => 0)
  let qs := (List.range 8).map (fun c => queue (tcQueue q c)) ++ [queue q.replyQ]
  record 128 ([(0, 8, reportNs s), (8, 1, p),
      (9, 1, b2n (gap ≠ 0) + 2 * b2n q.linkUp + 4 * b2n q.lpiTx + 8 * b2n q.oper.en),
      (0xA, 1, ((List.range 8).map fun c => b2n (held s p c) * 2 ^ c).sum),
      (0xB, 1, ((List.range 8).map fun c => b2n (xoffOn s p c) * 2 ^ c).sum), (0xC, 4, gap)]
    ++ (List.range 9).flatMap (fun i => let x := qs.getD i (0, 0); [(0x10 + 8 * i, 4, x.1), (0x14 + 8 * i, 4, x.2)])
    ++ (List.range 8).map fun c => (0x58 + 4 * c, 4, tgetD q.occupancy c 0))

/-- A sample of one port: written, or dropped and counted (R391). -/
def samplePort (s : State) (p : Nat) : State :=
  let key := ringKey rkTlm 0
  if (getRing s key).any ringRoom then { pushSized s key 128 (telemetryRec s p s.tlmGap) with tlmGap := 0 }
  else regOr (regAdd { s with tlmGap := s.tlmGap + 1 } shpTlmDropped 1) shpEvent 2

/-- TELEMETRY_SAMPLE (R390): at a whole multiple of 1 000 ns of network time. -/
def execTelemetrySample (s : State) : Host.Outcome State Fault Refusal :=
  goOnKeep s (if s.tlmOn && netNs s % 1000 = 0 then ((portsOf s).filter fun p => bit s.tlmMask p).foldl samplePort s else s)

/-- One timestamp record (R418). -/
def tsRec (p : Nat) (r : TsRecord) (gap : Nat) (stepped : Bool) : Bytes :=
  record 32 [(0, 6, secsOf r.time), (6, 4, nsOf r.time), (0xA, 2, fracOf r.time), (0xC, 1, p),
    (0xD, 1, b2n (gap ≠ 0) + 2 * b2n stepped + 4 * b2n r.holdover), (0x10, 8, r.cookie.toNat), (0x18, 4, gap)]

/-- Has the timestamp ring of a record's instance room? -/
def tsRoom (s : State) (r : TsRecord) : Bool := (getRing s (ringKey rkTs r.inst)).any ringRoom

/-- A record is written (R418, R420). -/
def tsWrite (s : State) (p : Nat) (r : TsRecord) : State :=
  let q := getPort s p
  let b := tsRec p r (tgetD q.tsGap r.inst 0) (tgetD q.tsStepped r.inst false)
  modPort (pushSized s (ringKey rkTs r.inst) 32 b) p fun q =>
    { q with tsGap := tdel q.tsGap r.inst, tsStepped := tdel q.tsStepped r.inst, drainAt := s.now + 2 * fabCycle }

/-- The FIFO of a port gives up what stands at its head: records whose ring has no slot at once, and one that has, not before its time (R419). -/
def tsDrain (p : Nat) : List TsRecord → State → State
  | [], s => s
  | r :: t, s =>
    if tsRoom s r then
      if (getPort s p).drainAt ≤ s.now then tsWrite (modPort s p fun q => { q with fifo := t }) p r else s
    else tsDrain p t (tsDropped (modPort s p fun q => { q with fifo := t }) p r.inst)

/-- TS_RECORD_DRAIN (R419, R420): 1 record per 2 FAB cycles. -/
def execTsRecordDrain (port : Nat) (s : State) : Host.Outcome State Fault Refusal :=
  goOnKeep s (tsDrain port (getPort s port).fifo s)

end Sys2Proof.Machine
end

