-- ==== Sys2Proof/Machine/Armature.lean ====
section
/-! DEFINITION. The armature as it runs (R273-R293, R298-R309): period starts, feeds, bundles sent and received, deadlines, collection
and the loss of time. -/

namespace Sys2Proof.Machine

open Sys2Proof

-- ------------------------------------------------------------------ times and roles

/-- T_k in ns (R273). -/
def periodAt (p : Plan) (k : Nat) : Nat := p.epoch + k * periodNs p

/-- A beat of a period in ns. -/
def beatAt (p : Plan) (k b : Nat) : Nat := periodAt p k + b * p.beat

def findStream (p : Plan) (n : Nat) : Option Stream := p.streams.find? (·.num = n)

def streamRun (a : Armature) (t : Nat) : StreamRun := tgetD a.streams t {}

def modShard (s : State) (n h : Nat) (f : ShardRun → ShardRun) : State :=
  modArm s n fun a => { a with shards := tmodD a.shards h {} f }
def modStream (s : State) (n t : Nat) (f : StreamRun → StreamRun) : State :=
  modArm s n fun a => { a with streams := tmodD a.streams t {} f }

/-- Does this member send a shard's bundles and write its results: a primary not demoted, or a promoted standby (R270, R297, R301)? -/
def speaks (a : Armature) (h : Shard) : Bool :=
  if h.primary = a.member then !(shardRun a h.num).demoted else h.standby = a.member && (shardRun a h.num).promoted

/-- Does this member receive a bundle stream now (R283, R301)? -/
def hears (a : Armature) (t : Stream) : Bool :=
  t.kind = 0 && (isLocalShard a.plan a.member t.dst || observes a t)

/-- A shard's unit while it runs for its armature (R269). -/
def shardUnit (s : State) (n : Nat) (h : Shard) : Option MUnit :=
  (getUnit s h.unit).filter fun u => u.st = .fired && !u.retired && u.arm = some n

/-- A report of an armature to its owner and the manager (R455). -/
def armReport (s : State) (a : Armature) (code status : Nat) (origin : List Nat) (detail : List (Nat × Nat × Nat)) : State :=
  report s { code := code, origin := origin, status := status, detail := detail, owners := [a.owner] }

-- ------------------------------------------------------------------ token groups (R276)

/-- A group's KINDS word. -/
def kindsWord (ts : List (TokKind × DWord)) : Nat :=
  ((List.range 8).map fun i => kindCode (ts.getD i (.void, 0)).1 * 4 ^ i).sum

/-- Groups as bytes: network order on the wire, little-endian in memory. -/
def groupBytes (wire : Bool) (g : Nat) (ts : List (TokKind × DWord)) : Bytes :=
  let put := if wire then toBe else toLe
  (List.range g).flatMap fun i =>
    let x := (ts.drop (8 * i)).take 8
    put 2 (kindsWord x) ++ (List.range 8).flatMap fun j => put 8 (x.getD j (.void, 0)).2.toNat

/-- Groups read from bytes at an offset. -/
def readGroups (wire : Bool) (b : Bytes) (off g : Nat) : List (TokKind × DWord) :=
  let get := fun (o n : Nat) => if wire then be b o n else le b o n
  (List.range g).flatMap fun i =>
    let o := off + 66 * i
    (List.range 8).map fun j => (kindOf (get o 2 / 4 ^ j % 4), BitVec.ofNat 64 (get (o + 2 + 8 * j) 8))

-- ------------------------------------------------------------------ period starts (R298, R299, R301, R304, R308)

/-- Exit tokens of a shard's unit that no collect beat took are discarded and counted (R292). -/
def discardExits (s : State) (n : Nat) (h : Shard) : State :=
  match (getUnit s h.unit).filter fun u => u.arm = some n with
  | none => s
  | some u =>
    modShard (modUnit s h.unit fun u => { u with exits := [] }) n h.num fun x =>
      { x with lateTokens := x.lateTokens + ((tvals u.exits).map (·.length)).sum }

/-- What is left of the shards' records where an armature does not run: the counts. -/
def restingShards (a : Armature) : Table ShardRun := a.shards.map fun x => (x.1, { lateTokens := x.2.lateTokens })

/-- An armature leaves RUNNING at a period start (R299): its units enter COOLING, back to BISQUE. -/
def stopArm (s : State) (n : Nat) (a : Armature) : State :=
  let s := (localShards a.plan a.member).foldl (fun s h => discardExits s n h) s
  let s := (armUnits s n).foldl (fun s u =>
    if u.2.st = .fired && !u.2.retired then startDrain s u.1 (drainBound s 0) true none false else s) s
  armDrained (modArm s n fun a =>
    let old := a.stopping.getD ([], false)
    { a with st := .idle, streams := [], shards := restingShards a, timeLost := false, stopAt := [],
             stopping := some (old.1 ++ a.stopAt.filterMap (·.2), old.2) }) n

/-- Exit tokens that came after the collect beat: the shard is mute in the next period (R292). -/
def dropLate (s : State) (n k : Nat) (h : Shard) : State :=
  if (getUnit s h.unit).any fun u => u.arm = some n && u.exits.any fun x => x.2 ≠ [] then
    modShard (discardExits s n h) n h.num fun x => { x with muteUntil := some k }
  else s

/-- A pending promotion or demotion of a shard takes place (R297, R301); a standby whose unit does not run is not promoted (R308). -/
def changeRole (s : State) (n k : Nat) (h : Shard) : State :=
  match getArm s n with
  | none => s
  | some a =>
    let x := shardRun a h.num
    let s := if x.pendDemote then modShard s n h.num fun x => { x with demoted := true, pendDemote := false } else s
    if x.pendPromote && (shardUnit s n h).isSome && !x.promoted then
      let s := modShard s n h.num fun x => { x with promoted := true, pendPromote := false }
      armReport (regOr s armEvent 4) a evPromoted stOK [n, h.num] [(0, 1, n), (2, 2, h.num), (8, 8, k)]
    else modShard s n h.num fun x => { x with pendPromote := false }

/-- Period k begins in a running armature. -/
def nextPeriod (s : State) (n k : Nat) (a : Armature) : State :=
  let hs := localShards a.plan a.member
  let s := hs.foldl (fun s h => changeRole (dropLate s n k h) n k h) s
  modArm s n fun a =>
    { a with period := k, streams := a.streams.map fun x =>
        (x.1, { x.2 with rx := x.2.rx.filter fun r => k ≤ r.1, feed := x.2.feed.filter fun r => k ≤ r.1, out := none }) }

/-- Would a cluster carry two units FIRED or COOLING if the units of an armature fired now (R190, R262)? -/
def armBlocked (s : State) (n : Nat) : Bool :=
  (armUnits s n).any fun u => !u.2.retired && s.units.any fun x =>
    x.1 ≠ u.1 && (x.2.st = .fired || x.2.st = .cooling || (x.2.arm = some n && !x.2.retired)) && x.2.clusters.any u.2.clusters.contains

/-- T_K of an ARMED armature (R298). Where another unit is FIRED or COOLING on a cluster of its units, which R190 and R262 exclude, it returns to IDLE
and ARM_START completes with STATE_CONFLICT (DEDUCED; log entry 114). -/
def armBegin (s : State) (n : Nat) (a : Armature) : State :=
  if timeOk s a && armBlocked s n then
    finishCmd? (modArm s n fun a => { a with st := .idle, startCmd := none, streams := [] }) a.startCmd stStateConflict []
  else if timeOk s a then
    let s := (localShards a.plan a.member).foldl (fun s h => discardExits s n h) s
    let s := (armUnits s n).foldl (fun s u => if u.2.st = .bisque && u.2.scrub.isNone && !u.2.retired then fireUnit s u.1 else s) s
    let s := modArm s n fun a => { a with st := .running, period := a.startK, startCmd := none, timeLost := false, shards := restingShards a }
    finishCmd? s a.startCmd stOK []
  else finishCmd? (modArm s n fun a => { a with st := .idle, startCmd := none, streams := [] }) a.startCmd stTimeLost []

/-- Does the armature stop at the start of period k (R297, R304)? -/
def stopsAt (a : Armature) (k : Nat) : Bool := a.timeLost || a.stopAt.any fun x => x.1 ≤ k

/-- ARM_PERIOD_START (R298, R299, R301, R304, R308). -/
def execArmPeriodStart (slot : Nat) (s : State) : Host.Outcome State Fault Refusal :=
  goOnKeep s (match getArm s slot with
    | some a =>
      match a.st with
      | .idle => s
      | .armed => if periodAt a.plan a.startK ≤ netNs s then armBegin s slot a else s
      | .running =>
        if periodAt a.plan (a.period + 1) ≤ netNs s then
          if stopsAt a (a.period + 1) then stopArm s slot a else nextPeriod s slot (a.period + 1) a
        else s
    | none => s)

/-- ARM_TIME_LOST (R303, R304): the time condition ceases to hold. -/
def execArmTimeLost (slot : Nat) (s : State) : Host.Outcome State Fault Refusal :=
  goOnKeep s (match getArm s slot with
    | some a =>
      if a.st = .running && !timeOk s a && !a.timeLost then
        let s := regOr (modArm s slot fun a => { a with timeLost := true }) armEvent 2
        armReport s a evTimeLost stTimeLost [slot] [(0, 1, slot), (8, 8, a.period)]
      else s
    | none => s)

-- ------------------------------------------------------------------ feeds (R278, R279)

/-- The period whose feed slot is read next, if its time has come: T_(k-1). -/
def feedPeriod (s : State) (a : Armature) (t : Stream) : Option Nat :=
  let r := streamRun a t.num
  let unread := fun k => !(r.feed.any fun x => x.1 = k) && r.done ≠ some k
  let k := match a.st with
    | .running => if unread a.period then a.period else a.period + 1
    | _ => a.startK
  if a.st ≠ .idle && unread k && (k = 0 || periodAt a.plan (k - 1) ≤ netNs s) then some k else none

/-- ARM_FEED_READ (R278, R279): the slot as it was read; a wrong head, or a read that completes after the stream's consume beat began, gives no
tokens. -/
def execArmFeedRead (slot stream : Nat) (data : Bytes) (s : State) : Host.Outcome State Fault Refusal :=
  goOnKeep s (match getArm s slot with
    | some a =>
      match findStream a.plan stream with
      | some t =>
        if t.kind = 1 && isLocalShard a.plan a.member t.dst then
          match feedPeriod s a t with
          | some k =>
            let ok := le data 0 8 = k && le data 8 2 = t.groups && net600 s ≤ beatAt a.plan k t.consumeBeat * 600
            modStream s slot stream fun r => { r with feed := r.feed ++ [(k, if ok then readGroups false data 16 t.groups else [])] }
          | none => s
        else s
      | none => s
    | none => s)

-- ------------------------------------------------------------------ bundles sent (R281, R282, R285, R301, R306)

/-- A bundle's frame (R281, R282). -/
def bundleFrame (s : State) (a : Armature) (t : Stream) (port k : Nat) (taint standby : Bool) (ts : List (TokKind × DWord)) : Bytes :=
  let p := a.plan
  let head := toBe 6 t.groupMac.toNat ++ toBe 6 (Config.portMac port) ++ toBe 2 0x8100
    ++ toBe 2 (regBits s armTc 2 0 * 8192 + regBits s (macArmVlan port) 11 0) ++ toBe 2 (regBits s armEthertype 15 0)
  let body := toBe 2 0x6C41 ++ toBe 1 1 ++ toBe 1 (b2n taint + 2 * b2n standby + 4 * b2n p.cipher) ++ toBe 2 p.armId ++ toBe 2 t.num
    ++ toBe 2 a.member ++ toBe 8 k ++ toBe 4 t.sendBeat ++ toBe 2 t.groups ++ toBe 8 0
  let pay := groupBytes true t.groups ts
  if p.cipher then
    head ++ body ++ gcmSeal a.key (BitVec.ofNat 96 (t.num * 2 ^ 80 + a.member * 2 ^ 64 + k)) body pay
  else head ++ body ++ pay ++ toBe 4 (crc32c (body ++ pay)).toNat

/-- Bytes of a bundle's frame without the FCS. -/
def bundleLen (a : Armature) (t : Stream) : Nat := 50 + 66 * t.groups + (if a.plan.cipher then 16 else 4)

/-- May a bundle leave now: within 2 ns of its window's opening, and over before the window ends (R285, R392)? -/
def inWindow (s : State) (a : Armature) (t : Stream) (port : Nat) : Bool :=
  let w := (periodAt a.plan a.period + openNs a.plan t + armShift s port) * 600
  w ≤ net600 s && net600 s ≤ w + 1200 && net600 s + wireTime s port (bundleLen a t) ≤ w + t.windowNs * 600

/-- Can a port carry a bundle now? -/
def bundlePort (s : State) (p : Nat) : Bool :=
  let q := getPort s p
  portExists s p && q.linkUp && regBit s (macCtrl p) 0 && q.txBusyUntil ≤ s.now && !q.lpiTx && q.wakeAt.all fun t => decide (t ≤ s.now)

/-- A local output of a period carried TAINT (R472). -/
def countTaint (s : State) (n k : Nat) : State :=
  modArm s n fun a => if a.taintSeen = some k then a else { a with taintSeen := some k, taintedPeriods := a.taintedPeriods + 1 }

/-- ARM_BUNDLE_SEND (R281, R285, R292, R301, R306). -/
def execArmBundleSend (slot stream : Nat) (s : State) : Host.Outcome State Fault Refusal :=
  goOn s (match getArm s slot with
    | some a =>
      match findStream a.plan stream, (findStream a.plan stream).bind (windowPort a),
            (findStream a.plan stream).bind (fun t => findShard a.plan t.src), (streamRun a stream).out with
      | some t, some p, some h, some (k, ts) =>
        let x := shardRun a h.num
        if a.st = .running && k = a.period && speaks a h && x.muteUntil ≠ some k && (streamRun a stream).sentPeriod ≠ some k
            && (shardUnit s slot h).isSome && inWindow s a t p && bundlePort s p then
          let s := modStream s slot stream fun r => { r with sentPeriod := some k }
          let d := bundleFrame s a t p k (x.tainted = some k) (h.standby = a.member) ts
          let s := if x.tainted = some k then countTaint s slot k else s
          depart (countPort s p 6 1) p { kind := .bundle, data := d, inst := a.owner, queuedAt := s.now }
        else s
      | _, _, _, _ => s
    | none => s)

-- ------------------------------------------------------------------ bundles received (R283, R284, R288, R300)

/-- A bundle's payload, if the frame's checks pass: its fields (R281), its length, and its CRC32C or tag (R282). -/
def bundleCheck (a : Armature) (t : Stream) (f : Bytes) : Option (List (TokKind × DWord)) :=
  let src := be f 26 2
  let n := 66 * t.groups
  let fieldsOk := f.length = bundleLen a t && be f 18 2 = 0x6C41 && byteAt f 20 = 1 && byteAt f 21 < 8
    && bit (byteAt f 21) 2 = a.plan.cipher && be f 36 4 = t.sendBeat && be f 40 2 = t.groups && zeroAt f 42 8
    && (findShard a.plan t.src).any fun h => src = h.primary || src = h.standby
  if !fieldsOk then none
  else if a.plan.cipher then
    let nonce := BitVec.ofNat 96 (t.num * 2 ^ 80 + src * 2 ^ 64 + be f 28 8)
    let pay := gcmOpen a.key nonce (slice f 50 n)
    if gcmSeal a.key nonce (slice f 18 32) pay = f.drop 50 then some (readGroups true pay 0 t.groups) else none
  else if (crc32c (slice f 18 (32 + n))).toNat = be f (50 + n) 4 then some (readGroups true f 50 t.groups)
  else none

/-- The armature and stream a bundle frame belongs to (R283). -/
def bundleOwner (s : State) (f : Bytes) : Option (Nat × Armature × Stream) :=
  s.arms.findSome? fun a =>
    if a.2.st ≠ .idle && a.2.plan.armId = be f 22 2 then
      ((findStream a.2.plan (be f 24 2)).filter (hears a.2)).map fun t => (a.1, a.2, t)
    else none

/-- When a bundle's checks are ready, in network time in 1/600 ns (R286, R288). -/
def checkReady (s : State) (a : Armature) (f : RxFrame) : Int :=
  (net600 s : Int) - ((s.now : Int) - frameEndAt f) + (if a.plan.cipher then 24 else 6) * 600

/-- A bundle that R283 accepts: late, a second copy, or kept with its margin (R284, R288, R300). -/
def acceptBundle (s : State) (n : Nat) (a : Armature) (t : Stream) (f : RxFrame) (ts : List (TokKind × DWord)) : State :=
  let k := be f.data 28 8
  let r := streamRun a t.num
  let deadline : Int := (beatAt a.plan k t.consumeBeat * 600 : Nat)
  let ready := checkReady s a f
  if deadline ≤ ready || r.done = some k then regAdd s armLateArrivals 1
  else
    let s := regPut s armMarginMin (min (regRaw s armMarginMin) ((deadline - ready).toNat / 600))
    if r.rx.any (fun x => x.1 = k) then regAdd s armDupCount 1
    else modStream s n t.num fun r => { r with rx := r.rx ++ [(k, ts, bit (byteAt f.data 21) 0, ready.toNat)] }

/-- ARM_BUNDLE_RECEIVE (R283, R284, R288, R300). -/
def execArmBundleReceive (port : Nat) (s : State) : Host.Outcome State Fault Refusal :=
  goOnKeep s (match waiting s port fun d => d = .armature with
    | none => s
    | some f =>
      let s := takeWaiting s port fun d => d = .armature
      match bundleOwner s f.data with
      | none => regAdd s armStray 1
      | some (n, a, t) =>
        let k : Int := (be f.data 28 8 : Nat)
        match bundleCheck a t f.data with
        | some ts =>
          if k = curPeriod s a.plan ∨ k = curPeriod s a.plan + 1 then acceptBundle (countPort s port 7 1) n a t f ts
          else regAdd s armStray 1
        | none => regAdd s armStray 1)

-- ------------------------------------------------------------------ deadlines and injection (R279, R289, R293, R300, R301)

/-- The period is tainted for a shard (R293). -/
def taintShard (s : State) (n h : Nat) : State :=
  modArm s n fun a => { a with shards := tmodD a.shards h {} fun x => { x with tainted := some a.period } }

/-- A stream's tokens enter its destination shard's unit from the next core cycle on, two a cycle (R277, R289). -/
def injectStream (s : State) (n : Nat) (a : Armature) (t : Stream) (ts : List (TokKind × DWord)) : State :=
  match (findShard a.plan t.dst).bind (shardUnit s n) with
  | none => s
  | some u =>
    match entryLink u t.dstLane 0 t.dstChan with
    | none => s
    | some e =>
      let c := cycleOf s + 1
      (List.range ts.length).foldl (fun s j =>
        let x := ts.getD j (.void, 0)
        let tok : Token := { payload := x.2, kind := x.1, chan := t.dstChan, shelf := u.shelves.headD 0 }
        modQ s e.core e.side tok.shelf fun q => { q with inflight := insDue (c + 1 + j / 2) tok q.inflight }) s

/-- VOID tokens in place of a stream (R279, R300). -/
def voidTokens (t : Stream) : List (TokKind × DWord) := List.replicate (8 * t.groups) (.void, 0)

/-- A stream without an on-time copy (R300, R301). -/
def lateStream (s : State) (n : Nat) (a : Armature) (t : Stream) : State :=
  let s := modStream (regAdd s armLateCount 1) n t.num fun r => { r with late := r.late + 1 }
  let s := if regBit s armLateLoc 31 then s
    else regPut (regPut s armLateLoc (2 ^ 31 + n * 65536 + t.num)) armLatePeriod (a.period % 2 ^ 32)
  let s := armReport (regOr s armEvent 1) a evLateBundle stLateBundle [n, t.num] [(0, 1, n), (2, 2, t.num), (8, 8, a.period)]
  if observes a t then modShard s n t.src fun x => { x with pendPromote := true } else s

/-- The tokens that a stream's destination takes at its deadline, and whether they taint the period. -/
def dueTokens (a : Armature) (t : Stream) : Option (List (TokKind × DWord) × Bool) :=
  let r := streamRun a t.num
  if t.kind = 0 then (r.rx.find? fun x => x.1 = a.period).map fun x => (x.2.1, x.2.2.1)
  else ((r.feed.find? fun x => x.1 = a.period).filter fun x => x.2 ≠ []).map fun x => (x.2, false)

/-- ARM_DEADLINE (R279, R289, R293, R300, R301). -/
def execArmDeadline (slot stream : Nat) (s : State) : Host.Outcome State Fault Refusal :=
  goOnKeep s (match getArm s slot with
    | some a =>
      match findStream a.plan stream with
      | some t =>
        let mine := isLocalShard a.plan a.member t.dst && t.kind ≠ 2
        if a.st = .running && (mine || hears a t) && beatAt a.plan a.period t.consumeBeat ≤ netNs s
            && (streamRun a stream).done ≠ some a.period then
          let due := dueTokens a t
          let s := modStream s slot stream fun r => { r with done := some a.period }
          let s := match due with
            | some _ => s
            | none => if t.kind = 0 then lateStream s slot a t else regOr (regAdd s armFeedLate 1) armEvent 8
          if mine then
            let s := if due.all (·.2) then taintShard s slot t.dst else s
            injectStream s slot a t (match due with | some x => x.1 | none => voidTokens t)
          else s
        else s
      | none => s
    | none => s)

-- ------------------------------------------------------------------ collection (R280, R290, R292, R293)

/-- When a shard's collect beat of the present period started, in the unit of State.now. -/
def collectAt (s : State) (a : Armature) (h : Shard) : Nat := s.now - (net600 s - beatAt a.plan a.period h.collectBeat * 600)

/-- Exit tokens of a stream that had reached the IOD by an instant: 4 ns after they left the array (R76). -/
def exitTokens (u : MUnit) (t : Stream) (cut : Nat) : List (TokKind × DWord) :=
  ((tgetD u.exits (t.srcLane * 4) []).filter fun x => x.1 + 4 * nsec ≤ cut && x.2.chan = t.srcChan).map fun x => (x.2.kind, x.2.payload)

/-- A RESULT slot is written: its groups, then its head (R280, R466). -/
def writeResult (s : State) (n : Nat) (a : Armature) (h : Shard) (t : Stream) (ts : List (TokKind × DWord)) : State :=
  match a.rings.find? fun r => r.1 = t.num with
  | none => s
  | some r =>
    let link := (getInst s a.owner).home
    if !linkUp s link then s
    else
      let addr := r.2.2 + a.period % (max 1 r.2.1) * roundUp (16 + 66 * t.groups) 64
      let taint := (shardRun a h.num).tainted = some a.period
      let head := record 16 [(0, 8, a.period), (8, 2, t.groups), (10, 1, if taint then stLateBundle else 0),
        (11, 1, b2n taint + 2 * b2n (h.standby = a.member))]
      let s := if taint then countTaint s n a.period else s
      hostWrite (hostWrite s a.owner link (addr + 16) (groupBytes false t.groups ts)) a.owner link addr head

/-- A shard's collect beat (R280, R292): of the tokens that had come when the beat started, bundles are composed and results written; later ones stay
for the period's end, which discards and counts them. A unit that does not run for the armature has none. -/
def collectShard (s : State) (n : Nat) (a : Armature) (h : Shard) (u : MUnit) : State :=
  let outs := a.plan.streams.filter fun t => t.kind ≠ 1 && t.src = h.num
  let cut := collectAt s a h
  let taken := fun (u : MUnit) => { u with exits := u.exits.map fun x => (x.1, x.2.filter fun y => cut < y.1 + 4 * nsec) }
  let good := outs.all fun t => (exitTokens u t cut).length = 8 * t.groups
  let s' := modShard s n h.num fun x => { x with collected := some a.period }
  let s' := if (shardUnit s n h).isSome then modUnit s' h.unit taken else s'
  if good then
    outs.foldl (fun s' t =>
      let ts := exitTokens u t cut
      if t.kind = 0 then modStream s' n t.num fun r => { r with out := some (a.period, ts) }
      else if speaks a h && (shardRun a h.num).muteUntil ≠ some a.period then writeResult s' n a h t ts
      else s') s'
  else
    armReport (regOr s' armEvent 16) a evShardFault stOK [n, h.num] [(0, 1, n), (2, 2, h.num), (8, 8, a.period)]

/-- ARM_COLLECT (R290, R292). A standby whose unit does not run is no standby any more (R308). -/
def execArmCollect (slot shard : Nat) (s : State) : Host.Outcome State Fault Refusal :=
  goOnKeep s (match getArm s slot with
    | some a =>
      match (localShards a.plan a.member).find? (·.num = shard) with
      | some h =>
        if a.st = .running && beatAt a.plan a.period h.collectBeat ≤ netNs s && (shardRun a shard).collected ≠ some a.period
            && (h.primary = a.member || (shardUnit s slot h).isSome) then
          collectShard s slot a h ((shardUnit s slot h).getD {})
        else s
      | none => s
    | none => s)

end Sys2Proof.Machine
end

