-- ==== Sys2Proof/Machine/Transport.lean ====
section
/-! DEFINITION. Wygor transport's steps (R310-R350): packets received, acknowledged and sent, timers, credit, peers. -/

namespace Sys2Proof.Machine

open Sys2Proof

-- ------------------------------------------------------------------ the packet at the head of a port's queue

def isTransport (d : Dest) : Bool := match d with | .transport _ => true | _ => false

/-- The opcode under which a waiting frame is handled; a stray frame goes with the data packets. -/
def headOp (s : State) (f : RxFrame) : Nat := if pktFormed s f.data && (parsePkt f.data).op < 0x12 then (parsePkt f.data).op else 0

/-- A frame of the transport leaves the receive buffer (R360, R364). -/
def takeFrame (s : State) (p : Nat) (f : RxFrame) : State := freeKept (takeWaiting s p isTransport) p f

/-- The oldest frame of a port for the transport, taken if its opcode is one of these: the frame, its instance and the state. -/
def headPkt (s : State) (p : Nat) (ops : List Nat) : Option (RxFrame × Nat × State) :=
  match waiting s p isTransport with
  | some f =>
    if ops.contains (headOp s f) then
      some (f, (match f.dest with | some (.transport n) => n | _ => 0), takeFrame s p f)
    else none
  | none => none

/-- Discards a packet (R313, R318). -/
def stray (s : State) : State := regAdd s wgtStray 1

/-- A packet that no QP accepts (R318): a data packet for the index's present QP (R317), of the instance it was steered to (R47), is
answered with NAK INVALID_QP where that QP is in RESET or ERROR. -/
def refusePkt (s : State) (inst : Nat) (k : Pkt) : State :=
  match (qpByNum s k.dst).filter fun x => x.2.owner = inst with
  | some (i, q) =>
    if pktIsData k.op && (q.st = .reset || q.st = .error) && q.ipv = ipVer k.frame && q.peerIp.toNat = ipSrc k.frame
        && q.peerQp = k.src then
      sendNak s i 4 k.psn k.msn
    else stray s
  | none => stray s

/-- The QP that accepts a packet (R47, R318). -/
def acceptingQp (s : State) (p inst : Nat) (k : Pkt) : Option (Nat × Qp) :=
  (qpByNum s k.dst).filter fun x => qpAccepts x.2 p k && x.2.owner = inst

/-- What every packet for a QP goes through: its CRC32C (R346) and its QP (R318). An accepted one is counted, and its peer heard (R347). -/
def withQp (s : State) (p inst : Nat) (k : Pkt) (act : Nat → Qp → State → State) : State :=
  if !k.crcOk then (if pktIsData k.op then regAdd s wgtRxCrcFail 1 else stray s)
  else
    match acceptingQp s p inst k with
    | none => refusePkt s inst k
    | some (i, q) => act i q (countInst (heardFrom s p q.ipv q.peerIp) q.owner 7 1)

-- ------------------------------------------------------------------ data packets received (R325-R328, R332-R334, R345)

/-- A − B for arrival and transmit time in ns, as R327 gives it: none where it does not fit. -/
def owdOf (f : RxFrame) (k : Pkt) : Option Int :=
  let m : Int := 2 ^ 32 * 1000000000
  let d : Int := ((f.capture / 65536 : Nat) : Int) - k.tx
  let d := (d + m / 2) % m - m / 2
  if -(2 ^ 31) < d ∧ d < 2 ^ 31 then some d else none

/-- Records as received those of n PSNs that are new (R325). -/
def markNew (q : Qp) (psn n : Nat) : Qp :=
  let new := ((List.range n).map (seqAdd psn)).filter fun x => seqGe x q.ePsn && !q.got.contains x
  advanceEpsn (q.got.length + n + 1) { q with got := q.got ++ new }

/-- What a packet that is kept adds to the counts of the next ACK (R326, R327, R342). -/
def noteRx (s : State) (f : RxFrame) (k : Pkt) (n : Nat) (q : Qp) : Qp :=
  { q with ceBytes := q.ceBytes + (if ipEcn f.data = 3 then n else 0), rxBytes := q.rxBytes + n, sinceAck := q.sinceAck + 1,
           unackedAt := some (q.unackedAt.getD s.now), echoPsn := k.psn, owd := owdOf f k, recvCount := q.recvCount + 1 }

/-- An ACK goes if one is due (R326). -/
def ackIfDue (s : State) (i : Nat) (ackReq outOfOrder : Bool) : State :=
  match getQp s i with
  | some q => if (q.st = .rtr || q.st = .rts) && ackDue s q ackReq outOfOrder then sendAck s i else s
  | none => s

/-- A message is refused for want of a buffer or a place (R332, R333): its packets are discarded and not acknowledged. The window moves past
them, as the message comes again under fresh PSNs (DEDUCED; log entry 29). -/
def refuseRnr (s : State) (i n : Nat) (k : Pkt) : State :=
  sendNak (modQp s i fun q =>
    { markNew q k.psn n with rnrMsgs := (q.rnrMsgs.filter (· ≠ k.msn)) ++ [k.msn],
                             rnrPsns := (q.rnrPsns.filter fun x => x.1 ≠ k.msn) ++ (List.range n).map fun j => (k.msn, seqAdd k.psn j),
                             rnrFirst := tset q.rnrFirst k.msn k.psn }) i 1 k.psn k.msn

/-- A later packet of a refused message is discarded with it. -/
def dropRnr (q : Qp) (k : Pkt) : Qp :=
  { markNew q k.psn 1 with rnrPsns := (q.rnrPsns.filter (· ≠ (k.msn, k.psn))) ++ [(k.msn, k.psn)] }

/-- A message that was refused comes again (R332): the packet is taken; under a fresh PSN, what was discarded before it has been given up
by the sender, and once its length is known so have the packets that never came. -/
def againAfterRnr (q : Qp) (k : Pkt) : Qp :=
  match tget q.rnrFirst k.msn with
  | none => q
  | some p0 =>
    let fresh := k.psn ≠ seqAdd p0 (k.aux / q.pmtu)
    let q := { q with rnrMsgs := q.rnrMsgs.filter (· ≠ k.msn),
                      rnrPsns := q.rnrPsns.filter fun x => x ≠ (k.msn, k.psn) && !(fresh && x.1 = k.msn && !seqGe x.2 k.psn) }
    if k.last then
      let q := { q with rnrFirst := tdel q.rnrFirst k.msn }
      if fresh then markNew q p0 (k.aux / q.pmtu + 1) else q
    else q

/-- A packet of an earlier sending of a message that has come again since (R332). -/
def staleRnr (r : Option RxMsg) (q : Qp) (k : Pkt) : Bool :=
  match r.bind (·.firstPsn) with
  | some p => k.op = 1 && k.psn ≠ seqAdd p (k.aux / q.pmtu)
  | none => false

/-- A tag fails (R82, R345): of a packet of a message on its way, of a READ's response, whose request completes with INTEGRITY (DEDUCED; log
entry 92), or of another packet. -/
def tagFails (s : State) (i : Nat) (k : Pkt) : State :=
  let count := fun s => regOr (regAdd s wgtTagFail 1) wgtEvent 2
  let mid := if k.op = 4 then respMsg s i k.msn else wgtMsg s i k.msn
  match mid.bind fun id => (getMsg s id).map fun m => (id, m) with
  | some (id, m) => checkFailedTag s id m k.psn
  | none => if k.op = 4 then respTagError (count s) i k.msn k.psn else rxError (count s) i k.msn stIntegrity 5 k.psn

/-- R321's malformed requests, for a packet of n payload bytes. -/
def dataBad (r : Option RxMsg) (k : Pkt) (n : Nat) : Bool :=
  r.any (fun r => r.opcode ≠ k.op) || (k.op = 2 && (2 ^ 31 < k.msgLen || k.msgLen = 0 || k.msgLen < k.aux + n))

/-- The entry of a message being received, and the receive buffers left: a SEND takes a buffer with its first packet to come. -/
def rxEntry (s : State) (q : Qp) (f : RxFrame) (k : Pkt) (mid : Option Nat) : Option (RxMsg × List RecvWr) :=
  let svc := serviceSpan q f.t0
  match tget q.rxMsgs k.msn with
  | some r => some ({ r with msgId := match r.msgId with | some x => some x | none => mid }, q.recvs)
  | none =>
    let waits := match mid.bind (getMsg s) with | some m => !placesNow m | none => false
    let r : RxMsg :=
      { opcode := k.op, remoteAddr := if k.op = 2 then k.remoteAddr else 0, rkey := if k.op = 2 then k.rkey else 0, msgId := mid,
        capture := f.capture, vlan := vlanField f.data, held := svc.isSome || waits, svc := svc, cls := f.cls }
    if k.op = 1 ∧ svc = none then
      match q.recvs with
      | [] => none
      | w :: t => some ({ r with wr := some w }, t)
    else some (r, q.recvs)

/-- A packet's payload is written to its place in memory at once (R325), unless the message waits for its verdict. -/
def placeData (s : State) (q : Qp) (r : RxMsg) (k : Pkt) (body : Bytes) : State :=
  if r.held then s else placeAt s q { r with rkey := k.rkey, remoteAddr := k.remoteAddr } k.aux body

/-- The message's record before a packet of it is placed: bytes for a link that is down are lost (R429). -/
def lossRx (s : State) (q : Qp) (r : RxMsg) (k : Pkt) (n : Nat) : RxMsg :=
  if r.held then r else { r with lost := r.lost || placeLost s q { r with rkey := k.rkey, remoteAddr := k.remoteAddr } k.aux n }

/-- The message's record after a packet of it. -/
def grownRx (r : RxMsg) (f : RxFrame) (k : Pkt) (body : Bytes) : RxMsg :=
  { r with firstPsn := if k.first then some k.psn else r.firstPsn, notify := r.notify || k.notify,
           total := if k.op = 2 then some k.msgLen else if k.last then some (k.aux + body.length) else r.total,
           got := r.got + body.length, data := if r.held then putBytes r.data k.aux body else r.data,
           capture := if k.first then f.capture else r.capture }

/-- Does a WRITE packet lack the right to its range (R321)? -/
def writeRefused (s : State) (q : Qp) (k : Pkt) : Bool :=
  k.op = 2 && (localAccess s q.owner k.rkey k.remoteAddr k.msgLen acRemoteWrite).1 = stNotPermitted

/-- Is a SEND packet beyond its receive buffer (R321)? -/
def sendTooLong (r : RxMsg) (k : Pkt) (n : Nat) : Bool := match r.wr with | some w => w.length < k.aux + n | none => false

/-- A new data packet in the window is taken (R321, R325, R332, R334). -/
def takeData (s : State) (i : Nat) (q : Qp) (f : RxFrame) (k : Pkt) : State :=
  let body := k.plain q.rxKey
  let n := body.length
  let svc := match tget q.rxMsgs k.msn with | some r => r.svc | none => serviceSpan q f.t0
  let mid := if svc.isSome then none else wgtMsg s i k.msn
  if dataBad (tget q.rxMsgs k.msn) k n then rxError s i k.msn stBadParam 3 k.psn
  else if svc.isNone && writeRefused s q k then rxError s i k.msn stNotPermitted 2 k.psn
  else if staleRnr (tget q.rxMsgs k.msn) q k then modQp s i fun q => markNew q k.psn 1
  else
    match rxEntry s q f k mid with
    | none => if k.first then refuseRnr s i 1 k else s
    | some (r, recvs) =>
      let s := modQp s i fun q => againAfterRnr { q with recvs := recvs, rxMsgs := tset q.rxMsgs k.msn r } k
      if sendTooLong r k n then rxError s i k.msn stNoResource 6 k.psn
      else
        let s := placeData s q r k body
        let s := modQp s i fun q => noteRx s f k n (markNew { q with rxMsgs := tset q.rxMsgs k.msn (grownRx (lossRx s q r k n) f k body) } k.psn 1)
        let s := match mid with | some id => chargeHeld s id | none => s
        ackIfDue (updateCredit (completeAll s i) i) i k.ackReq (k.psn ≠ q.ePsn)

/-- The READ that a READ_RESP packet answers, within its length (R314, R323). -/
def readFor (q : Qp) (k : Pkt) : Option SendWr :=
  (sendOfPsn q k.psn).filter fun w => w.opcode = 3 && w.msn = k.msn && k.aux + (k.plain q.rxKey).length ≤ w.length

/-- Do the responses of a READ wait for the verdict on their message (R42, R57)? -/
def respWaits (s : State) (i msn : Nat) : Bool :=
  match (respMsg s i msn).bind (getMsg s) with | some m => !placesNow m | none => false

/-- A new packet's decrypted payload is placed before its tag is checked (R344, R345). -/
def placeUnchecked (s : State) (i : Nat) (q : Qp) (f : RxFrame) (k : Pkt) : State :=
  let body := k.plain q.rxKey
  let new := seqSub k.psn q.ePsn < 256 && !q.got.contains k.psn
  if k.op = 4 then
    match readFor q k with
    | some w => if respWaits s i w.msn then s else placeRead s i q w k.aux body
    | none => s
  else if !new || dataBad (tget q.rxMsgs k.msn) k body.length || writeRefused s q k then s
  else
    match rxEntry s q f k (wgtMsg s i k.msn) with
    | some (r, recvs) =>
      let s := modQp s i fun q => { q with recvs := recvs, rxMsgs := tset q.rxMsgs k.msn r }
      if sendTooLong r k body.length then s else placeData s q r k body
    | none => s

/-- A data packet by its PSN (R325); one that was discarded for RNR has not been received (R332). -/
def byPsn (s : State) (i : Nat) (q : Qp) (f : RxFrame) (k : Pkt) (new : State → State) : State :=
  if !k.tagOk q.rxKey then tagFails (placeUnchecked s i q f k) i k
  else if q.rnrPsns.contains (k.msn, k.psn) then new s
  else if !seqGe k.psn q.ePsn || q.got.contains k.psn then
    sendAck (modQp (regAdd s wgtDupPkts 1) i fun q => { q with echoPsn := k.psn, owd := owdOf f k }) i
  else if 256 ≤ seqSub k.psn q.ePsn then regAdd s wgtOowPkts 1
  else new s

/-- WGT_DATA_RECEIVE (R325, R326, R328, R332, R345, R346): a SEND or WRITE packet, or a frame that is no packet. -/
def execWgtDataReceive (port : Nat) (s : State) : Host.Outcome State Fault Refusal :=
  goOnKeep s (match headPkt s port [0, 1, 2] with
    | none => s
    | some (f, inst, s) =>
      if headOp s f = 0 then stray s
      else
        let k := parsePkt f.data
        withQp s port inst k fun i q s =>
          byPsn s i q f k fun s =>
            if q.rnrMsgs.contains k.msn && !k.first then modQp s i fun q => dropRnr q k else takeData s i q f k)

/-- ACK_COAL_EXPIRE (R326). -/
def execAckCoalExpire (qp : Nat) (s : State) : Host.Outcome State Fault Refusal :=
  goOnKeep s (match getQp s qp with
    | some q =>
      match q.unackedAt with
      | some t => if (q.st = .rtr || q.st = .rts) && t + regBits s wgtAckCoal 23 8 * nsec ≤ s.now then sendAck s qp else s
      | none => s
    | none => s)

-- ------------------------------------------------------------------ READs at the responder (R323, R325, R333)

/-- The responses to a READ_REQ from AUX on: PSN, MSN, offset, payload, LAST. -/
def responses (k : Pkt) (pmtu : Nat) (data : Bytes) : List (Nat × Nat × Nat × Bytes × Bool) :=
  let len := k.msgLen - k.aux
  let n := packetsOf len pmtu
  (List.range n).map fun j =>
    (seqAdd k.psn j, k.msn, k.aux + j * pmtu, slice (sliceZ data 0 len) (j * pmtu) pmtu, j + 1 = n)

/-- A READ_REQ is served with the bytes read at REMOTE_ADDR + AUX, to the end of the read (R321, R333). One with RETX asks in AUX for what is
missing from there on (R329; DEDUCED, log entry 93). -/
def serveRead (s : State) (i : Nat) (q : Qp) (f : RxFrame) (k : Pkt) (data : Bytes) : State :=
  let n := packetsOf (k.msgLen - k.aux) q.pmtu
  if 2 ^ 31 < k.msgLen ∨ k.msgLen = 0 ∨ k.msgLen < k.aux then rxError s i k.msn stBadParam 3 k.psn
  else if (localAccess s q.owner k.rkey k.remoteAddr k.msgLen acRemoteRead).1 = stNotPermitted then
    rxError s i k.msn stNotPermitted 2 k.psn
  else if 16 ≤ q.readsBusy then refuseRnr s i n k
  else
    let s := modQp s i fun q =>
      let q := { q with respQ := q.respQ ++ responses k q.pmtu data, readsBusy := q.readsBusy + 1, rnrMsgs := q.rnrMsgs.filter (· ≠ k.msn),
                        rnrPsns := q.rnrPsns.filter fun x => x.1 ≠ k.msn, rnrFirst := tdel q.rnrFirst k.msn }
      let q := if seqGe k.msn q.nextRxMsn && (tget q.rxMsgs k.msn).isNone then
          { q with rxMsgs := tset q.rxMsgs k.msn { opcode := 3, total := some 0 } } else q
      noteRx s f k 0 (markNew q k.psn n)
    ackIfDue (updateCredit (completeAll s i) i) i k.ackReq (k.psn ≠ q.ePsn)

/-- READ_REQ_RECEIVE (R313, R314, R325, R333). One with RETX is answered whatever its PSN. -/
def execReadReqReceive (port : Nat) (data : Bytes) (s : State) : Host.Outcome State Fault Refusal :=
  goOnKeep s (match headPkt s port [3] with
    | none => s
    | some (f, inst, s) =>
      let k := parsePkt f.data
      withQp s port inst k fun i q s =>
        if k.retx && k.tagOk q.rxKey then serveRead s i q f k data
        else byPsn s i q f k fun s => serveRead s i q f k data)

-- ------------------------------------------------------------------ the requester (R321, R329, R330, R332, R334, R335)

/-- The status that a NAK gives the work request (R321); none for a code that R331 does not list, and for RNR. -/
def nakStatus (code : Nat) : Option Nat :=
  match code with
  | 2 => some stNotPermitted
  | 3 => some stBadParam
  | 4 => some stStateConflict
  | 5 => some stIntegrity
  | 6 => some stNoResource
  | _ => none

/-- A NAK with a code that R331 lists; one with another is stray. -/
def nakListed (k : Pkt) : Bool := byteAt k.body 0 = 1 || (nakStatus (byteAt k.body 0)).isSome

/-- A packet of a QP from its peer that waits in the port's inbox, with its opcode: it came in the same cycle and is not processed yet (R353).
The engine never holds the line up (R351), so nothing waits there longer. -/
def waitingFrom (s : State) (i : Nat) (q : Qp) (op : Nat) : Option Pkt :=
  (((getPort s q.port).inbox.filter fun f => mayTake s isTransport f && headOp s f = op).map fun f => parsePkt f.data).find? fun k =>
    k.crcOk && (op ≠ 0x11 || nakListed k) && (qpByNum s k.dst).any fun x => x.1 = i && qpAccepts q q.port k

/-- ACK_RECEIVE (R327-R330, R335, R339, R340, R353). -/
def execAckReceive (port : Nat) (s : State) : Host.Outcome State Fault Refusal :=
  goOnKeep s (match headPkt s port [0x10] with
    | none => s
    | some (f, inst, s) =>
      let k := parsePkt f.data
      withQp s port inst k fun i q s => if q.st = .rts then applyAck s i k ((waitingFrom s i q 0x11).map (·.psn)) else s)

/-- The PSN that follows, from a request's first one on, everything put on the wire: its own packets and the requests begun after it. -/
def wireEnd (q : Qp) (w : SendWr) : Nat :=
  let begun := q.sends.filter fun x => x.started && x.msn ≠ w.msn && 0 < x.sent && seqGe x.firstPsn w.firstPsn
  let ends := begun.map fun x => seqSub (seqAdd x.firstPsn x.packets) w.firstPsn
  seqAdd w.firstPsn (ends.foldl max (if w.opcode = 3 then w.packets else w.sent))

/-- Fresh PSNs from one on for a refused request and the requests that have not begun (R332). -/
def renumber (w : SendWr) : Nat → List SendWr → Nat × List SendWr
  | psn, [] => (psn, [])
  | psn, x :: t =>
    let mine := x.started && x.done.isNone && x.msn = w.msn
    if mine || (x.started && x.done.isNone && x.sent = 0) then
      let r := renumber w (seqAdd psn x.packets) t
      (r.1, (if mine then { x with firstPsn := psn, sent := 0, got := [] } else { x with firstPsn := psn }) :: r.2)
    else
      let r := renumber w psn t
      (r.1, x :: r.2)

/-- The message is to be sent again from its FIRST packet, with fresh PSNs that continue the sequence sent so far, after the delay (R332). -/
def restartSend (q : Qp) (w : SendWr) (until_ : Nat) : Qp :=
  let mine := fun psn => seqSub psn w.firstPsn < w.packets
  let r := renumber w (wireEnd q w) q.sends
  { q with sends := r.2, sqPsn := r.1, outPkts := q.outPkts.filter fun x => !mine x.psn, retxQ := q.retxQ.filter fun n => !mine n,
           unaPsn := if mine q.unaPsn then seqAdd w.firstPsn (if w.opcode = 3 then w.packets else w.sent) else q.unaPsn,
           rnrUntil := some until_, rnrUsed := q.rnrUsed + 1 }

/-- NAK RNR (R332, R321): each one counts against RNR_RETRY. -/
def nakRnr (s : State) (i : Nat) (q : Qp) (k : Pkt) : State :=
  match sendOfMsn q k.msn with
  | none => s
  | some w =>
    if q.rnrRetry ≠ 7 ∧ q.rnrRetry ≤ q.rnrUsed then qpError s i (some (w.index, stNoResource)) none
    else
      let s := modQp s i fun q => restartSend q w (s.now + be k.body 2 2 * usec)
      startTimer s i

/-- NAK_RECEIVE (R321, R331, R332). -/
def execNakReceive (port : Nat) (s : State) : Host.Outcome State Fault Refusal :=
  goOnKeep s (match headPkt s port [0x11] with
    | none => s
    | some (f, inst, s) =>
      let k := parsePkt f.data
      withQp s port inst k fun i q s =>
        if byteAt k.body 0 = 1 then nakRnr s i q k
        else
          match nakStatus (byteAt k.body 0) with
          | some st => qpError s i ((sendOfMsn q k.msn).map fun w => (w.index, st)) none
          | none => stray s)

/-- A response of a READ is placed, or waits for the verdict on its message (R42, R57, R314, R334), and its payload is counted for the next ACK (R327,
R342). One that no READ waits for is discarded. -/
def placeResp (s : State) (i : Nat) (q : Qp) (f : RxFrame) (k : Pkt) : State :=
  match readFor q k with
  | none => s
  | some w =>
    let body := k.plain q.rxKey
    let n := body.length
    let new := !w.got.contains (k.aux, n)
    let mid := respMsg s i w.msn
    let s :=
      if respWaits s i w.msn then (if new then modSend s i w.msn fun w => { w with held := w.held ++ [(k.aux, body)] } else s)
      else placeRead s i q w k.aux body
    let s := modSend s i w.msn fun w => { w with got := if new then w.got ++ [(k.aux, n)] else w.got }
    let s := modQp s i fun q =>
      { q with recvCount := q.recvCount + 1, rxBytes := q.rxBytes + n, ceBytes := q.ceBytes + (if ipEcn f.data = 3 then n else 0) }
    startTimer (match mid with | some id => tryComplete (chargeHeld s id) id | none => finishRead s i w.msn) i

/-- READ_RESP_RECEIVE (R313, R334). -/
def execReadRespReceive (port : Nat) (s : State) : Host.Outcome State Fault Refusal :=
  goOnKeep s (match headPkt s port [4] with
    | none => s
    | some (f, inst, s) =>
      let k := parsePkt f.data
      withQp s port inst k fun i q s =>
        if !k.tagOk q.rxKey then tagFails (placeUnchecked s i q f k) i k else if q.st = .rts then placeResp s i q f k else s)

/-- A READ_RESP packet leaves for its class queue, charged and paced as data (R338, R386). -/
def sendResponse (s : State) (i : Nat) (q : Qp) (x : Nat × Nat × Nat × Bytes × Bool) : State :=
  let (psn, msn, off, body, last) := x
  let fl := b2n (off = 0) + 2 * b2n last + (if q.txKey.isSome then 16 else 0)
  let data := qpFrame s i q 4 fl psn msn off (if q.txKey.isSome then toBe 8 q.ivCtr else []) body
  let f : TxFrame := { kind := .wgt, data := data, inst := q.owner, queuedAt := s.now, qp := some i, psn := psn }
  let len := wireBytes (outLen f)
  let s := paceBytes (queueTc (chargeShapers s i q (outLen f)) q.port q.tc f) i len
  modQp s i fun q =>
    { q with respQ := q.respQ.drop 1, readsBusy := q.readsBusy - b2n last, sentCount := q.sentCount + 1,
             ivCtr := if q.txKey.isSome then q.ivCtr + 1 else q.ivCtr }

/-- The first request with packets not sent yet, and the PSN of the next one. -/
def nextNew (q : Qp) : Option (SendWr × Nat) :=
  (q.sends.find? fun w => w.started && w.done.isNone && (if w.opcode = 3 then w.sent = 0 else w.sent < w.packets)).map fun w =>
    (w, if w.opcode = 3 then w.firstPsn else seqAdd w.firstPsn w.sent)

/-- What a QP sends next: a retransmission, a READ_RESP, new data (R329, R338). A QP whose IV_CTR would reach 2^63 enters ERROR (R343). -/
def sendNext (s : State) (i : Nat) (q : Qp) : State :=
  if q.txKey.isSome && 2 ^ 63 ≤ q.ivCtr + 1 then
    qpError s i ((nextNew q).map fun x => (x.1.index, stIntegrity)) none
  else
    match q.retxQ with
    | psn :: _ =>
      (match sendOfPsn q psn with
       | some w => if maySend s i q psn then sendPacket s i q w psn true else s
       | none => modQp s i fun q => { q with retxQ := q.retxQ.drop 1 })
    | [] =>
      match q.respQ with
      | x :: _ => if maySend s i q q.unaPsn then sendResponse s i q x else s
      | [] =>
        match nextNew q with
        | some (w, psn) => if maySend s i q psn then sendPacket s i q w psn false else s
        | none => s

/-- ACKs and NAKs that waited for the shapers enter their class queue while these permit, at most so many (R326, R386). -/
def flushCtl : Nat → State → Nat → State
  | 0, s, _ => s
  | n + 1, s, i =>
    match getQp s i with
    | some q =>
      match q.ctlQ with
      | d :: t =>
        if shapersPermit s i q then
          flushCtl n (queueAhead (chargeShapers (modQp s i fun q => { q with ctlQ := t }) i q (max 60 (d.length + 4))) i q d) i
        else s
      | [] => s
    | none => s

/-- WGT_PACKET_SEND (R323, R324, R326, R329, R338, R386): the ACKs and NAKs that wait, then one packet. -/
def execWgtPacketSend (qp : Nat) (s : State) : Host.Outcome State Fault Refusal :=
  goOnKeep s (
    let s := flushCtl (((getQp s qp).map fun q => q.ctlQ.length).getD 0) s qp
    match getQp s qp with
    | some q => if q.st = .rts then sendNext s qp q else s
    | none => s)

/-- The oldest packet outstanding: by PSN from the last one acknowledged in order; a READ whose request was acknowledged counts. -/
def oldestOut (q : Qp) : Option Nat :=
  match (q.outPkts.filter fun x => !x.sacked).map (fun x => seqSub x.psn q.unaPsn) |>.min? with
  | some d => some (seqAdd q.unaPsn d)
  | none => (q.sends.find? fun w => w.started && w.opcode = 3 && w.done.isNone && 0 < w.sent).map (·.firstPsn)

/-- An ACK that moves what is acknowledged in order waits to be processed: the timer's expiry in the same cycle is void (R353). -/
def ackComing (s : State) (i : Nat) (q : Qp) : Bool :=
  (waitingFrom s i q 0x10).any fun k => let n := seqAdd k.psn 1; seqGe n q.unaPsn && n ≠ q.unaPsn

/-- RETX_TIMER_EXPIRE (R321, R330, R353). -/
def execRetxTimerExpire (qp : Nat) (s : State) : Host.Outcome State Fault Refusal :=
  goOnKeep s (match getQp s qp with
    | some q =>
      match q.timerAt, oldestOut q with
      | some t, some psn =>
        if q.st = .rts && t ≤ s.now && !ackComing s qp q then
          if q.retryMax ≤ q.expiries then qpError s qp ((sendOfPsn q psn).map fun w => (w.index, stTimeout)) none
          else
            startTimer (modQp s qp fun q =>
              { q with expiries := q.expiries + 1, retxQ := psn :: q.retxQ.filter (· ≠ psn) }) qp
        else s
      | _, _ => s
    | none => s)

/-- REORDER_EXPIRE (R329). -/
def execReorderExpire (qp psn : Nat) (s : State) : Host.Outcome State Fault Refusal :=
  goOnKeep s (match getQp s qp with
    | some q =>
      if q.outPkts.any fun x => x.psn = psn && !x.sacked && !x.lost
          && x.sackAfter.any fun t => decide (t + regBits s wgtReorderNs 15 0 * nsec ≤ s.now) then
        modQp s qp fun q => declareLost q [psn]
      else s
    | none => s)

/-- RNR_DELAY_EXPIRE (R332). -/
def execRnrDelayExpire (qp : Nat) (s : State) : Host.Outcome State Fault Refusal :=
  goOnKeep s (match getQp s qp with
    | some q => if q.rnrUntil.any fun t => decide (t ≤ s.now) then modQp s qp fun q => { q with rnrUntil := none } else s
    | none => s)

/-- CREDIT_RESUME (R326, R336): neither hold is left; updateCredit sends the ACK. -/
def execCreditResume (qp : Nat) (s : State) : Host.Outcome State Fault Refusal :=
  goOnKeep s (match getQp s qp with
    | some q => if q.frozen && !creditHeld s qp && (q.st = .rtr || q.st = .rts) then updateCredit s qp else s
    | none => s)

-- ------------------------------------------------------------------ peers (R347-R350)

/-- Queue pairs in RTR or RTS that name a peer. -/
def peerQps (s : State) (p : Peer) : List (Nat × Qp) :=
  s.qps.filter fun q => q.2.live && q.2.port = p.port && q.2.ipv = p.ipv && q.2.peerIp = p.ip && (q.2.st = .rtr || q.2.st = .rts)

/-- A PROBE or PROBE_REPLY to an address of a port, from queue pair 0 to queue pair 0, in tc0 (R313, R348). -/
def probeFrame (s : State) (port ipv ip mac : Nat) (vlan : Option Nat) (op : Nat) (id : Bytes) : TxFrame :=
  let d := ethHeader mac (Config.portMac port) vlan (Config.wgtPcp 0) (if ipv = 4 then 0x0800 else 0x86DD)
    ++ wgtIpUdp s port ipv ip 64 49152 0 0 44 ++ wgtHeader op 0 0 0 0 0 0 0 ++ id
  { kind := .wgt, data := d, queuedAt := s.now }

/-- A PROBE_REPLY goes ahead of the transport's data in its class (R326). -/
def queueProbeReply (s : State) (port : Nat) (f : TxFrame) : State :=
  if txOpen s port then
    let ins := fun l : List TxFrame =>
      let k := (l.findIdx? fun g => g.kind = .wgt).getD l.length
      l.take k ++ f :: l.drop k
    modPort s port fun pt => { pt with txQ := tmodD pt.txQ 0 [] ins }
  else regAdd s (macTxDiscard port) 1

/-- A PROBE to a peer; PROBE_ID is the peer's number and the count. The peer's MAC address and VLAN are those of a QP that names it. -/
def probePeer (s : State) (k : Nat) (p : Peer) (n : Nat) : State :=
  let q := ((peerQps s p).head?.map (·.2)).getD {}
  let s := queueTc s p.port 0 (probeFrame s p.port p.ipv p.ip.toNat q.peerMac.toNat q.vlan 0x12 (toBe 4 k ++ toBe 4 n))
  modPeer s k fun p => { p with probes := some (n, s.now + regBits s wgtProbe 15 0 * usec) }

/-- Has a peer been silent for WGT_PEER_TIMEOUT, and does a QP to it have packets outstanding (R348)? -/
def peerSilent (s : State) (p : Peer) : Bool :=
  p.lastHeard + regBits s wgtPeerTimeout 19 0 * usec ≤ s.now && (peerQps s p).any fun q => q.2.outPkts ≠ []

/-- PEER_SILENT_EXPIRE (R348). -/
def execPeerSilentExpire (peer : Nat) (s : State) : Host.Outcome State Fault Refusal :=
  goOnKeep s (match tget s.peers peer with
    | some p => if p.probes.isNone && peerSilent s p then probePeer s peer p 1 else s
    | none => s)

/-- A packet of the peer waits to be processed (R353). -/
def peerComing (s : State) (p : Peer) : Bool :=
  (getPort s p.port).inbox.any fun f => isWgtFrame s f.data && ipVer f.data = p.ipv && BitVec.ofNat 128 (ipSrc f.data) = p.ip

/-- The peer is unreachable (R349, R350): every queue pair to it enters ERROR with a compact completion, and each instance that had one, and
the manager, gets an event. -/
def peerLost (s : State) (k : Nat) (p : Peer) : State :=
  let qs := peerQps s p
  let owners := (0 :: qs.map fun q => q.2.owner).dedup
  let s := regOr (modPeer s k fun p => { p with probes := none }) wgtEvent 1
  let s := qs.foldl (fun s q => compactError s q.1) s
  owners.foldl (fun s n =>
    report s { code := evPeerUnreachable, origin := [p.port, p.ip.toNat, n], status := stTimeout, owners := [n],
               detail := [(0, 1, p.port), (1, 1, p.ipv), (4, 16, le (toBe 16 (if p.ipv = 4 then p.ip.toNat * 2 ^ 96 else p.ip.toNat)) 0 16),
                          (20, 4, qs.countP fun q => q.2.owner = n)] }) s

/-- PROBE_INTERVAL_EXPIRE (R348, R349, R353): the probing is over once the peer was heard or nothing is outstanding; else comes the next PROBE,
or the peer is unreachable, unless a packet from it has come in this cycle. -/
def execProbeIntervalExpire (peer : Nat) (s : State) : Host.Outcome State Fault Refusal :=
  goOnKeep s (match tget s.peers peer with
    | some p =>
      match p.probes with
      | some (n, t) =>
        if t ≤ s.now then
          if !peerSilent s p then modPeer s peer fun p => { p with probes := none }
          else if n < regBits s wgtProbe 19 16 then probePeer s peer p (n + 1)
          else if peerComing s p then s
          else peerLost s peer p
        else s
      | none => s
    | none => s)

/-- The oldest probe frame of a port, taken, if it has the opcode. -/
def headProbe (s : State) (port op : Nat) : Option (RxFrame × State) :=
  match waiting s port fun d => d = .probe with
  | some f => if (parsePkt f.data).op = op then some (f, consume s port .probe f) else none
  | none => none

/-- PROBE_RECEIVE (R326, R348): answered on any port, whatever its instances and queue pairs. -/
def execProbeReceive (port : Nat) (s : State) : Host.Outcome State Fault Refusal :=
  goOnKeep s (match headProbe s port 0x12 with
    | none => s
    | some (f, s) =>
      let k := parsePkt f.data
      if !k.crcOk then stray s
      else
        let s := heardFrom s port (ipVer f.data) (BitVec.ofNat 128 (ipSrc f.data))
        queueProbeReply s port (probeFrame s port (ipVer f.data) (ipSrc f.data) (be f.data 6 6) (frameVid f.data) 0x13 k.body))

/-- PROBE_REPLY_RECEIVE (R348): hearing from the peer stops the probing. -/
def execProbeReplyReceive (port : Nat) (s : State) : Host.Outcome State Fault Refusal :=
  goOnKeep s (match headProbe s port 0x13 with
    | none => s
    | some (f, s) =>
      let k := parsePkt f.data
      if !k.crcOk then stray s
      else
        let ip := BitVec.ofNat 128 (ipSrc f.data)
        match peerOf s port (ipVer f.data) ip with
        | some n => modPeer (heardFrom s port (ipVer f.data) ip) n fun p => { p with probes := none }
        | none => s)

-- ------------------------------------------------------------------ QP_MODIFY to ERROR (R320, R322, R353)

/-- An ACK or READ_RESP of a queue pair that waits in its port's inbox has come in this cycle: it is taken, and what it completes stands (R353). -/
def takeArrived (s : State) (i p : Nat) (f : RxFrame) : State :=
  let k := parsePkt f.data
  match f.dest, getQp s i with
  | some (.transport n), some q =>
    if mayTake s isTransport f && (headOp s f = 0x10 || headOp s f = 4) && k.crcOk && k.tagOk q.rxKey && q.st = .rts
        && (acceptingQp s p n k).any fun x => x.1 = i then
      let s := freeKept (modPort s p fun pt => { pt with inbox := pt.inbox.erase f }) p f
      let s := countInst (heardFrom s p q.ipv q.peerIp) q.owner 7 1
      if k.op = 4 then placeResp s i q f k else applyAck s i k ((waitingFrom s i q 0x11).map (·.psn))
    else s
  | _, _ => s

/-- What a queue pair's peer has sent by now and is not processed. -/
def settleArrived (s : State) (i : Nat) : State :=
  match getQp s i with
  | some q => (getPort s q.port).inbox.foldl (fun s f => takeArrived s i q.port f) s
  | none => s

/-- QP_MODIFY to ERROR (R320, R322): work that completes with OK in the same cycle stands, the rest is flushed (R353). -/
def cmdQpError (d : Cmd) (inst _id : Nat) (s : State) : State × Answer :=
  orElse s (qpChecks s inst d (fun _ => false) (fun _ => false))
    fun s => (modQp (qpError (settleArrived s (argQp d)) (argQp d) none none) (argQp d) fun q => { q with st := .error }, .ok)

def execQpModifyError (r : CmdRing) (d : Cmd) (s : State) : Host.Outcome State Fault Refusal := goOnKeep s (modifyCmd 3 r d (cmdQpError d) s)

end Sys2Proof.Machine
end

