-- ==== Sys2Proof/Machine/NetTime.lean ====
section
/-! DEFINITION. Network time: PTP messages received and sent (R400-R402, R405-R407, R409), loss of the master (R403), the holdover
estimate (R408, R409), the 1PPS pins (R404, R586) and LLDP (R377, R529, R574). Message formats are those of IEEE 1588-2019 and
IEEE 802.1AS-2020 (log entry 6), LLDP's those of IEEE 802.3. -/

namespace Sys2Proof.Machine

open Sys2Proof

-- ------------------------------------------------------------------ TIM_ROLE in force (R400)

def tbProfile (s : State) : Nat := bits s.tb.role.toNat 2 2
def tbDomain (s : State) : Nat := bits s.tb.role.toNat 10 3
/-- The layer-2 profile and TRANSPORT 0 use EtherType 0x88F7 (R400). -/
def tbUdp (s : State) : Bool := tbProfile s = 0 && bit s.tb.role.toNat 27
def tbIpv (s : State) : Nat := if bit s.tb.role.toNat 28 then 6 else 4

/-- SLEW_BOUND in 2^-48 ns per ns (R398). -/
def slewBound (s : State) : Nat := regBits s timSlewBound 17 0 * 2 ^ 48 / 10 ^ 9

/-- Is a magnitude in 2^-16 ns within TIM_LOCK_NS? -/
def withinLock (s : State) (o : Int) : Bool := o.natAbs ≤ regBits s timLockNs 15 0 * 65536

-- ------------------------------------------------------------------ the holdover estimate (R408, R409)

/-- E(t) in whole ns, t being the network clock since entry: E0 + F t + D t² / 2, saturated. -/
def holdEstimate (s : State) : Nat :=
  let b := s.tb
  let t := (b.clock - b.holdAt) / 2 ^ 32
  let d := regBits s timHoldDrift 15 0
  let sec := 65536 * 1000000000
  min 0xFFFFFFFF ((b.holdE0 + b.holdF * t / sec + d * 65536 * t * t / (200 * sec * sec)) / 65536)

/-- TIM_HOLD_ERR in HOLDOVER: with a master selected, the larger of E(t) and the last offset estimate's magnitude (R409). -/
def refreshHold (s : State) : State :=
  if s.tb.st = .holdover then
    let e := holdEstimate s
    let o := if s.tb.master.isSome then offsetNs s else 0
    { s with tb := { s.tb with holdErr := max e o } }
  else s

/-- HOLD_ERR_UPDATE (R408): every µs. -/
def execHoldErrUpdate (s : State) : Host.Outcome State Fault Refusal :=
  goOnKeep s (if s.tb.st = .holdover && s.tb.holdDue ≤ s.now then
    refreshHold { s with tb := { s.tb with holdDue := s.now + usec } }
  else s)

-- ------------------------------------------------------------------ the servo (R398, R405, R407, R409)

/-- The state after an accepted Sync whose offset estimate is good or not (R405, R409). -/
def lockStep (s : State) (good : Bool) : State :=
  let n := if good then s.tb.goodSyncs + 1 else 0
  match s.tb.st with
  | .acquiring | .holdover =>
    if good ∧ 16 ≤ n then regOr { s with tb := { s.tb with st := .locked, goodSyncs := 0 } } timEvent 4
    else if good then { s with tb := { s.tb with goodSyncs := n } }
    else { s with tb := { s.tb with st := .acquiring, goodSyncs := 0 } }
  | .locked => if good then s else { s with tb := { s.tb with st := .acquiring, goodSyncs := 0 } }
  | _ => s

/-- A Sync is accepted (R407): the servo gives a new offset estimate, frequency uncertainty and adjustment, which the manual does not
fix but for the bound of R398 (log entry 2). -/
def acceptSync (s : State) : State :=
  let (o, s) := drawInt s
  let (a, s) := drawInt s
  let (f, s) := drawNat s
  let b : Int := slewBound s
  let s := { s with tb := { s.tb with offset := o, adj := clampI (-b) b a, freqUnc := f, lastSync := s.now, syncWait := none } }
  refreshHold (lockStep s (withinLock s o))

-- ------------------------------------------------------------------ receiving PTP messages (R400, R401, R405, R407, R409)

/-- The message's sourcePortIdentity. -/
def ptpSource (f : Bytes) : Nat := be f (ptpOff f + 20) 10

def ptpSeqOf (f : Bytes) : Nat := be f (ptpOff f + 30) 2

/-- Does a message belong to this PTP instance on a port: a role, the port enabled, the version, the domain, the transport and its IP version (R400)? -/
def ptpOurs (s : State) (p : Nat) (f : Bytes) : Bool :=
  tbRole s ≠ 0 && tbPort s p && byteAt f (ptpOff f + 1) % 16 = 2 && byteAt f (ptpOff f + 4) = tbDomain s
  && decide (frameType f = 0x88F7) ≠ tbUdp s && (!tbUdp s || ipVer f = tbIpv s)

/-- Does the adapter serve time on a port (R400)? -/
def serves (s : State) (p : Nat) : Bool :=
  tbPort s p && (tbRole s = 3 || (tbRole s = 2 && s.tb.master ≠ some p))

/-- An Announce (R400, R403): remembered; the algorithm may select its sender, which becomes the master (log entry 6). On the TIME
fallback none is accepted (R521). -/
def announceReceived (s : State) (p : Nat) (f : Bytes) : State :=
  if (tbRole s = 1 || tbRole s = 2) && !s.tb.fallback then
    let x := (p, ptpSource f, f.drop (ptpOff f), s.now)
    let s := { s with tb := { s.tb with foreign := s.tb.foreign.filter (fun y => ¬(y.1 = x.1 ∧ y.2.1 = x.2.1)) ++ [x] } }
    if s.tb.master = some p && s.tb.masterId = x.2.1 then
      { s with tb := { s.tb with lastAnnounce := s.now, masterMsg := x.2.2.1 } }
    else if Config.bmcaSelects x.2.2.1 s.tb.master then selectMaster s x
    else s
  else s

def fromMaster (s : State) (p : Nat) (f : Bytes) : Bool := s.tb.master = some p && s.tb.masterId = ptpSource f

/-- A Sync (R401): of a two-step master it waits for its Follow_Up. -/
def syncReceived (s : State) (p : Nat) (f : Bytes) : State :=
  if fromMaster s p f then
    if bit (byteAt f (ptpOff f + 6)) 1 then { s with tb := { s.tb with syncWait := some (ptpSeqOf f) } } else acceptSync s
  else s

def followUpReceived (s : State) (p : Nat) (f : Bytes) : State :=
  if fromMaster s p f && s.tb.syncWait = some (ptpSeqOf f) then acceptSync s else s

-- ------------------------------------------------------------------ sending PTP messages (R401, R402, R416)

/-- The adapter's port identity: the port's MAC address as an EUI-64, and the port number from 1 (log entry 15). -/
def ptpIdentity (p : Nat) : Bytes :=
  let m := toBe 6 (Config.portMac p)
  m.take 3 ++ [0xFF#8, 0xFE#8] ++ m.drop 3 ++ toBe 2 (p + 1)

/-- A message header: type, length, correctionField, sequence number, log interval. -/
def ptpHeader (s : State) (p type len flags corr seq ival : Nat) : Bytes :=
  toBe 1 (tbProfile s * 16 + type) ++ toBe 1 0x12 ++ toBe 2 len ++ toBe 1 (tbDomain s) ++ toBe 1 0 ++ toBe 2 flags ++ toBe 8 corr
  ++ toBe 4 0 ++ ptpIdentity p ++ toBe 2 seq ++ toBe 1 0 ++ toBe 1 ival

/-- The bytes ahead of a message: Ethernet, or Ethernet, IP and UDP; the peer-delay messages have addresses of their own. Over IPv6 two
bytes follow the message, and the UDP checksum is there, for they make it hold after the insertion (R417). -/
def ptpFrame (s : State) (p : Nat) (peer event : Bool) (msg : Bytes) : Bytes :=
  if tbUdp s then
    let port := if event then 319 else 320
    if tbIpv s = 4 then
      ethHeader (if peer then 0x01005E00006B else 0x01005E000181) (Config.portMac p) none 0 0x0800
      ++ ipUdp p 4 (if peer then 0xE000006B else 0xE0000181) 1 port port 0 0 msg.length ++ msg
    else
      fixUdpCsum (ethHeader (if peer then 0x33330000006B else 0x333300000181) (Config.portMac p) none 0 0x86DD
        ++ ipUdp p 6 (if peer then 0xFF02 * 2 ^ 112 + 0x6B else 0xFF0E * 2 ^ 112 + 0x181) 1 port port 0 0 (msg.length + 2)
        ++ msg ++ [0#8, 0#8])
  else
    ethHeader (if peer || tbProfile s = 1 then 0x0180C200000E else 0x011B19000000) (Config.portMac p) none 0 0x88F7 ++ msg

/-- A time-base frame for PTP_TC, with the offsets of the fields that its departure fills in (R402, R416); stamp is the receive timestamp of the
request that a Pdelay_Resp answers. -/
def queuePtp (s : State) (p : Nat) (peer event : Bool) (msg : Bytes) (ts cf : Bool) (stamp : Option Nat) : State :=
  let d := ptpFrame s p peer event msg
  let o := ptpOff d
  queueTc s p (regBits s timCtrl 2 0)
    { kind := .ptp, data := d, queuedAt := s.now, ready := s.now, reqStamp := stamp,
      tsOff := if ts then some (o + 34) else none, cfOff := if cf then some (o + 8) else none }

def nextPtpSeq (s : State) : State := { s with tb := { s.tb with ptpSeq := (s.tb.ptpSeq + 1) % 65536 } }

/-- The body of an Announce: a boundary clock passes on what its master announced, one step further; a grandmaster announces
TIM_GM_QUALITY (R400, R423). -/
def announceBody (s : State) (p : Nat) : Bytes :=
  let q := regRaw s timGmQuality
  let own := toBe 12 0 ++ toBe 1 0 ++ toBe 1 (bits q 7 0) ++ toBe 1 (bits q 23 16) ++ toBe 1 (bits q 31 24) ++ toBe 2 0xFFFF
    ++ toBe 1 (bits q 15 8) ++ (ptpIdentity p).take 8 ++ toBe 2 0 ++ toBe 1 0xA0
  if tbRole s = 2 ∧ s.tb.master.isSome then
    let m := sliceZ s.tb.masterMsg 34 30
    overlay (overlay m 0 (toBe 10 0)) 27 (toBe 2 (be m 27 2 + 1))
  else own

/-- Has the interval of a kind of message passed since the port last sent one (R402)? -/
def ptpDue (s : State) (p k : Nat) : Bool :=
  match tget (getPort s p).ptpSent k with
  | some t => t + ptpInterval s k ≤ s.now
  | none => true

def ptpSentNow (s : State) (p k : Nat) : State := modPort s p fun q => { q with ptpSent := tset q.ptpSent k s.now }

/-- The log interval byte of TIM_INTERVALS. -/
def logByte (s : State) (k : Nat) : Nat := regBits s timIntervals (8 * k + 7) (8 * k)

def sendSync (s : State) (p : Nat) : State :=
  if serves s p && ptpDue s p 0 then
    let m := ptpHeader s p 0 44 0 0 s.tb.ptpSeq (logByte s 0) ++ toBe 10 0
    nextPtpSeq (queuePtp (ptpSentNow s p 0) p false true m true true none)
  else s

/-- A delay request goes out: its answer is awaited by its sequence number. -/
def delaySent (s : State) (p : Nat) : State := modPort s p fun q => { q with delayReq := some s.tb.ptpSeq, delayWait := none }

/-- A Pdelay_Req; under the default profile a Delay_Req from the time-receiving port, the profile's own delay mechanism. -/
def sendPdelayReq (s : State) (p : Nat) : State :=
  if tbPort s p && ptpDue s p 1 then
    if tbProfile s = 1 then
      let m := ptpHeader s p 2 54 0 0 s.tb.ptpSeq (logByte s 1) ++ toBe 20 0
      nextPtpSeq (queuePtp (delaySent (ptpSentNow s p 1) p) p true true m false false none)
    else if s.tb.master = some p then
      let m := ptpHeader s p 1 44 0 0 s.tb.ptpSeq 0x7F ++ toBe 10 0
      nextPtpSeq (queuePtp (delaySent (ptpSentNow s p 1) p) p false true m false false none)
    else s
  else s

/-- The answer to the request that waits: one-step (R401, R416). -/
def sendPdelayResp (s : State) (p : Nat) : State :=
  match (getPort s p).pdelay with
  | none => s
  | some (f, stamp) =>
    let o := ptpOff f
    let m := ptpHeader s p 3 54 0 (be f (o + 8) 8) (ptpSeqOf f) 0x7F ++ toBe 10 0 ++ slice f (o + 20) 10
    queuePtp (modPort s p fun q => { q with pdelay := none }) p true true m false true (some stamp)

def sendAnnounce (s : State) (p : Nat) : State :=
  if serves s p && ptpDue s p 2 then
    let m := ptpHeader s p 11 64 8 0 s.tb.ptpSeq (logByte s 2) ++ announceBody s p
    nextPtpSeq (queuePtp (ptpSentNow s p 2) p false false m false false none)
  else s

/-- PTP_MESSAGE_SEND (R400-R402): nothing while ROLE is DISABLED. -/
def execPtpMessageSend (port : Nat) (kind : PtpKind) (s : State) : Host.Outcome State Fault Refusal :=
  goOnKeep s (if tbRole s ≠ 0 && portExists s port && ready s rdyTim then
    match kind with
    | .sync => sendSync s port
    | .pdelayReq => sendPdelayReq s port
    | .pdelayResp => sendPdelayResp s port
    | .announce => sendAnnounce s port
  else s)

/-- A Delay_Req on a port that serves time is answered with its receive timestamp, the default profile's delay mechanism. -/
def answerDelayReq (s : State) (p : Nat) (f : Bytes) (stamp : Nat) : State :=
  if serves s p && tbProfile s = 0 then
    let o := ptpOff f
    let m := ptpHeader s p 9 54 0 ((be f (o + 8) 8 + 2 ^ 64 - fracOf stamp) % 2 ^ 64) (ptpSeqOf f) (logByte s 1) ++ stampBytes stamp
      ++ slice f (o + 20) 10
    queuePtp s p false false m false false none
  else s

/-- An exchange of delay messages is over: the path delay that its times give, a free value, since the manual leaves it to the profile (log entry 2). -/
def delayDone (s : State) (p : Nat) : State :=
  let (d, s) := drawInt s
  modPort s p fun q => { q with pathDelay := some d, delayReq := none, delayWait := none }

/-- The answer to a request of this port: a Pdelay_Resp, of a two-step peer with a follow-up to come, or under the default profile a Delay_Resp
(R400, R401). -/
def delayAnswered (s : State) (p : Nat) (f : Bytes) (peer : Bool) : State :=
  let o := ptpOff f
  if decide (tbProfile s = 1) = peer && (getPort s p).delayReq = some (ptpSeqOf f) && slice f (o + 44) 10 = ptpIdentity p then
    if peer && bit (byteAt f (o + 6)) 1 then modPort s p fun q => { q with delayReq := none, delayWait := some (ptpSeqOf f) } else delayDone s p
  else s

/-- The follow-up of a two-step peer's answer (R401). -/
def delayFollowUp (s : State) (p : Nat) (f : Bytes) : State :=
  if (getPort s p).delayWait = some (ptpSeqOf f) && slice f (ptpOff f + 44) 10 = ptpIdentity p then delayDone s p else s

/-- A PTP message of this instance acts by its type. -/
def ptpActs (s : State) (p : Nat) (f : RxFrame) : State :=
  match byteAt f.data (ptpOff f.data) % 16 with
  | 0 => syncReceived s p f.data
  | 1 => answerDelayReq s p f.data f.capture
  | 2 => modPort s p fun q => { q with pdelay := some (f.data, f.capture) }
  | 3 => delayAnswered s p f.data true
  | 8 => followUpReceived s p f.data
  | 9 => delayAnswered s p f.data false
  | 10 => delayFollowUp s p f.data
  | 11 => announceReceived s p f.data
  | _ => s

/-- PTP_MESSAGE_RECEIVE (R362, R400): a frame that is not of this PTP instance is counted and discarded. -/
def execPtpMessageReceive (port : Nat) (s : State) : Host.Outcome State Fault Refusal :=
  goOnKeep s (match waiting s port fun d => d = .timeBase with
    | some f =>
      let s := consume s port .timeBase f
      if ptpOurs s port f.data then ptpActs s port f else modPort s port fun q => { q with ptpDropped := q.ptpDropped + 1 }
    | none => s)

/-- MASTER_LOSS (R403): three Announce intervals without an Announce, or three Sync intervals without an accepted Sync. -/
def execMasterLoss (s : State) : Host.Outcome State Fault Refusal :=
  goOnKeep s (if s.tb.master.isSome
      && (s.tb.lastAnnounce + 3 * ptpInterval s 2 ≤ s.now || s.tb.lastSync + 3 * ptpInterval s 0 ≤ s.now) then loseMaster s
  else s)

-- ------------------------------------------------------------------ 1PPS (R404, R422, R586)

/-- PPS_IN_EDGE: counted in every role; in GRANDMASTER with PPS_IN set the edge marks NS = 0, and the servo slews toward it: back where the clock is
ahead of it, forward where it is behind, by an adjustment the manual does not fix but for its bound (log entry 2). -/
def execPpsInEdge (s : State) : Host.Outcome State Fault Refusal :=
  goOnKeep s (
    let s := regAdd s timPpsCount 1
    if s.tb.st = .grandmaster && regBit s timCtrl 3 then
      let (a, s) := drawInt s
      let b : Int := slewBound s
      let m : Int := (clampI (-b) b a).natAbs
      let ns := netNs s % 1000000000
      { s with tb := { s.tb with adj := if ns = 0 then 0 else if ns < 500000000 then -m else m } }
    else s)

/-- The second whose start is within 2 ns of now, if there is one (R404). -/
def ppsMark (s : State) : Option Nat := if (netNs s + 2) % 1000000000 ≤ 4 then some ((netNs s + 2) / 1000000000) else none

/-- PPS_OUT: the pin rises at each NS = 0 of the network clock, within 2 ns, and stays high for 100 ms. -/
def execPpsOut (s : State) : Host.Outcome State Fault Refusal :=
  goOnKeep s (if ready s rdyTim && (ppsMark s).isSome && ppsMark s ≠ s.tb.ppsSec then
    emit { s with tb := { s.tb with ppsOutUntil := s.now + 100 * msec, ppsSec := ppsMark s } } (.pin "PPS_OUT" true)
  else s)

-- ------------------------------------------------------------------ LLDP (R377, R529, R574)

/-- The value of the IEEE 802.3 EEE TLV of an LLDPDU (type 127, OUI 00-12-0F, subtype 5), searched TLV by TLV. -/
def eeeTlv : Nat → Bytes → Option Bytes
  | 0, _ => none
  | n + 1, b =>
    let h := be b 0 2
    if b.length < 2 ∨ h = 0 then none
    else if h / 512 = 127 ∧ be b 2 3 = 0x00120F ∧ byteAt b 5 = 5 then some (slice b 6 (h % 512 - 4))
    else eeeTlv n (b.drop (2 + h % 512))

/-- The wake time to use toward a peer, in ns: its receive Tw, which the TLV gives in µs. -/
def eeeWake (v : Bytes) : Nat := min 65535 (be v 2 2 * 1000)

/-- The management processor negotiates low-power idle (R377): LPI.EN is set and the peer has advertised it since the port trained. -/
def negotiateLpi (s : State) (p : Nat) : State :=
  let q := getPort s p
  if regBit s (macLpi p) 0 && q.lldpNow then regPut s (macLpiWake p) (65536 + q.lldpWake) else s

/-- An LLDPDU of the peer. -/
def lldpActs (s : State) (p : Nat) (f : Bytes) : State :=
  let q := fun q : Port => { q with lldpSeen := true, lldpAt := s.now }
  match eeeTlv 64 (f.drop (l3Off f)) with
  | some v =>
    negotiateLpi (modPort s p fun x => { q x with lldpLpi := true, lldpNow := true, lldpWake := eeeWake v }) p
  | none =>
    regPut (modPort s p fun x => { q x with lldpLpi := false, lldpNow := false }) (macLpiWake p) (regBits s (macLpiWake p) 15 0)

/-- LLDP_RECEIVE (R362): while the management processor restarts, LLDP frames are discarded and counted (R529). -/
def execLldpReceive (port : Nat) (s : State) : Host.Outcome State Fault Refusal :=
  goOnKeep s (match waiting s port fun d => d = .lldp with
    | some f =>
      let s := consume s port .lldp f
      if s.mgmt.restarting then modPort s port fun q => { q with lldpDropped := q.lldpDropped + 1 } else lldpActs s port f.data
    | none => s)

end Sys2Proof.Machine
end

