-- ==== Sys2Proof/Machine/FaultEvents.lean ====
section
/-! DEFINITION. Errors and losses as they happen: temperature (R38, R39, R583), the loss of a die, of the IOD and of a PLL (R27-R31, R521),
core checks (R508), memory errors, their test and the patrol (R514-R518), failed lanes (R13, R357), pseudo-channels (R520), the management
processor (R529-R531), the witness (R522, R523) and back-pressure (R549). -/

namespace Sys2Proof.Machine

open Sys2Proof

-- ------------------------------------------------------------------ temperature (R38, R39)

/-- The effective readings of a domain's sensors in 0.25 degrees: raw plus factory and user offset (R532-R534). Domain d has sensors
8d to 8d+7, domain 4 being the IOD. -/
def effTemps (s : State) (raw : List Int) (d : Nat) : List (Nat × Int) :=
  (List.range 8).map fun i =>
    let k := 8 * d + i
    (k, raw.getD k 0 + sgn 8 (effTh (otpReg (calTh k 0)) (regRaw s (calTh k 1))))

def hottest (l : List (Nat × Int)) : Int := l.foldl (fun m x => max m x.2) (-1000)

/-- Whole degrees, unsigned. -/
def degrees (t : Int) : Nat := (t / 4).toNat

/-- The consecutive samples at 110 degrees or more of each sensor (R39): a hardware comparator's. -/
def countHot (s : State) (l : List (Nat × Int)) : State :=
  { s with hotRuns := l.foldl (fun t x => tsetD t x.1 0 (if 440 ≤ x.2 then min 4 (tgetD t x.1 0 + 1) else 0)) s.hotRuns }

/-- A compute die at its shutdown threshold loses its power, and a return of it in progress fails (R39, R592). -/
def thermalOff (s : State) (d : Nat) : State :=
  let s := regOr (setPwren s d false) pwrTherm (2 ^ (8 + d))
  let s := loseDie s d
  match s.dieReturn with
  | some x => if x.die = d then finishCmd? { s with dieReturn := none } x.cmd stRetired [] else s
  | none => s

/-- Four consecutive samples at 110 degrees or more of one sensor (R39). -/
def thermalShutdown (s : State) (d : Nat) : State :=
  if (List.range 8).any fun i => 4 ≤ tgetD s.hotRuns (8 * d + i) 0 then
    if d < 4 then (if s.pwren.getLsbD d then thermalOff s d else s)
    else if s.iodLost then s
    else loseIod ([0, 1, 2, 3].foldl (fun s d => setPwren s d false) s)
  else s

/-- A domain's sample (R38): the hottest reading, WARN, and one event per excursion. -/
def thermalWarn (s : State) (raw : List Int) (d : Nat) : State :=
  let t := hottest (effTemps s raw d)
  let s := { s with temps := tset s.temps d (degrees t) }
  if 400 ≤ t then
    let s' := regOr { s with hotNow := s.hotNow ||| (1#5 <<< d) } pwrTherm (2 ^ d)
    if s.hotNow.getLsbD d then s'
    else report s' { code := evThermal, origin := [d], detail := [(0, 1, d), (1, 1, degrees t)] }
  else { s with hotNow := s.hotNow &&& ~~~(1#5 <<< d) }

/-- THERMAL_SAMPLE (R38, R39, R41, R529): readings and warnings are the firmware's, shutdown the comparator's. -/
def execThermalSample (raw : List Int) (s : State) : Host.Outcome State Fault Refusal :=
  goOnKeep s (
    let ds := List.range 5
    let s := ds.foldl (fun s d => countHot s (effTemps s raw d)) s
    let s := if ready s rdyMgmt && !s.mgmt.restarting then ds.foldl (fun s d => thermalWarn s raw d) s else s
    refreshAlert (ds.foldl thermalShutdown s))

-- ------------------------------------------------------------------ domains and PLLs (R27, R28, R31, R521)

/-- DOMAIN_LOSS (R28). -/
def execDomainLoss (die : Nat) (s : State) : Host.Outcome State Fault Refusal :=
  goOnKeep s (if dieAlive s die then loseDie s die else s)

/-- IOD_LOSS (R31, R588). -/
def execIodLoss (s : State) : Host.Outcome State Fault Refusal :=
  goOnKeep s (if s.iodLost then s else loseIod s)

/-- The TIME domain has no PLL left: the network clock runs from FAB, and the time base accepts no master and enters HOLDOVER if it followed
one (R405, R408, R521). -/
def timeFallback (s : State) : State :=
  let following := s.tb.st = .locked || s.tb.st = .acquiring || s.tb.st = .holdover
  let s := { s with tb := { s.tb with fallback := true, master := none, masterMsg := [], foreign := [], syncWait := none, goodSyncs := 0 } }
  if following then enterHoldover s else s

/-- A domain other than a die's core loses its PLL's lock (R521): 0 FAB, 1 TIME, 2 MGMT, 3 HBM. -/
def standbyPll (s : State) (n : Nat) : State :=
  let c : Channel := { kind := 6, num := n }
  if s.pllStandby.getLsbD n then
    plainFault (regOr { s with pllStandby := s.pllStandby &&& ~~~(1#4 <<< n) } fltEvent 0x20) 6 5 c
  else if n = 1 then
    if s.tb.fallback then s else timeFallback (plainFault s 6 0 c)
  else if s.iodLost then s
  else loseIod s

/-- PLL_LOSS (R27, R521). -/
def execPllLoss (d : PllDomain) (s : State) : Host.Outcome State Fault Refusal :=
  goOnKeep s (match d with
    | .core die => if dieAlive s die then loseDie s die else s
    | .fab => standbyPll s 0
    | .time => standbyPll s 1
    | .mgmt => standbyPll s 2
    | .hbm => standbyPll s 3)

-- ------------------------------------------------------------------ core checks (R508)

/-- The error channels of a core: the core and its cluster (R517). -/
def coreChans (core : Nat) : List Channel := [coreChan core, clusterChan (clusterOf core)]

/-- The core's next firing fails its check, if it is the named shelf's: its results are discarded, nothing is written (R508). -/
def failFiring (s : State) (core shelf : Nat) : State :=
  if (pickOp s core (cycleOf s)).any (fun p => p.1 = shelf) then engineCycle s core true else s

/-- CORE_CHECK_FAIL (R508, R509). -/
def execCoreCheckFail (core shelf : Nat) (s : State) : Host.Outcome State Fault Refusal :=
  goOnKeep s (if coreUp s core && shelf < 4 then
      arrayFault (regAdd (failFiring s core shelf) fltCoreErr 1) 2 (coreChans core) (unitsAtCore s core shelf) shelf 0
    else s)

-- ------------------------------------------------------------------ memory errors (R514, R515, R517)

/-- The channels a memory error counts against. -/
def memChans : MemLoc → List Channel
  | .coreSram core _ _ => coreChans core
  | .clusterSram cl _ _ => [clusterChan cl]
  | .hbm stack pc _ _ _ => [pcChan stack pc]
  | .buffer _ => []

/-- Is the memory there: the die up, the numbers in range? -/
def memThere (s : State) (m : MemLoc) : Bool :=
  match m with
  | .coreSram core shelf addr => coreUp s core && shelf < 4 && addr < 65536
  | .clusterSram cl shelf addr => cl < 1280 && s.dieUp.getLsbD (dieOfCluster cl) && shelf < 4 && addr < 1048576
  | .hbm stack pc _ _ _ => stack < 2 && pc < 64 && ready s rdyIns
  | .buffer p => portExists s p

/-- A corrected codeword is counted; at an address already corrected since the last patrol it is an error event (R514, R517). -/
def corrected (s : State) (m : MemLoc) : State :=
  let s := regAdd s fltMemCorr 1
  if s.correctedOnce.contains m then (memChans m).foldl (fun s c => (judgeError s c).1) s
  else { s with correctedOnce := s.correctedOnce ++ [m] }

/-- MEM_CORRECTED (R514). -/
def execMemCorrected (m : MemLoc) (s : State) : Host.Outcome State Fault Refusal :=
  goOnKeep s (if memThere s m then corrected s m else s)

/-- Units whose partition holds a word of core SRAM, with their copies (R509). -/
def unitsAtCoreWord (s : State) (core shelf addr : Nat) : List (Nat × List (Nat × Nat)) :=
  s.units.filterMap fun u =>
    if faultable u.2 && u.2.configs.any fun g =>
        g.core = core && u.2.shelves.getD g.shelfRel 4 = shelf && g.csBase ≤ addr && addr < g.csBase + g.csSize then
      some (u.1, copiesAt u.2 core)
    else none

/-- Units whose partition holds a word of cluster SRAM; the copies are those whose cores use the partition (R509). -/
def unitsAtClusterWord (s : State) (cl shelf addr : Nat) : List (Nat × List (Nat × Nat)) :=
  s.units.filterMap fun u =>
    let users := u.2.configs.filter fun g =>
      clusterOf g.core = cl && u.2.shelves.getD g.shelfRel 4 = shelf && g.clBase ≤ addr && addr < g.clBase + g.clSize
    if faultable u.2 && users ≠ [] then some (u.1, (users.flatMap fun g => copiesAt u.2 g.core).dedup) else none

/-- A byte address within the partition of a shelf that holds it, as a FAULT event gives it (R524): the address less the base that sel
gives a configuration record at loc; a word that no unit holds keeps its address. -/
def withinPart (s : State) (us : List (Nat × List (Nat × Nat))) (shelf addr : Nat) (sel : CoreConfig → Option Nat) : Nat :=
  let base := (us.head?.bind fun x => getUnit s x.1).bind fun u =>
    u.configs.findSome? fun g => if u.shelves.getD g.shelfRel 4 = shelf then sel g else none
  addr - base.getD 0

/-- A unit's HBM: the streamed weights, spill or retention of all its copies. -/
def unitsOfHbm (s : State) (unit : Option Nat) : List (Nat × List (Nat × Nat)) :=
  match unit with
  | none => []
  | some ui =>
    match getUnit s ui with
    | some u => if faultable u then [(ui, u.copies.map fun c => (c.lane, c.copy))] else []
    | none => []

/-- A buffer's codeword is lost (R515): the frame or bundle that holds the bytes is discarded as one with a bad FCS, the one being received
or else the oldest that waits; a message of that one frame fails its check with it. -/
def loseBuffered (s : State) (p : Nat) : State :=
  let q := getPort s p
  match q.rx, q.inbox with
  | some f, _ => modPort s p fun q => { q with rx := some { f with fcsOk := false } }
  | none, f :: t =>
    let s := freeKept (modPort (regAdd s (macRxFcsErr p) 1) p fun q => { q with inbox := t }) p f
    if f.dest = some .armature then regAdd s armStray 1
    else
      match f.msg.bind fun id => (getMsg s id).map fun m => (id, m) with
      | some (id, m) => if m.ctl && !m.finished then checkFailedFrame s id m .fcs else s
      | none => s
  | none, [] => s

/-- An uncorrectable codeword (R515), by the memory it lies in. -/
def uncorrectable (s : State) (m : MemLoc) : State :=
  let s := regAdd s fltMemUncorr 1
  match m with
  | .coreSram core shelf addr =>
    let us := unitsAtCoreWord s core shelf addr
    arrayFault s 1 (memChans m) us shelf (withinPart s us shelf addr fun g => if g.core = core then some g.csBase else none)
  | .clusterSram cl shelf addr =>
    let us := unitsAtClusterWord s cl shelf addr
    arrayFault s 1 (memChans m) us shelf (withinPart s us shelf addr fun g => if clusterOf g.core = cl then some g.clBase else none)
  | .hbm _ _ _ off unit =>
    arrayFault s 1 (memChans m) (unitsOfHbm s unit) (((unit.bind (getUnit s)).map fun u => u.shelves.headD 0xFF).getD 0xFF) off
  | .buffer p => report (loseBuffered s p) (faultReport 1 0 0 0xFF p 0xFFFF 0xFF 0 0 [])

/-- MEM_UNCORRECTABLE (R515). -/
def execMemUncorrectable (m : MemLoc) (s : State) : Host.Outcome State Fault Refusal :=
  goOnKeep s (if memThere s m then uncorrectable s m else s)

/-- The 32 bytes of a codeword are zero. -/
def zeroWord (t : Table Byte) (base addr : Nat) : Table Byte :=
  (List.range 32).foldl (fun t i => tdel t (base + addr / 32 * 32 + i)) t

/-- The test leaves the codeword zero (R518). -/
def clearWord (s : State) (m : MemLoc) : State :=
  match m with
  | .coreSram core shelf addr => { s with csram := zeroWord s.csram (coreSpace (getCs s core shelf).shifted core * 2 ^ 16) addr }
  | .clusterSram cl shelf addr =>
    { s with clsram := zeroWord s.clsram (clusterSpace (getCs s (cl * 16) shelf).shifted cl * 2 ^ 20) addr }
  | .hbm _ _ region off _ => { s with hbm := zeroWord s.hbm (region * 2 ^ 37) off }
  | .buffer _ => s

/-- CODEWORD_TEST (R518): two patterns are written and read, then zero; a failure makes the fault permanent at once. -/
def execCodewordTest (m : MemLoc) (pass : Bool) (s : State) : Host.Outcome State Fault Refusal :=
  goOnKeep s (if memThere s m then
      let s := clearWord s m
      if pass then s else (memChans m).foldl (fun s c => (permanentFault s c).1) s
    else s)

/-- PATROL_READ (R516): a codeword is read; with no symbol in error it is clean since this patrol, up to three are corrected. -/
def execPatrolRead (m : MemLoc) (symbols : Nat) (s : State) : Host.Outcome State Fault Refusal :=
  goOnKeep s (if memThere s m then
      if symbols = 0 then { s with correctedOnce := s.correctedOnce.filter (· ≠ m) }
      else if symbols ≤ 3 then corrected s m
      else uncorrectable s m
    else s)

-- ------------------------------------------------------------------ lanes and pseudo-channels (R13, R357, R517, R519, R520)

/-- D2D_LANE_FAIL (R13, R517, R519): a redundant lane takes over, or the module is retired and every unit that uses its links holds a located
fault. -/
def execD2dLaneFail (link module lane : Nat) (s : State) : Host.Outcome State Fault Refusal :=
  goOnKeep s (
    let c := laneChan link module lane
    if chanOk c && lane ≠ 0xFF && !isRetired s c then
      let us := unitsOnModule s link module
      let (s, n) := countError s c
      let s := { logHistory s c 1 with retired := s.retired ++ [c] }
      let (s, action) := repairLane s link module 1
      report s (faultReport 4 action 3 0xFF c.num 0xFFFF 0xFF n 0 (if action = 3 then ownersOf s us else []))
    else s)

/-- SERDES_LANE_FAIL (R357, R506, R517): the lane is retired, the port narrows and trains again. -/
def execSerdesLaneFail (lane : Nat) (s : State) : Host.Outcome State Fault Refusal :=
  goOnKeep s (
    let c : Channel := { kind := 4, num := lane }
    if lane < 16 && !isRetired s c then
      let (s, n) := countError s c
      let (s, gone) := permanentFault s c
      report s (faultReport 5 (if gone then 3 else 0) 4 0xFF lane 0xFFFF 0xFF n 0 [])
    else s)

/-- PC_REMAP (R520): a retired pseudo-channel's contents are in the reserve, which holds two on each stack; with the reserve full it stays
RETIRED. -/
def execPcRemap (stack pc : Nat) (s : State) : Host.Outcome State Fault Refusal :=
  goOnKeep s (if stack < 2 && pc < 64 && isRetired s (pcChan stack pc) && (tget s.remaps (stack * 64 + pc)).isNone
      && (s.remaps.filter fun r => r.1 / 64 = stack).length < 2 then
    { s with remaps := tset s.remaps (stack * 64 + pc) (s.remaps.filter fun r => r.1 / 64 = stack).length }
  else s)

-- ------------------------------------------------------------------ the management processor (R529-R531, R538)

/-- MGMT_WATCHDOG (R529, R538): during FW_ACTIVATE it counts as a failed start. -/
def execMgmtWatchdog (s : State) : Host.Outcome State Fault Refusal :=
  goOnKeep s (if !ready s rdyMgmt then s
    else if s.mgmt.restarting then failedStart s
    else beginRestart (countError s { kind := 8, num := 0 }).1)

/-- Retirements that waited during the restart: each channel whose recorded events went over the budget (R529). -/
def settleRetirements (s : State) : State :=
  let due := s.errors.filter fun e => overBudget s e.2
  due.foldl (fun s e => (permanentFault s { kind := e.1 / 2 ^ 32, num := e.1 % 2 ^ 32 }).1) s

/-- The firmware reports READY (R529, R531): FW_ACTIVATE completes, a mailbox request in progress completes with TIMEOUT, waiting
retirements are made. -/
def firmwareUp (s : State) (image : Bytes) : State :=
  let v := Config.firmwareVersion image
  let hang := s.mgmt.activate.isNone
  let act := s.mgmt.activate
  let s := { s with mgmt := { s.mgmt with restarting := false, recovery := false, failedStarts := 0, startedAt := s.now, fwVersion := v,
                                          fwDate := Config.firmwareDate image, activate := none } }
  let s := finishCmd? s act stOK [(0, 4, v.toNat)]
  let s := match s.mgmt.mbox with | some q => mboxAnswer s q.seq stTimeout [0, 0, 0, 0] | none => s
  let s := settleRetirements s
  if hang then report s (faultReport 7 0 8 0xFF 0 0xFFFF 0xFF (tgetD s.errors (errKey { kind := 8, num := 0 }) []).length 0 []) else s

/-- MGMT_RESTART_DONE (R529, R531): without an image in flash the start cannot succeed. -/
def execMgmtRestartDone (s : State) : Host.Outcome State Fault Refusal :=
  goOnKeep s (if s.mgmt.restarting then
    match s.mgmt.flash with
    | some image => firmwareUp s image
    | none => s
  else s)

-- ------------------------------------------------------------------ the witness (R522, R523)

/-- WITNESS_REPORT (R522, R523): a report that a rule of another chapter raises; its STATUS is one of R9's. -/
def execWitnessReport (rep : Report) (s : State) : Host.Outcome State Fault Refusal :=
  goOnKeep s (if rep.status ≤ stJoinStarved then report s rep else s)

/-- WITNESS_HOLD_EXPIRE (R523): records whose hold has ended are written to their recipients' event rings, oldest first. -/
def execWitnessHoldExpire (s : State) : Host.Outcome State Fault Refusal :=
  goOnKeep s (
    let due := s.witness.filter fun w => w.closeAt ≤ s.now
    due.foldl (fun s w => writeEvent s w.rep w.time w.count) { s with witness := s.witness.filter fun w => s.now < w.closeAt })

-- ------------------------------------------------------------------ back-pressure (R548, R549)

/-- Is a back-pressure location's queue frozen in the present core cycle: in force, and in the first HOLD cycles of a PERIOD? -/
def bpFrozen (s : State) (n : Nat) : Bool :=
  let duty := regRaw s (tstBp + 8 * n + 4)
  regBit s tstCtrl 0 && regBit s (tstBp + 8 * n) 31 && cycleOf s % bits duty 15 8 < bits duty 7 0

/-- BP_DUTY_TICK (R549): the queue that a location names freezes or thaws, with whatever other location names it; a location on a die that is
down has no effect (R554). -/
def execBpDutyTick (loc : Nat) (s : State) : Host.Outcome State Fault Refusal :=
  goOnKeep s (
    let r := regRaw s (tstBp + 8 * loc)
    let core := bits r 14 0
    let same := fun n => regBits s (tstBp + 8 * n) 18 0 = bits r 18 0
    if loc < 4 && coreUp s core then
      modQ s core (bits r 16 15) (bits r 18 17) fun q => { q with frozen := (List.range 4).any fun n => same n && bpFrozen s n }
    else s)

end Sys2Proof.Machine
end

