-- ==== Sys2Proof/Machine/Bringup.lean ====
section
/-! DEFINITION. Resets and bring-up (R539-R545, R568), the board side (R582-R585, R588, R589, R592), the PCIe links (R425, R429, R496) and
the end of a port split (R356). -/

namespace Sys2Proof.Machine

open Sys2Proof

-- ------------------------------------------------------------------ what a reset keeps

/-- The RWS registers: the CAL_ user offsets (R568). -/
def isRws (off : Nat) : Bool :=
  let o := off - 0x2000
  0x2000 ≤ off && off < 0x3000
  && ((o < 0x200 && (o % 0x20 = 4 || o % 0x20 = 0x10)) || (0x400 ≤ o && o < 0x600 && (o % 0x20 = 4 || o % 0x20 = 0x10))
      || (0x600 ≤ o && o < 0x880 && o % 0x10 = 4))

/-- The model's own counters, the queue of commands and what lies outside the reset, carried over; the repair log and the flash are kept by
every reset (R537, R539). -/
def keepAlways (s z : State) : State :=
  { z with pending := s.pending, now := s.now, fresh := s.fresh, nextId := s.nextId, out := s.out, resetAt := s.now,
           retired := s.retired, byHand := s.byHand, shifts := s.shifts, shiftPend := s.shiftPend.map fun (x : Shift) => { x with cmd := none, deadline := none },
           history := s.history, histLost := s.histLost, lanesUsed := s.lanesUsed, remaps := s.remaps,
           clusters := s.clusters.filterMap fun c => if c.2.retired then some (c.1, { retired := true }) else none }

-- ------------------------------------------------------------------ power-on (R539, R543)

/-- POWER_ON_RESET (R539, R543): everything but OTP, flash and repair log. Without an image whose digest and signature hold, the recovery
loader runs. -/
def execPowerOnReset (digestOk : Bool) (s : State) : Host.Outcome State Fault Refusal :=
  goOn s (
    let z := keepAlways s State.reset
    let flash := (cutWrite s.mgmt).flash
    { z with mgmt := { z.mgmt with flash := flash, recovery := !digestOk || flash.isNone } })

-- ------------------------------------------------------------------ function reset (R540)

/-- Step 2 of R540 for one instance: destroyed as INS_DESTROY does, with a bound of zero. -/
def destroyNow (s : State) (n : Nat) : State :=
  let s := if instActive s n then beginReset s n 0 true false none else s
  let s := squashInst s n
  match (getInst s n).proc with
  | some p => if p.released then s else endReset s n { p with destroy := true }
  | none => s

/-- Step 2 of R540: armatures are removed without waiting, then every instance but 0 is destroyed. -/
def destroyAll (s : State) : State :=
  let s := (tkeys s.arms).foldl removeArm s
  (tkeys (s.instances.filter fun i => i.1 ≠ 0)).foldl destroyNow s

/-- What is left of a port: its link. -/
def bareness (q : Port) : Port := { linkUp := q.linkUp, lanes := q.lanes }

/-- Registers after a function reset: RWS fields, the READY bits of MGMT, FLT and TST, and SHUTDOWN, which shows the dies that are off. -/
def resetRegs (s : State) (cause : Nat) : State :=
  let z := { s with regs := s.regs.filter fun r => isRws r.1 }
  let z := regPut z glbReady (regRaw s glbReady % 8)
  let z := regPut z glbResetCause cause
  regPut z pwrTherm (regBits s pwrTherm 11 8 * 256)

/-- Steps 3 and 4 of R540: registers, every rings and object, SRAM and HBM; the split, the links, the clock and the management processor
stay. -/
def wipe (s : State) (cause : Nat) : State :=
  let z := keepAlways s (resetRegs s cause)
  let b : TimeBase := { clock := s.tb.clock, started := s.tb.started, fallback := s.tb.fallback }
  { z with
    tb := b, rings := [], cmds := [], rrLast := 0, mrs := [], instances := [], units := [], replySeq := [], bindCounters := [], tables := [],
    msgs := [], cores := [], inqs := [], xfifos := [], coreFired := [], exitSlots := [], csram := [], clsram := [], clPend := [],
    joinSince := [], joinDone := [], wdogPrev := none, hbm := [], regions := [], freeBlocks := List.range 368, hbmJobs := [], splitCmd := none,
    ports := s.ports.map (fun p => (p.1, bareness p.2)), buckets := [], rxBufUsed := 0, tlmMask := 0, tlmOn := false, tlmGap := 0,
    lfsr := 1, filters := [], filtersOld := [], filtersLapsed := [], tablesOld := [], qps := [], peers := [], services := [], results := [], arms := [], armStops := [], dieUp := 0, dieReturn := none,
    temps := [], hotNow := 0, srvLast := 0, srvQps := [] }

/-- A function reset (R540). One that comes in the FAB cycle of another only adds its cause (R575). Every port leaves loopback (R554). -/
def functionReset (s : State) (cause : Nat) : State :=
  if s.iodLost || s.poweredDown then s
  else if s.now / fabCycle = s.resetAt / fabCycle && regRaw s glbResetCause &&& 0xE ≠ 0 then regOr s glbResetCause cause
  else
    let looped := (portsOf s).filter fun p => portLoop s p ≠ 0
    let s := looped.foldl portDown s
    let s := match s.dieReturn with | some x => setPwren s x.die false | none => s
    refreshAlert (wipe (destroyAll s) cause)

/-- FUNC_RESET (R539, R540): by GLB_CTRL, or by an FLR on a link. -/
def execFuncReset (cause : ResetCause) (s : State) : Host.Outcome State Fault Refusal :=
  goOn s (match cause with
    | .register => if ready s rdyMgmt then functionReset s 2 else s
    | .flr0 => if linkUp s 0 then functionReset s 4 else s
    | .flr1 => if linkUp s 1 then functionReset s 8 else s)

-- ------------------------------------------------------------------ READY bits (R542-R545)

def anyPortReady (s : State) : Bool := (portsOf s).any (portReady s)

/-- The position in GLB_READY of a function's bit, and what it waits for (R542, R543). -/
def funcNeeds (s : State) (f : Func) : Nat × Bool :=
  let up := ready s rdyMgmt && !s.mgmt.recovery
  match f with
  | .mgmt => (0, true)
  | .flt => (1, ready s rdyMgmt)
  | .tst => (2, ready s rdyMgmt)
  | .tim => (3, up)
  | .port p => (10, up && portExists s p)
  | .shp => (4, up && anyPortReady s)
  | .wgt => (5, up)
  | .ins => (6, up)
  | .arr _ => (7, up && (List.range 4).all fun d => s.dieRail.getLsbD d || s.dieLost.getLsbD d)
  | .shf => (8, up && ready s rdyArr)
  | .arm => (9, up && ready s rdyArr && ready s rdyTim && anyPortReady s)

/-- A READY bit reaches 1; GLB_BOOT_TIME gives the ms from the reset to the last one (R545). -/
def nowReady (s : State) (k : Nat) : State :=
  regPut (regOr s glbReady (2 ^ k)) glbBootTime (min 65535 ((s.now - s.resetAt) / msec))

/-- A cluster that fails its self-test (R19, R543): retired and logged; its column shifts at once, since no unit uses it. -/
def failCluster (s : State) (c : Nat) : State :=
  if goneAlready s (clusterChan c) then s
  else
    let s := retireChannel s (clusterChan c) 1
    match s.shiftPend.find? fun x => x.die * 320 + x.row * 16 + x.column = c with
    | some x => if unitsToMove s x = [] then applyShift s x else s
    | none => s

/-- The management processor runs the firmware in flash, or the recovery loader (R542, R543). -/
def mgmtUp (s : State) : State :=
  let img := s.mgmt.flash.getD []
  if s.mgmt.recovery then { s with mgmt := { s.mgmt with startedAt := s.now } }
  else { s with mgmt := { s.mgmt with startedAt := s.now, fwVersion := Config.firmwareVersion img, fwDate := Config.firmwareDate img } }

/-- What a function's READY does besides its bit. -/
def funcUp (s : State) (f : Func) (k : Nat) : State :=
  match f with
  | .port p => regPut (regOr s (macStatus p) 1) glbBootTime (min 65535 ((s.now - s.resetAt) / msec))
  | .mgmt => nowReady (mgmtUp s) k
  | .arr failed =>
    let s := { s with dieUp := s.dieRail &&& ~~~s.dieLost }
    nowReady (failed.foldl failCluster s) k
  | .tim => nowReady { s with tb := { s.tb with started := true } } k
  | _ => nowReady s k

/-- Has a function reported READY already? -/
def isReady (s : State) (f : Func) (k : Nat) : Bool := match f with | .port p => portReady s p | _ => ready s k

/-- FUNCTION_READY (R541-R543): the condition holds and the function reports READY, or it fails and GLB_READY.FAIL names it. -/
def execFunctionReady (f : Func) (ok : Bool) (s : State) : Host.Outcome State Fault Refusal :=
  goOnKeep s (
    let n := funcNeeds s f
    if s.iodLost || s.poweredDown || isReady s f n.1 then s
    else if !ok then regPut s glbReady (regRaw s glbReady % 2 ^ 24 + n.1 * 2 ^ 24 + 2 ^ 31)
    else if n.2 then funcUp s f n.1
    else s)

-- ------------------------------------------------------------------ die power (R582)

/-- PWREN_RAISE (R582): CD0 first, once MGMT is ready, each later one after the one before; a rail that does not come up in 2 ms is a die that
failed to come up (R542). A die that was shut down or lost waits for FLT_DIE_RETURN (R40). -/
def execPwrenRaise (die : Nat) (railOk : Bool) (s : State) : Host.Outcome State Fault Refusal :=
  goOnKeep s (
    if die < 4 && ready s rdyMgmt && !s.iodLost && !s.poweredDown && !s.pwren.getLsbD die && !s.dieLost.getLsbD die
        && (die = 0 || s.pwren.getLsbD (die - 1) || s.dieLost.getLsbD (die - 1)) then
      let s := setPwren s die true
      if railOk then { s with dieRail := s.dieRail ||| (1#4 <<< die) }
      else regPut s glbReady (regRaw s glbReady % 2 ^ 24 + 7 * 2 ^ 24 + 2 ^ 31)
    else s)

-- ------------------------------------------------------------------ PCIe links and PERST# (R425, R429, R496, R582, R585)

/-- Power-down (R582, R592): every PWREN_CDn falls, all service stops, a firmware write is cut short. -/
def stopAll (s : State) : State :=
  let s := [0, 1, 2, 3].foldl (fun s d => setPwren s d false) s
  let s := (List.range 16).foldl portDown s
  { s with poweredDown := true, mgmt := cutWrite s.mgmt, dieUp := 0, dieRail := 0, regs := tdel s.regs glbReady, cmds := [], msgs := [],
           links := s.links.map fun l => (l.1, { l.2 with up := false, perst := true }) }

/-- POWER_DOWN (R582, R585). -/
def execPowerDown (s : State) : Host.Outcome State Fault Refusal := goOnKeep s (stopAll s)

/-- The reset of an instance whose home link is lost (R429, R496): with the default bound, reported to the manager. One that is in progress goes on as
such a reset, and completes once (R503). -/
def linkReset (s : State) (link n : Nat) : State :=
  if instActive s n || (getInst s n).st = .resetting then
    let s :=
      if instActive s n then beginReset s n (resetBound s 0) false true none
      else modInst s n fun i => { i with proc := i.proc.map fun p => { p with byLink := true } }
    let s := regOr s insEvent 4
    report s (faultReport 9 0 7 0xFF link 0xFFFF 0xFF (tgetD s.errors (errKey { kind := 7, num := link }) []).length 0 [])
  else s

/-- A link goes down (R429, R517): an error event of its channel; with the other one down too, the host side is lost. -/
def loseLink (s : State) (link : Nat) : State :=
  let s := endLogs { s with links := tmod s.links link fun l => { l with up := false } } link
  let s := (countError s { kind := 7, num := link }).1
  if linkUp s (1 - link) then
    (tkeys (s.instances.filter fun i => i.1 ≠ 0 && i.2.home = link)).foldl (fun s n => linkReset s link n) s
  else loseIod s

/-- PCIE_LINK_DOWN (R429). -/
def execPcieLinkDown (link : Nat) (s : State) : Host.Outcome State Fault Refusal :=
  goOnKeep s (if link < 2 && linkUp s link then loseLink s link else s)

/-- PERST_ASSERT_ONE (R585): only that link goes down; with the other PERST# asserted as well it is a power-down. -/
def execPerstAssertOne (link : Nat) (s : State) : Host.Outcome State Fault Refusal :=
  goOnKeep s (
    if link < 2 && !s.poweredDown then
      let s := { s with links := tmod s.links link fun l => { l with perst := true } }
      if (tgetD s.links (1 - link) {}).perst then stopAll s
      else if linkUp s link then loseLink s link
      else s
    else s)

/-- PCIE_LINK_UP (R425, R585): PERST# is deasserted, the link trains. -/
def execPcieLinkUp (link gen : Nat) (s : State) : Host.Outcome State Fault Refusal :=
  goOnKeep s (if link < 2 && !s.poweredDown && !s.iodLost then
    { s with links := tmod s.links link fun l => { l with up := true, gen := gen, perst := false } }
  else s)

-- ------------------------------------------------------------------ SMBus (R589)

/-- The answer to a block read, none being a NACK; zero before GLB_READY.MGMT reads 1. -/
def smbusAnswer (s : State) (code : Nat) : Option Bytes :=
  let v := fun off n => toLe n (if ready s rdyMgmt then readReg s off else 0)
  match code with
  | 1 => some (v pwrTempMax 4)
  | 2 => some (v pwrTempIod 1)
  | 3 => some (v pwrTherm 2)
  | 4 => some (v 0x10C0 4)
  | _ => none

/-- SMBUS_READ (R589). -/
def execSmbusRead (code : Byte) (s : State) : Host.Outcome State Fault Refusal :=
  goOnKeep s (emit s (.smbus (smbusAnswer s code.toNat)))

-- ------------------------------------------------------------------ the end of a port split (R356)

/-- SPLIT_CONFIG_IN_FORCE (R356): every port of the split has its configuration in force and is READY. -/
def execSplitConfigInForce (s : State) : Host.Outcome State Fault Refusal :=
  goOnKeep s (match s.splitCmd with
    | some id => finishCmd { (portsOf s).foldl (fun s p => regOr s (macStatus p) 1) s with splitCmd := none } id stOK []
    | none => s)

end Sys2Proof.Machine
end

