-- ==== Sys2Proof/Machine/Registers.lean ====
section
/-! DEFINITION. Writes to BAR0 (R564-R575): what each register's access code stores, clears or rejects (R6), and the registers whose writes do
more: the administration rings (R571, R572), the mailbox (R573), resets (R545), time (R399, R402, R406, R415, R423), calibration (R532-R534),
filters (R363), shapers (R388, R395), flow control (R376), transport (R354), the armature (R309) and the test block (R546, R552-R555). -/

namespace Sys2Proof.Machine

open Sys2Proof

-- ------------------------------------------------------------------ the access codes (R6)

/-- RW bits take the value written, a 1 clears a W1C bit that the adapter does not set in the same FAB cycle; every other bit stays (R6, R8). -/
def storeWrite (s : State) (off v : Nat) (d : RegDesc) : State :=
  if d.rw = 0 ∧ d.w1c = 0 then s
  else regPut s off (((regRaw s off &&& (0xFFFFFFFF ^^^ d.rw)) ||| (v &&& d.rw)) &&& (0xFFFFFFFF ^^^ (v &&& d.w1c &&& (0xFFFFFFFF ^^^ setNow s off))))

/-- A field out of range: the write is ignored and recorded. -/
def checkedWrite (s : State) (off v : Nat) (d : RegDesc) : State :=
  if fieldsInRange d v then storeWrite s off v d else rejectWrite s off

-- ------------------------------------------------------------------ GLB_: the administration rings (R570-R572)

def adminBase (s : State) (cpl : Bool) : Nat :=
  if cpl then regRaw s glbAdminCplBaseLo + regRaw s glbAdminCplBaseHi * 2 ^ 32 else regRaw s glbAdminBaseLo + regRaw s glbAdminBaseHi * 2 ^ 32

def adminEntries (s : State) (cpl : Bool) : Nat := regRaw s (if cpl then glbAdminCplEntries else glbAdminEntries)

/-- A base on a 4 KiB boundary and an entry count that is a power of two from 64 to 65 536. -/
def adminRingOk (s : State) (cpl : Bool) : Bool :=
  adminBase s cpl % 4096 = 0 && 64 ≤ adminEntries s cpl && adminEntries s cpl ≤ 65536 && isPow2 (adminEntries s cpl)

/-- The two rings do not overlap. -/
def adminApart (s : State) : Bool :=
  adminBase s false + 64 * adminEntries s false ≤ adminBase s true || adminBase s true + 64 * adminEntries s true ≤ adminBase s false

/-- Every check of R571 but that of MGMT. -/
def adminOk (s : State) (home : Nat) : Bool :=
  adminRingOk s false && adminRingOk s true && regBit s (if home = 0 then glbMgrPasid0 else glbMgrPasid1) 31 && adminApart s

/-- Instance 0 exists, with its rings at index 0 and its key (R475, R489, R571). -/
def enableAdmin (s : State) (v : Nat) : State :=
  let s := regPut s glbAdminCtrl (v % 8)
  let irq := regRaw s glbAdminCplIrq
  let cmd : Ring := { kind := rkAdmin, base := adminBase s false, entries := adminEntries s false }
  let cpl : Ring := { kind := rkAdminCpl, base := adminBase s true, entries := adminEntries s true, vector := bits irq 10 0,
                      modCount := bits irq 31 16, modUsec := regBits s glbAdminCplMod 15 0, splitPhase := bit v 2 }
  let s := modInst s 0 fun i =>
    { i with st := .active, home := b2n (bit v 1), pasid0 := pasidField (regRaw s glbMgrPasid0), pasid1 := pasidField (regRaw s glbMgrPasid1),
             key := some (Config.xtsKey s.fresh) }
  { s with fresh := s.fresh + 1, rings := tset (tset s.rings (ringKey rkAdmin 0) cmd) (ringKey rkAdminCpl 0) cpl }

/-- A write to GLB_ADMIN_CTRL (R571). -/
def writeAdminCtrl (s : State) (v : Nat) : State :=
  if regBit s glbAdminCtrl 0 then rejectWrite s glbAdminCtrl
  else if bit v 0 then
    if adminOk s (b2n (bit v 1)) then enableAdmin s v else regOr (regPut s glbAdminCtrl (v % 8 / 2 * 2)) glbEvent 1
  else regPut s glbAdminCtrl (v % 8)

/-- Registers that are fixed while EN is 1. -/
def adminFixed (off : Nat) : Bool :=
  [glbAdminBaseLo, glbAdminBaseHi, glbAdminEntries, glbAdminCplBaseLo, glbAdminCplBaseHi, glbAdminCplEntries, glbMgrPasid0,
   glbMgrPasid1].contains off

/-- Vector and moderation apply from the next entry written (R572). -/
def refreshAdminCpl (s : State) : State :=
  let irq := regRaw s glbAdminCplIrq
  let f := fun r : Ring => { r with vector := bits irq 10 0, modCount := bits irq 31 16, modUsec := regBits s glbAdminCplMod 15 0 }
  if regBit s glbAdminCtrl 0 then modRing s (ringKey rkAdminCpl 0) f else s

/-- The GLB_ block. -/
def writeGlb (s : State) (off v : Nat) (d : RegDesc) : State :=
  if off = glbCtrl then (if bit v 0 then functionReset s 2 else s)
  else if off = glbAdminCtrl then writeAdminCtrl s v
  else if adminFixed off then (if regBit s glbAdminCtrl 0 then rejectWrite s off else storeWrite s off v d)
  else if off = glbMboxReq then mboxPost s v
  else if off = glbAdminCplIrq ∨ off = glbAdminCplMod then refreshAdminCpl (checkedWrite s off v d)
  else checkedWrite s off v d

-- ------------------------------------------------------------------ CAL_ (R415, R532-R534)

/-- Is a SerDes or thermal user offset in its range? -/
def calUserOk (o v : Nat) : Bool :=
  if o < 0x200 then
    o % 0x20 = 4 || (-32 ≤ sgn 8 (bits v 7 0) && sgn 8 (bits v 7 0) ≤ 31 && -8 ≤ sgn 5 (bits v 12 8) && sgn 5 (bits v 12 8) ≤ 7)
  else -20 ≤ sgn 8 (bits v 7 0) && sgn 8 (bits v 7 0) ≤ 20

/-- Does a sum of factory and user codes leave its field? -/
def calClamps (o f u : Nat) : Bool :=
  if o < 0x200 then
    if o % 0x20 = 4 then [0, 8, 16].any fun b => effCode 0 63 (bits f (b + 5) b : Nat) (sgn 6 (bits u (b + 5) b)) ≠ (bits f (b + 5) b : Nat) + sgn 6 (bits u (b + 5) b)
    else effCode (-128) 127 (sgn 8 (bits f 7 0)) (sgn 8 (bits u 7 0)) ≠ sgn 8 (bits f 7 0) + sgn 8 (bits u 7 0)
      || effCode 0 31 (bits f 12 8 : Nat) (sgn 5 (bits u 12 8)) ≠ (bits f 12 8 : Nat) + sgn 5 (bits u 12 8)
  else effCode (-128) 127 (sgn 8 (bits f 7 0)) (sgn 8 (bits u 7 0)) ≠ sgn 8 (bits f 7 0) + sgn 8 (bits u 7 0)

/-- A SerDes or thermal user offset: the new effective value is in force (R532, R533). -/
def writeCalUser (s : State) (off v : Nat) (d : RegDesc) : State :=
  let o := off - 0x2000
  if calUserOk o v then
    let s := storeWrite s off v d
    let s := if calClamps o (otpReg (off - 4)) (regRaw s off) then regOr s calEvent 1 else s
    emit s (.calibrate (off + 4) (BitVec.ofNat 32 (readReg s (off + 4))))
  else rejectWrite s off

/-- A timestamp user offset (R415): −100 ns to +100 ns, in force from the next frame boundary in its direction. -/
def writeTsUser (s : State) (off v : Nat) (d : RegDesc) : State :=
  if (sgn 32 v).natAbs ≤ 6553600 then storeWrite s off v d else regOr s timEvent 16

/-- The CAL_ block. -/
def writeCal (s : State) (off v : Nat) (d : RegDesc) : State :=
  if !isRws off then storeWrite s off v d
  else if 0x2400 ≤ off && off < 0x2600 then writeTsUser s off v d
  else writeCalUser s off v d

-- ------------------------------------------------------------------ TIM_ (R399, R402, R423)

/-- R402: log Sync and log Pdelay_Req from −7 to 4, log Announce from −3 to 4. -/
def intervalsOk (v : Nat) : Bool :=
  let f := fun (k : Nat) (lo : Int) => lo ≤ sgn 8 (bits v (8 * k + 7) (8 * k)) && sgn 8 (bits v (8 * k + 7) (8 * k)) ≤ 4
  f 0 (-7) && f 1 (-7) && f 2 (-3)

/-- TIM_CAPTURE (R423): the clock in the present TIME cycle. -/
def captureClock (s : State) : State :=
  let t := net16 s
  let s := regPut s timSnapSecLo (secsOf t % 2 ^ 32)
  let s := regPut s timSnapSecHi (secsOf t / 2 ^ 32 % 2 ^ 16)
  regPut (regPut s timSnapNs (nsOf t)) timSnapFrac (fracOf t)

/-- A bound below the present |a| limits it (R399; log entry 1 of the servo: at once). -/
def limitAdj (s : State) : State :=
  let b : Int := slewBound s
  { s with tb := { s.tb with adj := clampI (-b) b s.tb.adj } }

def writeTim (s : State) (off v : Nat) (d : RegDesc) : State :=
  if off = timCapture then (if bit v 0 then captureClock s else s)
  else if off = timIntervals then (if intervalsOk v then storeWrite s off v d else rejectWrite s off)
  else if off = timSlewBound then limitAdj (checkedWrite s off v d)
  else checkedWrite s off v d

-- ------------------------------------------------------------------ registers whose event bits validate others (R175, R309, R536)

/-- A location register becomes invalid when its event bit is cleared. -/
def invalidate (s : State) (off : Nat) : State := regClr s off 0x80000000

/-- Clearing an event bit by a write of 1. -/
def clears (s : State) (off v i : Nat) : Bool := bit v i && regBit s off i && !bit (setNow s off) i

def writeEventReg (s : State) (off v : Nat) (d : RegDesc) : State :=
  let s' := storeWrite s off v d
  if off = arrEvent then
    let s' := if clears s off v 0 then invalidate s' arrStarveLoc else s'
    if clears s off v 1 then invalidate s' arrParityLoc else s'
  else if off = armEvent then (if clears s off v 0 then invalidate s' armLateLoc else s')
  else if off = fltEvent then (if clears s off v 0 then invalidate s' fltWitness else s')
  else if off = pwrTherm then refreshAlert s'
  else s'

-- ------------------------------------------------------------------ ARM_, WGT_ (R309, R354)

def writeArm (s : State) (off v : Nat) (d : RegDesc) : State :=
  if off = armEvent then writeEventReg s off v d
  else if (off = armEthertype ∨ off = armTc ∨ off = armMaxShare) ∧ s.arms ≠ [] then rejectWrite s off
  else checkedWrite s off v d

/-- ARR_JOIN_WDOG: the value before the write is kept for the rest of the cycle (R173). -/
def writeWdog (s : State) (off v : Nat) (d : RegDesc) : State :=
  let old := regBits s off 20 0
  let c := cycleOf s
  let s := checkedWrite s off v d
  if s.wdogPrev.any (·.1 = c) then s else { s with wdogPrev := some (c, old) }

/-- R354: fields that depend on another register, or on another field of the write. -/
def wgtFieldsOk (s : State) (off v : Nat) : Bool :=
  let n := (off - wgtCc) / 0x20
  let r := fun k => regBits s (wgtCcReg n k) 23 0
  if off = wgtUdpPort then !(tvals s.qps).any fun q => q.live && (q.st = .rtr || q.st = .rts)
  else if off = wgtRto then bits v 15 0 ≤ bits v 31 16 * 1000
  else if off < wgtCc then true
  else
    match (off - wgtCc) % 0x20 / 4 with
    | 3 => r 4 ≤ bits v 23 0 && bits v 23 0 ≤ r 5
    | 4 => bits v 23 0 ≤ r 5
    | _ => true

def writeWgt (s : State) (off v : Nat) (d : RegDesc) : State :=
  if wgtFieldsOk s off v then checkedWrite s off v d else rejectWrite s off

-- ------------------------------------------------------------------ SHP_ (R388, R395)

/-- A class bucket's register: j = 0 and 1 the shaper's RATE and BURST, 2 and 3 the policer's. FORGIVE acts and is not stored; a RATE of
1 600 001 to 0x1F_FFFE is refused. -/
def writeBucket (s : State) (off v : Nat) (d : RegDesc) : State :=
  let k := (off - shpClass) / 0x10
  let j := off % 0x10 / 4
  let key := classBucket (k / 8) (k % 8) (j / 2 = 1)
  if j % 2 = 0 then
    if rateOk (bits v 20 0) then bucketRate (storeWrite s off v d) key (bits v 20 0) (bit v 31) else rejectWrite s off
  else if fieldsInRange d v then
    let s := bucketBurst (storeWrite s off v d) key (bits v 23 0)
    if j = 3 then { s with buckets := tmod s.buckets key fun b => { b with mark := bit v 24 } } else s
  else rejectWrite s off

-- ------------------------------------------------------------------ MAC_p_ (R363, R376, R377)

/-- R376: XON below XOFF, XOFF at least 256 KiB below RX_LIMIT, the other register as it is in force. -/
def fcThreshOk (s : State) (p o v : Nat) : Bool :=
  let th := if o = 0x18 then v else regRaw s (macFcThresh p)
  let lim := if o = 0x1C then bits v 15 0 else regBits s (macRxLimit p) 15 0
  bits th 31 16 < bits th 15 0 && bits th 15 0 + 256 ≤ lim

/-- A filter word: an entry takes effect as LO is written (R363), for a frame of the same cycle not yet (R392). -/
def writeFilter (s : State) (p off v : Nat) (d : RegDesc) : State :=
  if fieldsInRange d v then
    let s := storeWrite s off v d
    if off % 8 = 0 then
      let k := p * 256 + (off % 0x1000 - 0x400) / 8
      { s with filters := tsetD s.filters k 0 (BitVec.ofNat 64 (regRaw s off + regRaw s (off + 4) * 2 ^ 32)),
               filtersOld := tset s.filtersOld k (fabOf s, filterBefore s k), filtersLapsed := s.filtersLapsed.filter (· ≠ k) }
    else s
  else rejectWrite s off

/-- LPI.EN was written: with it clear a port leaves low-power idle, and sends again after the wake time (R377, R378). -/
def lpiWritten (s : State) (p : Nat) : State :=
  if !regBit s (macLpi p) 0 && (getPort s p).lpiTx then
    modPort s p fun q => { q with lpiTx := false, wakeAt := some (s.now + wakeNs s p * nsec) }
  else s

/-- MAC_p_FC was written: no pause stands for what the adapter does not pause any more (R371). -/
def fcWritten (s : State) (p mode : Nat) : State :=
  modPort s p fun q => { q with xoffAt := q.xoffAt.filter fun x => fcMode s p = mode && fcSends s p x.1 }

def writeMac (s : State) (off v : Nat) (d : RegDesc) : State :=
  let p := (off - 0x20000) / 0x1000
  let o := off % 0x1000
  if 0x400 ≤ o then writeFilter s p off v d
  else if o = 0x14 ∨ o = 0x18 ∨ o = 0x1C then
    if fcThreshOk s p o v then checkedWrite s off v d else rejectWrite s off
  else if o = 0x10 then fcWritten (checkedWrite s off v d) p (fcMode s p)
  else if o = 0x28 then lpiWritten (negotiateLpi (checkedWrite s off v d) p) p
  else checkedWrite s off v d

-- ------------------------------------------------------------------ TST_ (R546, R548-R555)

/-- The queue that a back-pressure location names thaws; a location in force freezes it again in its next cycle (R554). -/
def thaw (s : State) (n : Nat) : State :=
  let r := regRaw s (tstBp + 8 * n)
  let key := qKey (bits r 14 0) (bits r 16 15) (bits r 18 17)
  { s with inqs := tmod s.inqs key fun q => { q with frozen := false } }

def thawAll (s : State) : State := { s with inqs := s.inqs.map fun q => (q.1, { q.2 with frozen := false }) }

/-- A port's loopback mode (R546, R554): refused on a port that carries armature windows; a change takes the link down, and the port leaves the
PTP instance (R547). -/
def writeLoop (s : State) (p v : Nat) : State :=
  let off := tstLoop + 4 * p
  if (tvals s.arms).any fun a => armPortWindows a p ≠ [] then rejectWrite s off
  else if regBits s off 1 0 = v % 4 then s
  else
    let s := portDown s p
    let s := regOr (regPut s off (v % 4)) (macEvent p) 1
    let s := modPort s p fun q => { q with sfRx := sfWanted s p, sfTx := sfWanted s p }
    if s.tb.master = some p then loseMaster s else s

def writeTst (s : State) (off v : Nat) (d : RegDesc) : State :=
  let o := off - 0xA000
  if off = tstTsSeed then
    if fieldsInRange d v then { storeWrite s off v d with lfsr := BitVec.ofNat 32 v } else rejectWrite s off
  else if 0xE0 ≤ o then writeLoop s ((o - 0xE0) / 4) v
  else if off = tstCtrl then
    let s := storeWrite s off v d
    if bit v 0 then s else thawAll s
  else if 0x10 ≤ o ∧ o < 0x30 then
    if o % 8 = 0 then (if fieldsInRange d v then storeWrite (thaw s ((o - 0x10) / 8)) off v d else rejectWrite s off)
    else if fieldsInRange d v && bits v 7 0 ≤ bits v 15 8 then storeWrite s off v d
    else rejectWrite s off
  else checkedWrite s off v d

-- ------------------------------------------------------------------ a write of 4 bytes (R541, R563, R565)

/-- The register's own block carries out the write. -/
def blockWrite (s : State) (off v : Nat) (d : RegDesc) : State :=
  if off < 0x1000 then writeGlb s off v d
  else if off < 0x2000 then s
  else if off < 0x3000 then writeCal s off v d
  else if off < 0x4000 then writeTim s off v d
  else if off = pwrTherm ∨ off = arrEvent ∨ off = fltEvent then writeEventReg s off v d
  else if off = arrJoinWdog then writeWdog s off v d
  else if off < 0x7000 then checkedWrite s off v d
  else if off < 0x8000 then writeArm s off v d
  else if off < 0xA000 then checkedWrite s off v d
  else if off < 0xB000 then writeTst s off v d
  else if off < 0x10000 then writeWgt s off v d
  else if 0x11000 ≤ off ∧ off < 0x20000 then writeBucket s off v d
  else if 0x20000 ≤ off ∧ off < 0x30000 then writeMac s off v d
  else checkedWrite s off v d

/-- A write of 4 bytes: ignored at a reserved offset, before its block is READY, and for a port that does not exist, which SHP_ records. -/
def writeReg (s : State) (off v : Nat) : State :=
  match regDesc off with
  | none => s
  | some d =>
    let here := ((regPort off).map (portExists s)).getD true
    if !here then (if 0x11000 ≤ off && off < 0x11800 && ready s rdyShp then regOr s shpEvent 1 else s)
    else if blockReady s off then blockWrite s off v d
    else s

/-- REGISTER_WRITE (R564): 4 or 8 bytes, aligned, every byte enabled; an 8-byte write is the lower half, then the upper. -/
def execRegisterWrite (off size : Nat) (allBytes : Bool) (v : DWord) (s : State) : Host.Outcome State Fault Refusal :=
  goOn s (
    if !allBytes || !(size = 4 || size = 8) || off % size ≠ 0 then regOr s glbEvent 4
    else if size = 4 then writeReg s off (loWord v)
    else writeReg (writeReg s off (loWord v)) (off + 4) (hiWord v))

-- ------------------------------------------------------------------ the writes with a row of their own

/-- ADMIN_ENABLE (R571): a write to GLB_ADMIN_CTRL. -/
def execAdminEnable (v : Word) (s : State) : Host.Outcome State Fault Refusal := goOn s (writeReg s glbAdminCtrl v.toNat)

/-- TIM_CAPTURE (R423). -/
def execTimCapture (v : Word) (s : State) : Host.Outcome State Fault Refusal := goOn s (writeReg s timCapture v.toNat)

/-- PWR_LIMIT_WRITE (R35, R36). -/
def execPwrLimitWrite (v : Word) (s : State) : Host.Outcome State Fault Refusal := goOn s (writeReg s pwrLimit v.toNat)

/-- JOIN_WDOG_WRITE (R173). -/
def execJoinWdogWrite (v : Word) (s : State) : Host.Outcome State Fault Refusal := goOn s (writeReg s arrJoinWdog v.toNat)

/-- STREAM_POOL_WRITE (R198). -/
def execStreamPoolWrite (v : Word) (s : State) : Host.Outcome State Fault Refusal := goOn s (writeReg s shfStreamPool v.toNat)

/-- SLEW_BOUND_WRITE (R399). -/
def execSlewBoundWrite (v : Word) (s : State) : Host.Outcome State Fault Refusal := goOn s (writeReg s timSlewBound v.toNat)

/-- TS_USER_OFFSET_WRITE (R415): CAL_TS_p_RX_USER or CAL_TS_p_TX_USER. -/
def execTsUserOffsetWrite (port : Nat) (tx : Bool) (v : Word) (s : State) : Host.Outcome State Fault Refusal :=
  goOn s (if port < 16 then writeReg s (calTs port (if tx then 4 else 1)) v.toNat else s)

/-- CAL_OFFSET_WRITE (R532, R533): a SerDes or thermal user offset. -/
def execCalOffsetWrite (off : Nat) (v : Word) (s : State) : Host.Outcome State Fault Refusal :=
  goOn s (if isRws off then writeReg s off v.toNat else s)

/-- FILTER_WRITE (R363): word n of a port's filter table, LO words even, HI words odd. -/
def execFilterWrite (port n : Nat) (v : Word) (s : State) : Host.Outcome State Fault Refusal :=
  goOn s (if port < 16 ∧ n < 512 then writeReg s (macFilt port + 4 * n) v.toNat else s)

/-- SHAPER_RATE_WRITE (R388, R395): the shaper's or policer's RATE of a class bucket. -/
def execShaperRateWrite (bucket : Nat) (rx : Bool) (v : Word) (s : State) : Host.Outcome State Fault Refusal :=
  goOn s (if bucket < 128 then writeReg s (shpReg bucket (if rx then 2 else 0)) v.toNat else s)

/-- TS_SEED_WRITE (R552, R555). -/
def execTsSeedWrite (v : Word) (s : State) : Host.Outcome State Fault Refusal := goOn s (writeReg s tstTsSeed v.toNat)

/-- LOOPBACK_WRITE (R546). -/
def execLoopbackWrite (port : Nat) (v : Word) (s : State) : Host.Outcome State Fault Refusal :=
  goOn s (if port < 16 then writeReg s (tstLoop + 4 * port) v.toNat else s)

-- ------------------------------------------------------------------ writes that wait for a boundary (R369, R400, R406)

/-- PATH_MODE_APPLY (R369): at a frame boundary of the direction. -/
def execPathModeApply (port : Nat) (tx : Bool) (s : State) : Host.Outcome State Fault Refusal :=
  goOnKeep s (
    let q := getPort s port
    if !portExists s port then s
    else if tx then
      if q.txBusyUntil ≤ s.now then modPort s port fun q => { q with sfTx := sfWanted s port } else s
    else if q.rx.isNone then modPort s port fun q => { q with sfRx := sfWanted s port }
    else s)

/-- The master goes without HOLDOVER: a role in which none is followed. -/
def dropMaster (s : State) (st : TbState) : State :=
  { s with tb := { s.tb with st := st, master := none, masterMsg := [], foreign := [], syncWait := none, goodSyncs := 0 } }

/-- A role that is in force changes (R405, R406). -/
def changeTimRole (s : State) (old new : Nat) : State :=
  let role := bits new 1 0
  let s := { s with tb := { s.tb with role := BitVec.ofNat 32 new } }
  let moved := bits old 10 2 ≠ bits new 10 2 || bits old 28 27 ≠ bits new 28 27
  if role = 0 then dropMaster s .free
  else if role = 3 then (if s.tb.st = .grandmaster then s else dropMaster s .grandmaster)
  else if s.tb.st = .grandmaster then dropMaster s .free
  else
    let cut := s.tb.master.isSome && (moved || s.tb.master.any fun p => !bit new (11 + p))
    let s := if moved then { s with tb := { s.tb with foreign := [] } } else s
    if cut then loseMaster s else s

/-- TIM_ROLE_APPLY (R400, R406): at an Announce interval boundary of the time base, the times that are whole numbers of intervals (DESIGN CHOICE: R400
gives the boundaries no origin; log entry 115). -/
def execTimRoleApply (s : State) : Host.Outcome State Fault Refusal :=
  goOnKeep s (
    let new := regRaw s timRole
    let old := s.tb.role.toNat
    if ready s rdyTim && old ≠ new && s.now % ptpInterval s 2 = 0 then changeTimRole s old new else s)

end Sys2Proof.Machine
end

