-- ==== Sys2Proof/Machine/Dispatch.lean ====
section
/-! DEFINITION. The meaning of each command: one arm per row of the table, each a direct call of its meaning. -/

namespace Sys2Proof.Machine

open Sys2Proof

def exec (i : Instr) (s : State) : Host.Outcome State Fault Refusal :=
  match i with
  | .load r d => Sys2Proof.Machine.execLoad r d s
  | .loadVerifyDone unit image => Sys2Proof.Machine.execLoadVerifyDone unit image s
  | .fire r d => Sys2Proof.Machine.execFire r d s
  | .cool r d => Sys2Proof.Machine.execCool r d s
  | .swap r d => Sys2Proof.Machine.execSwap r d s
  | .swapEntryPoint unit => Sys2Proof.Machine.execSwapEntryPoint unit s
  | .shelfPatternSwitch cluster => Sys2Proof.Machine.execShelfPatternSwitch cluster s
  | .query r d => Sys2Proof.Machine.execQuery r d s
  | .drainComplete unit => Sys2Proof.Machine.execDrainComplete unit s
  | .drainBoundExpire unit => Sys2Proof.Machine.execDrainBoundExpire unit s
  | .scrubComplete unit => Sys2Proof.Machine.execScrubComplete unit s
  | .bindTable r d => Sys2Proof.Machine.execBindTable r d s
  | .stats r d => Sys2Proof.Machine.execStats r d s
  | .seqAttach r d => Sys2Proof.Machine.execSeqAttach r d s
  | .seqDetach r d => Sys2Proof.Machine.execSeqDetach r d s
  | .seqDetachDone qp => Sys2Proof.Machine.execSeqDetachDone qp s
  | .cqCreate r d => Sys2Proof.Machine.execCqCreate r d s
  | .cqModify r d => Sys2Proof.Machine.execCqModify r d s
  | .cqDestroy r d => Sys2Proof.Machine.execCqDestroy r d s
  | .ringCreate r d => Sys2Proof.Machine.execRingCreate r d s
  | .ringDestroy r d => Sys2Proof.Machine.execRingDestroy r d s
  | .mrReg r d => Sys2Proof.Machine.execMrReg r d s
  | .mrDereg r d => Sys2Proof.Machine.execMrDereg r d s
  | .qpCreate r d => Sys2Proof.Machine.execQpCreate r d s
  | .qpModifyRtr r d => Sys2Proof.Machine.execQpModifyRtr r d s
  | .qpModifyRts r d => Sys2Proof.Machine.execQpModifyRts r d s
  | .qpModifyInRts r d => Sys2Proof.Machine.execQpModifyInRts r d s
  | .qpModifyError r d => Sys2Proof.Machine.execQpModifyError r d s
  | .qpModifyReset r d => Sys2Proof.Machine.execQpModifyReset r d s
  | .qpQuery r d => Sys2Proof.Machine.execQpQuery r d s
  | .qpDestroy r d => Sys2Proof.Machine.execQpDestroy r d s
  | .shape r d => Sys2Proof.Machine.execShape r d s
  | .armCreate r d => Sys2Proof.Machine.execArmCreate r d s
  | .armStart r d => Sys2Proof.Machine.execArmStart r d s
  | .armStop r d => Sys2Proof.Machine.execArmStop r d s
  | .armDestroy r d => Sys2Proof.Machine.execArmDestroy r d s
  | .armPromote r d => Sys2Proof.Machine.execArmPromote r d s
  | .armDemote r d => Sys2Proof.Machine.execArmDemote r d s
  | .armQuery r d => Sys2Proof.Machine.execArmQuery r d s
  | .portSplit r d => Sys2Proof.Machine.execPortSplit r d s
  | .gateCommit r d => Sys2Proof.Machine.execGateCommit r d s
  | .gateCommitCancel r d => Sys2Proof.Machine.execGateCommitCancel r d s
  | .timeStep r d => Sys2Proof.Machine.execTimeStep r d s
  | .tlmSet r d => Sys2Proof.Machine.execTlmSet r d s
  | .insCreate r d => Sys2Proof.Machine.execInsCreate r d s
  | .insDestroy r d => Sys2Proof.Machine.execInsDestroy r d s
  | .insReset r d => Sys2Proof.Machine.execInsReset r d s
  | .insDrainBoundExpire inst => Sys2Proof.Machine.execInsDrainBoundExpire inst s
  | .insResetComplete inst => Sys2Proof.Machine.execInsResetComplete inst s
  | .insShare r d => Sys2Proof.Machine.execInsShare r d s
  | .insClustersAdd r d => Sys2Proof.Machine.execInsClustersAdd r d s
  | .insClustersRemove r d => Sys2Proof.Machine.execInsClustersRemove r d s
  | .hbmRegionCreate r d => Sys2Proof.Machine.execHbmRegionCreate r d s
  | .hbmRegionRelease r d => Sys2Proof.Machine.execHbmRegionRelease r d s
  | .hbmScrubDone => Sys2Proof.Machine.execHbmScrubDone s
  | .insLogStart r d => Sys2Proof.Machine.execInsLogStart r d s
  | .insLogSync r d => Sys2Proof.Machine.execInsLogSync r d s
  | .insLogStop r d => Sys2Proof.Machine.execInsLogStop r d s
  | .logSyncDone inst link => Sys2Proof.Machine.execLogSyncDone inst link s
  | .dirtyPageMark inst link => Sys2Proof.Machine.execDirtyPageMark inst link s
  | .insQuery r d => Sys2Proof.Machine.execInsQuery r d s
  | .fltLog r d => Sys2Proof.Machine.execFltLog r d s
  | .fltRetire r d => Sys2Proof.Machine.execFltRetire r d s
  | .fltReturn r d => Sys2Proof.Machine.execFltReturn r d s
  | .fltShift r d => Sys2Proof.Machine.execFltShift r d s
  | .spareShiftApply die column => Sys2Proof.Machine.execSpareShiftApply die column s
  | .fltShiftBoundExpire => Sys2Proof.Machine.execFltShiftBoundExpire s
  | .fltDieReturn r d => Sys2Proof.Machine.execFltDieReturn r d s
  | .dieReturnDone die ok failed => Sys2Proof.Machine.execDieReturnDone die ok failed s
  | .fwWrite r d => Sys2Proof.Machine.execFwWrite r d s
  | .fwActivate r d => Sys2Proof.Machine.execFwActivate r d s
  | .fwStartTimeout => Sys2Proof.Machine.execFwStartTimeout s
  | .fwInfo seq arg => Sys2Proof.Machine.execFwInfo seq arg s
  | .uptime seq arg => Sys2Proof.Machine.execUptime seq arg s
  | .linkInfo seq arg => Sys2Proof.Machine.execLinkInfo seq arg s
  | .lldpPeer seq arg => Sys2Proof.Machine.execLldpPeer seq arg s
  | .mboxComplete => Sys2Proof.Machine.execMboxComplete s
  | .funcReset cause => Sys2Proof.Machine.execFuncReset cause s
  | .adminEnable v => Sys2Proof.Machine.execAdminEnable v s
  | .timCapture v => Sys2Proof.Machine.execTimCapture v s
  | .pwrLimitWrite v => Sys2Proof.Machine.execPwrLimitWrite v s
  | .joinWdogWrite v => Sys2Proof.Machine.execJoinWdogWrite v s
  | .streamPoolWrite v => Sys2Proof.Machine.execStreamPoolWrite v s
  | .slewBoundWrite v => Sys2Proof.Machine.execSlewBoundWrite v s
  | .timRoleApply => Sys2Proof.Machine.execTimRoleApply s
  | .tsUserOffsetWrite port tx v => Sys2Proof.Machine.execTsUserOffsetWrite port tx v s
  | .calOffsetWrite off v => Sys2Proof.Machine.execCalOffsetWrite off v s
  | .pathModeApply port tx => Sys2Proof.Machine.execPathModeApply port tx s
  | .filterWrite port n v => Sys2Proof.Machine.execFilterWrite port n v s
  | .shaperRateWrite bucket rx v => Sys2Proof.Machine.execShaperRateWrite bucket rx v s
  | .tsSeedWrite v => Sys2Proof.Machine.execTsSeedWrite v s
  | .loopbackWrite port v => Sys2Proof.Machine.execLoopbackWrite port v s
  | .registerWrite off size allBytes v => Sys2Proof.Machine.execRegisterWrite off size allBytes v s
  | .sqDoorbell page b descs => Sys2Proof.Machine.execSqDoorbell page b descs s
  | .rqDoorbell page b descs => Sys2Proof.Machine.execRqDoorbell page b descs s
  | .cqDoorbell page b => Sys2Proof.Machine.execCqDoorbell page b s
  | .cmdRingDoorbell page b => Sys2Proof.Machine.execCmdRingDoorbell page b s
  | .cmdCplDoorbell page b => Sys2Proof.Machine.execCmdCplDoorbell page b s
  | .eventRingDoorbell page b => Sys2Proof.Machine.execEventRingDoorbell page b s
  | .rawTxDoorbell page b descs => Sys2Proof.Machine.execRawTxDoorbell page b descs s
  | .rawRxDoorbell page b descs => Sys2Proof.Machine.execRawRxDoorbell page b descs s
  | .tsRingDoorbell page b => Sys2Proof.Machine.execTsRingDoorbell page b s
  | .steerRingDoorbell page b => Sys2Proof.Machine.execSteerRingDoorbell page b s
  | .adminRingDoorbell page b => Sys2Proof.Machine.execAdminRingDoorbell page b s
  | .adminCplDoorbell page b => Sys2Proof.Machine.execAdminCplDoorbell page b s
  | .tlmRingDoorbell page b => Sys2Proof.Machine.execTlmRingDoorbell page b s
  | .wrSend qp payload => Sys2Proof.Machine.execWrSend qp payload s
  | .wrWrite qp payload => Sys2Proof.Machine.execWrWrite qp payload s
  | .wrRead qp => Sys2Proof.Machine.execWrRead qp s
  | .rawTransmit inst number frame => Sys2Proof.Machine.execRawTransmit inst number frame s
  | .msixModExpire ring => Sys2Proof.Machine.execMsixModExpire ring s
  | .frameStart port frame line capture => Sys2Proof.Machine.execFrameStart port frame line capture s
  | .runtDiscard port => Sys2Proof.Machine.execRuntDiscard port s
  | .frameClassify port => Sys2Proof.Machine.execFrameClassify port s
  | .frameEnd port => Sys2Proof.Machine.execFrameEnd port s
  | .wedgeTokenEmit msg => Sys2Proof.Machine.execWedgeTokenEmit msg s
  | .windowEnter msg => Sys2Proof.Machine.execWindowEnter msg s
  | .entryLate msg => Sys2Proof.Machine.execEntryLate msg s
  | .verdictRelease msg => Sys2Proof.Machine.execVerdictRelease msg s
  | .guardArbitrate msg => Sys2Proof.Machine.execGuardArbitrate msg s
  | .checkResult msg kind pass => Sys2Proof.Machine.execCheckResult msg kind pass s
  | .pTimeoutExpire msg => Sys2Proof.Machine.execPTimeoutExpire msg s
  | .steerHoldExpire msg => Sys2Proof.Machine.execSteerHoldExpire msg s
  | .fullResult msg => Sys2Proof.Machine.execFullResult msg s
  | .operationFire core => Sys2Proof.Machine.execOperationFire core s
  | .routerPass core => Sys2Proof.Machine.execRouterPass core s
  | .crossingTransfer core dir latency => Sys2Proof.Machine.execCrossingTransfer core dir latency s
  | .linkParityFail core dir shelf => Sys2Proof.Machine.execLinkParityFail core dir shelf s
  | .ucieRetry link delay => Sys2Proof.Machine.execUcieRetry link delay s
  | .joinStarved core shelf entry => Sys2Proof.Machine.execJoinStarved core shelf entry s
  | .genRoundStart unit => Sys2Proof.Machine.execGenRoundStart unit s
  | .genTurnStart unit slot => Sys2Proof.Machine.execGenTurnStart unit slot s
  | .genTurnComplete unit slot => Sys2Proof.Machine.execGenTurnComplete unit slot s
  | .genResultSend unit => Sys2Proof.Machine.execGenResultSend unit s
  | .seqOpen qp => Sys2Proof.Machine.execSeqOpen qp s
  | .seqAppend qp => Sys2Proof.Machine.execSeqAppend qp s
  | .seqDraft qp => Sys2Proof.Machine.execSeqDraft qp s
  | .seqClose qp => Sys2Proof.Machine.execSeqClose qp s
  | .armPeriodStart slot => Sys2Proof.Machine.execArmPeriodStart slot s
  | .armFeedRead slot stream data => Sys2Proof.Machine.execArmFeedRead slot stream data s
  | .armBundleSend slot stream => Sys2Proof.Machine.execArmBundleSend slot stream s
  | .armBundleReceive port => Sys2Proof.Machine.execArmBundleReceive port s
  | .armDeadline slot stream => Sys2Proof.Machine.execArmDeadline slot stream s
  | .armCollect slot shard => Sys2Proof.Machine.execArmCollect slot shard s
  | .armTimeLost slot => Sys2Proof.Machine.execArmTimeLost slot s
  | .wgtDataReceive port => Sys2Proof.Machine.execWgtDataReceive port s
  | .ackCoalExpire qp => Sys2Proof.Machine.execAckCoalExpire qp s
  | .ackReceive port => Sys2Proof.Machine.execAckReceive port s
  | .nakReceive port => Sys2Proof.Machine.execNakReceive port s
  | .readReqReceive port data => Sys2Proof.Machine.execReadReqReceive port data s
  | .readRespReceive port => Sys2Proof.Machine.execReadRespReceive port s
  | .probeReceive port => Sys2Proof.Machine.execProbeReceive port s
  | .probeReplyReceive port => Sys2Proof.Machine.execProbeReplyReceive port s
  | .wgtPacketSend qp => Sys2Proof.Machine.execWgtPacketSend qp s
  | .retxTimerExpire qp => Sys2Proof.Machine.execRetxTimerExpire qp s
  | .reorderExpire qp psn => Sys2Proof.Machine.execReorderExpire qp psn s
  | .rnrDelayExpire qp => Sys2Proof.Machine.execRnrDelayExpire qp s
  | .creditResume qp => Sys2Proof.Machine.execCreditResume qp s
  | .peerSilentExpire peer => Sys2Proof.Machine.execPeerSilentExpire peer s
  | .probeIntervalExpire peer => Sys2Proof.Machine.execProbeIntervalExpire peer s
  | .pauseReceive port => Sys2Proof.Machine.execPauseReceive port s
  | .pauseExpire port cls => Sys2Proof.Machine.execPauseExpire port cls s
  | .pfcRefresh port cls => Sys2Proof.Machine.execPfcRefresh port cls s
  | .xonSend port cls => Sys2Proof.Machine.execXonSend port cls s
  | .fcWdogExpire port cls => Sys2Proof.Machine.execFcWdogExpire port cls s
  | .transmitSelect port => Sys2Proof.Machine.execTransmitSelect port s
  | .gateEntryChange port => Sys2Proof.Machine.execGateEntryChange port s
  | .gateTakeover port => Sys2Proof.Machine.execGateTakeover port s
  | .lpiEnter port => Sys2Proof.Machine.execLpiEnter port s
  | .lpiWake port => Sys2Proof.Machine.execLpiWake port s
  | .linkDown port => Sys2Proof.Machine.execLinkDown port s
  | .linkUp port => Sys2Proof.Machine.execLinkUp port s
  | .telemetrySample => Sys2Proof.Machine.execTelemetrySample s
  | .tsRecordDrain port => Sys2Proof.Machine.execTsRecordDrain port s
  | .ptpMessageReceive port => Sys2Proof.Machine.execPtpMessageReceive port s
  | .ptpMessageSend port kind => Sys2Proof.Machine.execPtpMessageSend port kind s
  | .masterLoss => Sys2Proof.Machine.execMasterLoss s
  | .holdErrUpdate => Sys2Proof.Machine.execHoldErrUpdate s
  | .ppsInEdge => Sys2Proof.Machine.execPpsInEdge s
  | .ppsOut => Sys2Proof.Machine.execPpsOut s
  | .lldpReceive port => Sys2Proof.Machine.execLldpReceive port s
  | .thermalSample raw => Sys2Proof.Machine.execThermalSample raw s
  | .domainLoss die => Sys2Proof.Machine.execDomainLoss die s
  | .iodLoss => Sys2Proof.Machine.execIodLoss s
  | .pllLoss d => Sys2Proof.Machine.execPllLoss d s
  | .coreCheckFail core shelf => Sys2Proof.Machine.execCoreCheckFail core shelf s
  | .memCorrected m => Sys2Proof.Machine.execMemCorrected m s
  | .memUncorrectable m => Sys2Proof.Machine.execMemUncorrectable m s
  | .codewordTest m pass => Sys2Proof.Machine.execCodewordTest m pass s
  | .patrolRead m symbols => Sys2Proof.Machine.execPatrolRead m symbols s
  | .d2dLaneFail link module lane => Sys2Proof.Machine.execD2dLaneFail link module lane s
  | .serdesLaneFail lane => Sys2Proof.Machine.execSerdesLaneFail lane s
  | .pcRemap stack pc => Sys2Proof.Machine.execPcRemap stack pc s
  | .mgmtWatchdog => Sys2Proof.Machine.execMgmtWatchdog s
  | .mgmtRestartDone => Sys2Proof.Machine.execMgmtRestartDone s
  | .witnessReport rep => Sys2Proof.Machine.execWitnessReport rep s
  | .witnessHoldExpire => Sys2Proof.Machine.execWitnessHoldExpire s
  | .bpDutyTick loc => Sys2Proof.Machine.execBpDutyTick loc s
  | .powerOnReset digestOk => Sys2Proof.Machine.execPowerOnReset digestOk s
  | .functionReady f ok => Sys2Proof.Machine.execFunctionReady f ok s
  | .pwrenRaise die railOk => Sys2Proof.Machine.execPwrenRaise die railOk s
  | .perstAssertOne link => Sys2Proof.Machine.execPerstAssertOne link s
  | .powerDown => Sys2Proof.Machine.execPowerDown s
  | .pcieLinkDown link => Sys2Proof.Machine.execPcieLinkDown link s
  | .smbusRead code => Sys2Proof.Machine.execSmbusRead code s
  | .pcieLinkUp link gen => Sys2Proof.Machine.execPcieLinkUp link gen s
  | .pcieReadCompletion f => Sys2Proof.Machine.execPcieReadCompletion f s
  | .pcieCompletionTimeout f => Sys2Proof.Machine.execPcieCompletionTimeout f s
  | .fwFlashWritten => Sys2Proof.Machine.execFwFlashWritten s
  | .splitConfigInForce => Sys2Proof.Machine.execSplitConfigInForce s
  | .clusterScrubDone cluster => Sys2Proof.Machine.execClusterScrubDone cluster s

end Sys2Proof.Machine
end

