-- ==== Sys2Proof/Machine/Tick.lean ====
section
/-! DEFINITION. The passing of time: what step does when no command waits (log entry 1). -/

namespace Sys2Proof.Machine

open Sys2Proof

/-- One TIME cycle adds 1 ns + a to the network clock (R398); on the fallback clock, one FAB cycle adds (1 ns + a) × 5 / 6
(R521). The clock starts when the time base is first ready (R542), and a function reset does not stop it (R540). -/
def clockStep (s : State) : State :=
  if ready s rdyTim || (s.tb.started && !s.poweredDown) then
    if s.tb.fallback then
      if s.now % fabCycle = 0 then
        { s with tb := { s.tb with clock := s.tb.clock + ((2 ^ 48 + s.tb.adj) * 5 / 6).toNat } }
      else s
    else if s.now % timeCycle = 0 then { s with tb := { s.tb with clock := s.tb.clock + (2 ^ 48 + s.tb.adj).toNat } }
    else s
  else s

/-- The messages of one frame whose frame is released now are delivered where nothing else holds them (R368). -/
def releaseFrames (s : State) : State :=
  (tkeys (s.msgs.filter fun m => m.2.releaseAt = s.now && !m.2.finished)).foldl finishRaw s

/-- 1/600 ns passes; with the last one of a FAB cycle the STATS of that cycle are settled first. -/
def tick (s : State) : State := releaseFrames (clockStep { settleStats s with now := s.now + 1 })

end Sys2Proof.Machine
end

