-- ==== Sys2Proof/Safety.lean ====
section
/-! DEFINITION. What counts as a safe run of the block: a step that answers a next state. The block has no fault; a refusal
would name a command without a meaning. -/

namespace Sys2Proof

open Machine

/-- A step that goes on. -/
def Safe (s : State) : Prop := ∃ t, step s = .next t

end Sys2Proof
end

