-- ==== Sys2Proof/Certificates/Slice0/Obligations.lean ====
section
/-! DEFINITION. The statements for the provers. -/

namespace Sys2Proof.Claims

open Sys2Proof Machine

-- ------------------------------------------------------------------ commands taken from a ring (R458-R461)

/-- The engine may take the next command of ring r (R459, R460), and the recovery loader is not running (R531). -/
def turn (s : State) (r : CmdRing) : Prop := engineTurn s r = true ∧ s.mgmt.recovery = false

/-- The state in which a command taken from ring r is judged. -/
def taken (s : State) (r : CmdRing) : State :=
  match takeCmd s r with
  | some x => { x.2 with nextId := x.2.nextId + 1 }
  | none => s

/-- The ring index of the command taken. -/
def indexOf (s : State) (r : CmdRing) : BitVec 32 := match takeCmd s r with | some x => x.1 | none => 0

/-- The command completes with a status and a result in the state u that its effect gives (R453). -/
def completes (s u : State) (r : CmdRing) (d : Cmd) (op status : Nat) (result : List (Nat × Nat × Nat)) :
    Host.Outcome State Fault Refusal :=
  goOnKeep s (completeCmd u r d.tag (indexOf s r) op status 0 result)

/-- The command writes a record at BUF_ADDR on its instance's home link and completes with OK (R453, R461). -/
def answers (s u : State) (r : CmdRing) (d : Cmd) (op : Nat) (buf : Bytes) : Host.Outcome State Fault Refusal :=
  goOnKeep s (completeCmd (hostWrite u (cmdInst r) (getInst u (cmdInst r)).home d.bufAddr.toNat buf) r d.tag (indexOf s r) op stOK
    buf.length [])

/-- The command stays pending in the state u that its effect gives so far (R460). -/
def waits (s u : State) (r : CmdRing) (d : Cmd) (op arg : Nat) : Host.Outcome State Fault Refusal :=
  goOnKeep s { u with cmds := u.cmds ++ [{ id := s.nextId, ring := r, tag := d.tag, index := indexOf s r, opcode := op, arg := arg }] }

/-- A shelf command may name unit u (R178, R179, R184, R185); no loss of a die of the unit waits in the same FAB cycle (R214). -/
def mayName (s : State) (inst : Nat) (mgr : Bool) (u : MUnit) : Prop :=
  ready s rdyShf = true ∧ (u.owner = inst ∨ (mgr = true ∧ inst = 0)) ∧ u.retired = false ∧ lossComing s u = false

end Sys2Proof.Claims

open Sys2Proof Machine Claims

/-- CQ_CREATE, CQ_MODIFY, CQ_DESTROY, RING_CREATE and RING_DESTROY complete with OK when their checks pass (R430, R440, R468). -/
def Obligations.RingCommandsComplete : Prop :=
  (∀ (s : State) (r : CmdRing) (d : Cmd) (n : Nat), turn s r → argsOnly d [(0, 11), (16, 8)] = true → argN d 10 1 ≤ 1 →
    ringShapeOk (argN d 0 4) (argN d 16 8) = true → irqOk (argN d 4 2) (argN d 6 2) = true →
    lowestFrom (fun k => (getRing (taken s r) (ringKey rkCq k)).isNone) 65536 0 = some n →
    ringsOf (taken s r) rkCq (cmdInst r) < (getInst (taken s r) (cmdInst r)).shares.cqs →
    exec (.cqCreate r d) s = completes s
      { taken s r with
        rings := tset (taken s r).rings (ringKey rkCq n)
          { kind := rkCq, owner := cmdInst r, number := n, base := argN d 16 8, entries := argN d 0 4, vector := argN d 4 2,
            modCount := argN d 6 2, modUsec := argN d 8 2, splitPhase := argN d 10 1 = 1 } }
      r d 0x10 stOK [(0, 2, n)])
  ∧ (∀ (s : State) (r : CmdRing) (d : Cmd) (q : Ring), turn s r → argsOnly d [(0, 8)] = true →
    getRing (taken s r) (ringKey rkCq (argN d 0 2)) = some q → q.owner = cmdInst r → irqOk (argN d 2 2) (argN d 4 2) = true →
    exec (.cqModify r d) s = completes s
      (modRing (taken s r) (ringKey rkCq (argN d 0 2)) fun q => { q with modNext := some (argN d 2 2, argN d 4 2, argN d 6 2) })
      r d 0x11 stOK [])
  ∧ (∀ (s : State) (r : CmdRing) (d : Cmd) (q : Ring), turn s r → argsOnly d [(0, 2)] = true →
    getRing (taken s r) (ringKey rkCq (argN d 0 2)) = some q → q.owner = cmdInst r → cqInUse (taken s r) (argN d 0 2) = false →
    exec (.cqDestroy r d) s = completes s
      { taken s r with rings := tdel (taken s r).rings (ringKey rkCq (argN d 0 2)) } r d 0x12 stOK [])
  ∧ (∀ (s : State) (r : CmdRing) (d : Cmd) (kind number key : Nat), turn s r → argsOnly d [(0, 3), (4, 20)] = true →
    kind = argN d 0 1 → number = argN d 1 1 → ringOfKind (cmdInst r) kind number = some key → argN d 2 1 ≤ 1 →
    ringShapeOk (argN d 4 4) (argN d 16 8) = true → (kind = rkTlm → cmdInst r = 0) →
    (if isRawKind kind then
      number ≤ 15 ∧ (∃ q, getRing (taken s r) (ringKey rkCq (argN d 8 2)) = some q ∧ q.owner = cmdInst r)
     else number = 0) →
    (kind = rkEvent ∨ kind = rkTs → irqOk (argN d 10 2) (argN d 12 2) = true) → getRing (taken s r) key = none →
    exec (.ringCreate r d) s = completes s
      { taken s r with
        rings := tset (taken s r).rings key
          { kind := kind, owner := cmdInst r, number := number, base := argN d 16 8, entries := argN d 4 4, vector := argN d 10 2,
            modCount := argN d 12 2, modUsec := argN d 14 2, splitPhase := argN d 2 1 = 1,
            cq := if isRawKind kind then argN d 8 2 else 0 } }
      r d 0x13 stOK [])
  ∧ (∀ (s : State) (r : CmdRing) (d : Cmd) (kind number key : Nat) (q : Ring), turn s r → argsOnly d [(0, 2)] = true →
    kind = argN d 0 1 → number = argN d 1 1 → ringOfKind (cmdInst r) kind number = some key → (kind = rkTlm → cmdInst r = 0) →
    (if isRawKind kind then number ≤ 15 else number = 0) → getRing (taken s r) key = some q →
    exec (.ringDestroy r d) s = completes s { taken s r with rings := tdel (taken s r).rings key } r d 0x14 stOK [])

/-- MR_REG, MR_DEREG (R464) and SHAPE (R469) complete with OK when their checks pass. -/
def Obligations.RegionCommandsComplete : Prop :=
  (∀ (s : State) (r : CmdRing) (d : Cmd) (n : Nat), turn s r → argsOnly d [(0, 2), (8, 16)] = true → argN d 0 1 ≤ 1 → argN d 1 1 ≤ 7 →
    1 ≤ argN d 16 8 → argN d 16 8 ≤ 2 ^ 40 →
    lowestFrom (fun k => !((tget (taken s r).mrs k).any (·.live))) 1048576 0 = some n →
    mrsOf (taken s r) (cmdInst r) < (getInst (taken s r) (cmdInst r)).shares.mrs →
    exec (.mrReg r d) s = completes s
      { taken s r with
        mrs := tset (taken s r).mrs n
          { owner := cmdInst r, variant := nextVariant (taken s r) n, live := true, link := argN d 0 1, access := argN d 1 1,
            addr := argN d 8 8, length := argN d 16 8 } }
      r d 0x18 stOK [(0, 4, n * 256 + nextVariant (taken s r) n)])
  ∧ (∀ (s : State) (r : CmdRing) (d : Cmd) (m : MemRegion), turn s r → argsOnly d [(0, 4)] = true →
    tget (taken s r).mrs (argN d 0 4 / 256) = some m → m.live = true → m.variant = argN d 0 4 % 256 → m.owner = cmdInst r →
    keyInUse (taken s r) (cmdInst r) (argN d 0 4) = false →
    exec (.mrDereg r d) s = completes s
      { taken s r with mrs := tmod (taken s r).mrs (argN d 0 4 / 256) fun m => { m with live := false } } r d 0x19 stOK [])
  ∧ (∀ (s : State) (r : CmdRing) (d : Cmd) (t : Nat), turn s r → ready (taken s r) rdyShp = true → argsOnly d [(0, 2), (4, 12)] = true → t = argN d 0 1 → t ≤ 3 →
    argN d 1 1 ≤ 3 → rateOk (argN d 8 4) = true → burstOk (argN d 12 4) = true →
    (t < 2 → cmdInst r = 0 ∧ argN d 4 4 ≤ 1023 ∧ instExists (taken s r) (argN d 4 4) = true) →
    (2 ≤ t → ∃ q, qpByNum (taken s r) (argN d 4 4) = some q ∧ q.2.owner = cmdInst r) →
    exec (.shape r d) s = completes s
      (setBucket (taken s r)
        (if t < 2 then instBucket (argN d 4 4) (t % 2 = 1) else qpBucket (argN d 4 4 % 2 ^ 18) (t % 2 = 1)) (argN d 8 4) (argN d 12 4)
        (t % 2 = 1 && bit (argN d 1 1) 1) (bit (argN d 1 1) 0))
      r d 0x28 stOK [])

/-- LOAD, FIRE, COOL and SWAP (R180-R190, R205, R210): admitted, each has its effect, and completes or stays pending. -/
def Obligations.ShelfCommandsComplete : Prop :=
  (∀ (s : State) (r : CmdRing) (d : Cmd) (u : Nat) (v : Variant), turn s r → d.unlisted = none → admitLoad (taken s r) (cmdInst r) d = .take u v →
    exec (.load r d) s = waits s
      { taken s r with units := tset (taken s r).units u (newUnit (taken s r) (cmdInst r) s.nextId d v) } r d 0x01 u)
  ∧ (∀ (s : State) (r : CmdRing) (d : Cmd) (u : MUnit), turn s r → argsOnly d [(0, 2)] = true →
    getUnit (taken s r) (argUnit d 0) = some u → mayName (taken s r) (cmdInst r) false u → u.st = .bisque → u.scrub = none → u.arm = none →
    fireBlocked (taken s r) (argUnit d 0) u none = false →
    exec (.fire r d) s = completes s (fireUnit (taken s r) (argUnit d 0)) r d 0x02 stOK [])
  ∧ (∀ (s : State) (r : CmdRing) (d : Cmd) (u : MUnit), turn s r → argsOnly d [(0, 3), (4, 4)] = true →
    getUnit (taken s r) (argUnit d 0) = some u → mayName (taken s r) (cmdInst r) true u → u.scrub = none → u.arm = none →
    argN d 2 1 ≤ 1 → argN d 4 4 ≤ 100000 → (argN d 2 1 = 1 → u.drainClean = true) → u.st = .fired →
    exec (.cool r d) s = waits s
      (modUnit (taken s r) (argUnit d 0) fun u =>
        { u with st := .cooling, coolingAt := some s.now,
                 drain := some { began := s.now, deadline := s.now + drainBound (taken s r) (argN d 4 4), toBisque := argN d 2 1 = 1,
                                 cmd := some s.nextId, wdog := false } })
      r d 0x03 (argUnit d 0))
  ∧ (∀ (s : State) (r : CmdRing) (d : Cmd) (u : MUnit), turn s r → argsOnly d [(0, 3), (4, 4)] = true →
    getUnit (taken s r) (argUnit d 0) = some u → mayName (taken s r) (cmdInst r) true u → u.scrub = none → u.arm = none →
    argN d 2 1 = 0 → argN d 4 4 ≤ 100000 → u.st = .bisque →
    exec (.cool r d) s = waits s
      (modUnit (taken s r) (argUnit d 0) fun u => { u with scrub := some (s.now, some s.nextId, stOK), drain := none })
      r d 0x03 (argUnit d 0))
  ∧ (∀ (s : State) (r : CmdRing) (d : Cmd) (old new : MUnit) (oi ni : Nat), turn s r → argsOnly d [(0, 8)] = true → oi = argUnit d 0 →
    ni = argUnit d 2 → oi ≠ ni → getUnit (taken s r) oi = some old → getUnit (taken s r) ni = some new →
    mayName (taken s r) (cmdInst r) false old → mayName (taken s r) (cmdInst r) false new → argN d 4 4 ≤ 100000 →
    old.st = .fired → old.arm = none → old.swap = none → new.st = .bisque → new.scrub = none → new.arm = none →
    ((old.clusters ++ new.clusters).any fun c => (perturbedDies (taken s r)).contains (dieOfCluster c)) = false →
    old.kind = 0 → new.kind = 0 → fireBlocked (taken s r) ni new (some oi) = false →
    exec (.swap r d) s = waits s
      (swapMessage (taken s r) oi ni (drainBound (taken s r) (argN d 4 4)) s.nextId old new) r d 0x04 oi)
  ∧ (∀ (s : State) (r : CmdRing) (d : Cmd) (old new : MUnit) (oi ni : Nat), turn s r → argsOnly d [(0, 8)] = true → oi = argUnit d 0 →
    ni = argUnit d 2 → oi ≠ ni → getUnit (taken s r) oi = some old → getUnit (taken s r) ni = some new →
    mayName (taken s r) (cmdInst r) false old → mayName (taken s r) (cmdInst r) false new → argN d 4 4 ≤ 100000 →
    old.st = .fired → old.arm = none → old.swap = none → new.st = .bisque → new.scrub = none → new.arm = none →
    ((old.clusters ++ new.clusters).any fun c => (perturbedDies (taken s r)).contains (dieOfCluster c)) = false →
    old.kind = 1 → new.kind = 1 → fireBlocked (taken s r) ni new (some oi) = false → old.clusters.any new.clusters.contains = false →
    exec (.swap r d) s = waits s
      (modUnit (taken s r) oi fun u =>
        { u with swap := some { newUnit := ni, gap := 0, atRound := true, cmd := some s.nextId,
                                bound := drainBound (taken s r) (argN d 4 4) } })
      r d 0x04 oi)

/-- QUERY writes its record and completes with OK (R470); STATS stays pending to the end of its FAB cycle, whose last step writes the record, with
every update of the cycle, and completes it with OK (R467, R474); BIND_TABLE writes its entry, and a RING entry's ring starts at
index 0 (R465). -/
def Obligations.QueryAndTableCommandsComplete : Prop :=
  (∀ (s : State) (r : CmdRing) (d : Cmd) (u : MUnit), turn s r → argsOnly d [(0, 2)] = true → ready (taken s r) rdyShf = true →
    getUnit (taken s r) (argUnit d 0) = some u → (u.owner = cmdInst r ∨ cmdInst r = 0) →
    exec (.query r d) s = answers s (taken s r) r d 0x05 (unitRecord (taken s r) (argUnit d 0) u))
  ∧ (∀ (s : State) (r : CmdRing) (d : Cmd), turn s r → argsOnly d [(0, 1), (2, 2)] = true →
    statsPermitted (taken s r) (cmdInst r) (argN d 0 1) (argN d 2 2) = true → statsExists (taken s r) (argN d 0 1) (argN d 2 2) = true →
    statsSize (argN d 0 1) ≤ d.bufLen →
    exec (.stats r d) s = waits s (taken s r) r d 0x09 (argN d 0 1 + 4 * argN d 2 2 + 2 ^ 18 * d.bufAddr.toNat))
  ∧ (∀ (s u : State) (c : PendCmd) (b : Bytes), s.pending = [] → (s.now + 1) % fabCycle = 0 → s.cmds.filter (·.opcode = 0x09) = [c] →
    u = handOver s s.now → b = statsRecord u (cmdInst c.ring) (c.arg % 4) (c.arg / 4 % 2 ^ 16) →
    step s = .next (releaseFrames (clockStep
      { completeCmd (hostWrite { u with cmds := u.cmds.filter (·.id ≠ c.id) } (cmdInst c.ring) (getInst u (cmdInst c.ring)).home
          (c.arg / 2 ^ 18) b) c.ring c.tag c.index 0x09 stOK b.length [] with now := s.now + 1 })))
  ∧ (∀ (s : State) (r : CmdRing) (d : Cmd) (u : MUnit), turn s r → argsOnly d [(0, 3), (8, 32)] = true →
    ready (taken s r) rdyShf = true → argN d 1 1 = 0 → argN d 0 1 ≤ 63 → argN d 8 1 ≤ 2 →
    bindOwned (taken s r) (cmdInst r) (bindEntry d) = true → bindEntryOk (taken s r) 0 (bindEntry d) = true →
    u ∈ tvals (taken s r).units → u.owner = cmdInst r → (u.bindings.any (·.number = argN d 0 1)) = true →
    ∃ t, exec (.bindTable r d) s = completes s t r d 0x08 stOK []
      ∧ t.tables = tset (taken s r).tables (tableKey (cmdInst r) (argN d 0 1) 0 (argN d 2 1)) (bindEntry d)
      ∧ t.rings = (if argN d 8 1 = 2 then
            tset (tdel (taken s r).rings (steerKey (cmdInst r) (argN d 0 1) (argN d 2 1))) (steerKey (cmdInst r) (argN d 0 1) (argN d 2 1))
              { kind := rkSteer, owner := cmdInst r, number := argN d 0 1 * 256 + argN d 2 1, link := argN d 9 1, pasid := argN d 16 4,
                base := argN d 24 8, entries := argN d 36 4, cq := argN d 10 2, offset := argN d 20 4, slotSize := argN d 32 4,
                prod := 0, cons := 0 }
          else tdel (taken s r).rings (steerKey (cmdInst r) (argN d 0 1) (argN d 2 1))))
  ∧ (∀ (s : State) (r : CmdRing) (d : Cmd) (u : MUnit), turn s r → argsOnly d [(0, 3), (8, 2), (12, 4)] = true →
    ready (taken s r) rdyShf = true → argN d 1 1 = 1 → argN d 0 1 ≤ 63 → argN d 2 1 ≤ 15 →
    (argN d 8 1 = 0 ∨ argN d 8 1 = 3 ∨ argN d 8 1 = 4) →
    bindOwned (taken s r) (cmdInst r) (bindEntry d) = true → bindEntryOk (taken s r) 1 (bindEntry d) = true →
    u ∈ tvals (taken s r).units → u.owner = cmdInst r → (u.bindings.any (·.number = argN d 0 1)) = true →
    exec (.bindTable r d) s = completes s
      { taken s r with
        tables := tset (taken s r).tables (tableKey (cmdInst r) (argN d 0 1) 1 (argN d 2 1)) (bindEntry d)
        tablesOld := tset (taken s r).tablesOld (tableKey (cmdInst r) (argN d 0 1) 1 (argN d 2 1))
          (fabOf s, entryAt (taken s r) (tableKey (cmdInst r) (argN d 0 1) 1 (argN d 2 1)) s.now) } r d 0x08 stOK [])

/-- The steps of a unit (R181, R182, R199-R201, R206-R208, R210). Whether an image verifies is verifyStatus of what admission
and verification read (R191), whose figures the model's own schedule run gives (log entry 9): LOAD_VERIFY_DONE is stated for both cases. -/
def Obligations.UnitStepsComplete : Prop :=
  (∀ (s : State) (ui : Nat) (b : Bytes) (u : MUnit), getUnit s ui = some u → u.st = .green → u.retired = false → u.scrub = none →
    exec (.loadVerifyDone ui b) s = goOnKeep s
      (if verifyStatus s u.owner u.outcome u.tried u.left u.image b = stOK then
         finishCmd? (verified (writeShelves s u b) ui u b) u.loadCmd stOK (loadResult ui u)
       else startScrub (modUnit (writeShelves s u b) ui fun u => { u with loadCmd := none, image := [] }) ui u.loadCmd
         (verifyStatus s u.owner u.outcome u.tried u.left u.image b)))
  ∧ (∀ (s : State) (ui : Nat) (u : MUnit) (d : Drain), getUnit s ui = some u → u.drain = some d → u.st = .cooling → u.retired = false →
    u.scrub = none → lossComing s u = false → drainDone s ui u = true →
    exec (.drainComplete ui) s = goOnKeep s (finishDrain s ui u d))
  ∧ (∀ (s : State) (ui : Nat) (u : MUnit) (d : Drain), getUnit s ui = some u → u.drain = some d → u.st = .cooling → u.retired = false →
    u.scrub = none → lossComing s u = false → d.deadline ≤ s.now → drainDone s ui u = false →
    (u.kind = 0 ∨ roundsRun u = false ∨ roundDue s u = true) →
    exec (.drainBoundExpire ui) s = goOnKeep s (squashUnit s ui))
  ∧ (∀ (s : State) (ui : Nat) (u : MUnit) (t : Nat) (cmd : Option Nat) (st : Nat), getUnit s ui = some u → u.scrub = some (t, cmd, st) →
    exec (.scrubComplete ui) s = goOnKeep s (emptyUnit s ui u cmd st))
  ∧ (∀ (s : State) (ui : Nat) (u : MUnit), getUnit s ui = some u → entryKnown s ui u = true →
    exec (.swapEntryPoint ui) s = goOnKeep s (swapEntry s ui))
  ∧ (∀ (s : State) (c t : Nat) (p : Pattern), (getCluster s c).switchAt = some (t, p) → t ≤ cycleOf s →
    exec (.shelfPatternSwitch c) s = goOnKeep s (modCluster s c fun k => { k with pattern := p, switchAt := none }))

/-- SEQ_ATTACH, SEQ_DETACH and SEQ_DETACH_DONE (R241, R242). -/
def Obligations.AttachCommandsComplete : Prop :=
  (∀ (s : State) (r : CmdRing) (d : Cmd) (qi : Nat) (q : Qp), turn s r → argsOnly d [(0, 1), (4, 4)] = true →
    ready (taken s r) rdyWgt = true → qpByNum (taken s r) (argN d 4 4) = some (qi, q) → q.owner = cmdInst r → argN d 0 1 ≤ 15 →
    q.service = none → (tgetD (taken s r).services (serviceKey (cmdInst r) (argN d 0 1)) {}).attached.length < 256 →
    exec (.seqAttach r d) s = completes s
      (modQp { taken s r with
               services := tmodD (taken s r).services (serviceKey (cmdInst r) (argN d 0 1)) {}
                 fun v => { v with attached := v.attached ++ [qi] } } qi
        fun q => { q with service := some (serviceKey (cmdInst r) (argN d 0 1)), serviceAt := s.now })
      r d 0x0C stOK [])
  ∧ (∀ (s : State) (r : CmdRing) (d : Cmd) (qi : Nat) (q : Qp), turn s r → argsOnly d [(0, 1), (4, 4)] = true →
    ready (taken s r) rdyWgt = true → qpByNum (taken s r) (argN d 4 4) = some (qi, q) → q.owner = cmdInst r → argN d 0 1 ≤ 15 →
    q.service = some (serviceKey (cmdInst r) (argN d 0 1)) → qpHoldsSlot (taken s r) qi = false →
    exec (.seqDetach r d) s = completes s
      (modQp { taken s r with
               services := tmodD (taken s r).services (serviceKey (cmdInst r) (argN d 0 1)) {}
                 fun v => { v with attached := v.attached.filter (· ≠ qi) } } qi
        fun q => { q with service := none, serviceEnd := s.now, seqIn := [] })
      r d 0x0D stOK [(0, 2, 0)])
  ∧ (∀ (s : State) (qi id n : Nat) (q : Qp), tget s.qps qi = some q → q.detach = [(id, n)] → slotAwaits s qi id = false →
    exec (.seqDetachDone qi) s =
      goOnKeep s (finishCmd (modQp s qi fun q => { q with detach := [] }) id stOK [(0, 2, n)]))

/-- QP_CREATE, QP_QUERY and QP_DESTROY (R317, R320, R463, R471, R481). -/
def Obligations.QpCreateQueryDestroyComplete : Prop :=
  (∀ (s : State) (r : CmdRing) (d : Cmd) (n : Nat) (c1 c2 : Ring), turn s r → argsOnly d [(0, 4), (8, 12), (24, 12)] = true →
    ready (taken s r) rdyWgt = true → getRing (taken s r) (ringKey rkCq (argN d 0 2)) = some c1 → c1.owner = cmdInst r →
    getRing (taken s r) (ringKey rkCq (argN d 2 2)) = some c2 → c2.owner = cmdInst r →
    ringShapeOk (argN d 16 4) (argN d 8 8) = true → ringShapeOk (argN d 32 4) (argN d 24 8) = true →
    lowestFrom (fun k => !((tget (taken s r).qps k).any (·.live))) 262144 0 = some n →
    qpsOf (taken s r) (cmdInst r) < (getInst (taken s r) (cmdInst r)).shares.qps →
    (freshQp (taken s r) n (cmdInst r) (argN d 0 2) (argN d 2 2)).st = .reset
    ∧ exec (.qpCreate r d) s = completes s
      { taken s r with
        qps := tset (taken s r).qps n (freshQp (taken s r) n (cmdInst r) (argN d 0 2) (argN d 2 2))
        rings := tset (tset (taken s r).rings (ringKey rkSq n)
            { kind := rkSq, owner := cmdInst r, number := n, base := argN d 8 8, entries := argN d 16 4 }) (ringKey rkRq n)
            { kind := rkRq, owner := cmdInst r, number := n, base := argN d 24 8, entries := argN d 32 4 } }
      r d 0x20 stOK [(0, 4, qpNum n (freshQp (taken s r) n (cmdInst r) (argN d 0 2) (argN d 2 2)))])
  ∧ (∀ (s : State) (r : CmdRing) (d : Cmd) (qi : Nat) (q : Qp), turn s r → argsOnly d [(0, 4)] = true →
    ready (taken s r) rdyWgt = true → qpByNum (taken s r) (argN d 0 4) = some (qi, q) → q.owner = cmdInst r →
    exec (.qpQuery r d) s = answers s (taken s r) r d 0x22 (qpRecord qi q))
  ∧ (∀ (s : State) (r : CmdRing) (d : Cmd) (qi : Nat) (q : Qp), turn s r → argsOnly d [(0, 4)] = true →
    ready (taken s r) rdyWgt = true → qpByNum (taken s r) (argN d 0 4) = some (qi, q) → q.owner = cmdInst r →
    exec (.qpDestroy r d) s = completes s (freeQp (taken s r) qi) r d 0x23 stOK [])

/-- QP_MODIFY in its five targets (R319, R320, R322): from a state that R320 allows, with attributes in range, the queue pair takes the
state and the attributes that R319 lists for the transition. -/
def Obligations.QpModifyCompletes : Prop :=
  (∀ (s : State) (r : CmdRing) (d : Cmd) (qi : Nat) (q : Qp) (p : State), turn s r → argsOnly d [(0, 6)] = true → argN d 4 1 = 1 →
    ready (taken s r) rdyWgt = true → qpByNum (taken s r) (argN d 0 4) = some (qi, q) → q.owner = cmdInst r →
    attrRtrOk (taken s r) d = true → q.st = .reset →
    addPeer (taken s r) (bufN d 0x19 1) (BitVec.ofNat 128 (attrIp d)) (bufN d 0x18 1) = some p →
    exec (.qpModifyRtr r d) s = completes s (modQp p (argQp d) fun q => setRtr q (argQp d) d) r d 0x21 stOK [])
  ∧ (∀ (s : State) (r : CmdRing) (d : Cmd) (qi : Nat) (q : Qp), turn s r → argsOnly d [(0, 6)] = true → argN d 4 1 = 2 →
    ready (taken s r) rdyWgt = true → qpByNum (taken s r) (argN d 0 4) = some (qi, q) → q.owner = cmdInst r →
    attrRtsOk q d = true → q.st = .rtr →
    exec (.qpModifyRts r d) s = completes s (modQp (taken s r) (argQp d) fun q => setRts (taken s r) q d) r d 0x21 stOK [])
  ∧ (∀ (s p : State) (r : CmdRing) (d : Cmd) (qi : Nat) (q : Qp), turn s r → argsOnly d [(0, 6)] = true → argN d 4 1 = 4 →
    argN d 5 1 ≤ 7 →
    (if bit (argN d 5 1) 0 then attrPortOk (taken s r) d = true ∧ attrVlanOk d = true
        ∧ addPeer (taken s r) (bufN d 0x19 1) q.peerIp q.ipv = some p
     else p = taken s r) → ready (taken s r) rdyWgt = true →
    qpByNum (taken s r) (argN d 0 4) = some (qi, q) → q.owner = cmdInst r → (bit (argN d 5 1) 1 = true → attrSportOk d = true) →
    (bit (argN d 5 1) 2 = true → bufN d 0x2E 1 ≤ 15) → attrResvOk d = true → q.st = .rts →
    exec (.qpModifyInRts r d) s = completes s
      (freePeers (modQp p (argQp d) fun q => setInRts p q (argQp d) d)) r d 0x21 stOK [])
  ∧ (∀ (s : State) (r : CmdRing) (d : Cmd) (qi : Nat) (q : Qp), turn s r → argsOnly d [(0, 6)] = true → argN d 4 1 = 3 →
    ready (taken s r) rdyWgt = true → qpByNum (taken s r) (argN d 0 4) = some (qi, q) → q.owner = cmdInst r →
    exec (.qpModifyError r d) s = completes s
      (modQp (qpError (settleArrived (taken s r) (argQp d)) (argQp d) none none) (argQp d) fun q => { q with st := .error }) r d 0x21 stOK [])
  ∧ (∀ (s : State) (r : CmdRing) (d : Cmd) (qi : Nat) (q : Qp), turn s r → argsOnly d [(0, 6)] = true → argN d 4 1 = 0 →
    ready (taken s r) rdyWgt = true → qpByNum (taken s r) (argN d 0 4) = some (qi, q) → q.owner = cmdInst r →
    exec (.qpModifyReset r d) s = completes s
      (freePeers (modQp (markClosing (flushLive (taken s r) (argQp d)) (argQp d)) (argQp d) resetQp)) r d 0x21 stOK [])

/-- A command may name an armature slot's armature (R297): the functions are READY and it is its owner's, or the manager's where allowed. -/
def Sys2Proof.Claims.mayNameArm (s : State) (inst : Nat) (mgr : Bool) (a : Armature) : Prop :=
  ready s rdyArm = true ∧ (a.owner = inst ∨ (mgr = true ∧ inst = 0))

/-- ARM_CREATE and ARM_QUERY (R294-R297, R466, R472). -/
def Obligations.ArmCreateQueryComplete : Prop :=
  (∀ (s : State) (r : CmdRing) (d : Cmd) (n : Nat) (a : Armature) (hs : List Shard), turn s r → a = armOf d (cmdInst r) →
    hs = localShards a.plan a.member → ready (taken s r) rdyArr = true → ready (taken s r) rdyTim = true →
    ready (taken s r) rdyArm = true → planBad (taken s r) d = false →
    (∀ h ∈ hs, ∃ u, getUnit (taken s r) h.unit = some u ∧ u.owner = cmdInst r ∧ u.st = .bisque ∧ u.scrub = none ∧ u.retired = false
      ∧ u.arm = none ∧ u.lastExit ≤ h.firing) →
    lowestFree (taken s r).arms 4 = some n → (List.range 16).any (portOverfull (taken s r) a) = false →
    bundleBytes a + ((tvals (taken s r).arms).map bundleBytes).sum ≤ 4 * MiB → planSMin (taken s r) a.plan = a.plan.sMin →
    exec (.armCreate r d) s = completes s
      (hs.foldl (fun s h => modUnit s h.unit fun u => { u with arm := some n })
        { taken s r with arms := tset (taken s r).arms n a })
      r d 0x30 stOK [(0, 1, n), (4, 4, a.plan.sMin)])
  ∧ (∀ (s : State) (r : CmdRing) (d : Cmd) (a : Armature), turn s r → argsOnly d [(0, 1)] = true →
    getArm (taken s r) (argN d 0 1) = some a → mayNameArm (taken s r) (cmdInst r) true a →
    exec (.armQuery r d) s = answers s (taken s r) r d 0x36 (armRecord (taken s r) (argN d 0 1) a))

/-- ARM_START, ARM_STOP, ARM_DESTROY, ARM_PROMOTE and ARM_DEMOTE in the states that R297 gives them an effect in (R297, R298, R301). -/
def Obligations.ArmStateCommandsComplete : Prop :=
  (∀ (s : State) (r : CmdRing) (d : Cmd) (a : Armature), turn s r → argsOnly d [(0, 1), (8, 8)] = true →
    getArm (taken s r) (argN d 0 1) = some a → mayNameArm (taken s r) (cmdInst r) false a →
    curPeriod (taken s r) a.plan + 2 ≤ (argN d 8 8 : Int) → a.st = .idle → timeLocked (taken s r) a.plan = true →
    exec (.armStart r d) s = waits s
      (modArm (taken s r) (argN d 0 1) fun a => { a with st := .armed, startK := argN d 8 8, startCmd := some s.nextId })
      r d 0x31 (argN d 0 1))
  ∧ (∀ (s : State) (r : CmdRing) (d : Cmd) (a : Armature), turn s r → argsOnly d [(0, 1), (8, 8)] = true →
    getArm (taken s r) (argN d 0 1) = some a → mayNameArm (taken s r) (cmdInst r) true a → a.st = .running →
    exec (.armStop r d) s = waits s
      (modArm (taken s r) (argN d 0 1) fun a => { a with stopAt := a.stopAt ++ [(argN d 8 8, some s.nextId)] }) r d 0x32 (argN d 0 1))
  ∧ (∀ (s : State) (r : CmdRing) (d : Cmd) (a : Armature), turn s r → argsOnly d [(0, 1), (8, 8)] = true →
    getArm (taken s r) (argN d 0 1) = some a → mayNameArm (taken s r) (cmdInst r) true a → a.st = .armed →
    exec (.armStop r d) s = completes s
      (finishCmd? (modArm (taken s r) (argN d 0 1) fun a => { a with st := .idle, startCmd := none }) a.startCmd stFlushed [])
      r d 0x32 stOK [])
  ∧ (∀ (s : State) (r : CmdRing) (d : Cmd) (a : Armature), turn s r → argsOnly d [(0, 1)] = true →
    getArm (taken s r) (argN d 0 1) = some a → mayNameArm (taken s r) (cmdInst r) true a → a.st = .idle →
    exec (.armDestroy r d) s = completes s (removeArm (taken s r) (argN d 0 1)) r d 0x33 stOK [])
  ∧ (∀ (s : State) (r : CmdRing) (d : Cmd) (a : Armature) (h : Shard), turn s r → argsOnly d [(0, 1), (2, 2)] = true →
    getArm (taken s r) (argN d 0 1) = some a → mayNameArm (taken s r) (cmdInst r) false a → a.st = .running →
    findShard a.plan (argN d 2 2) = some h → h.standby = a.member →
    exec (.armPromote r d) s = completes s
      (modArm (taken s r) (argN d 0 1) fun a =>
        { a with shards := tmodD a.shards (argN d 2 2) {} fun x => { x with pendPromote := true } }) r d 0x34 stOK [])
  ∧ (∀ (s : State) (r : CmdRing) (d : Cmd) (a : Armature) (h : Shard), turn s r → argsOnly d [(0, 1), (2, 2)] = true →
    getArm (taken s r) (argN d 0 1) = some a → mayNameArm (taken s r) (cmdInst r) false a → a.st = .running →
    findShard a.plan (argN d 2 2) = some h → h.primary = a.member →
    exec (.armDemote r d) s = completes s
      (modArm (taken s r) (argN d 0 1) fun a =>
        { a with shards := tmodD a.shards (argN d 2 2) {} fun x => { x with pendDemote := true } }) r d 0x35 stOK [])

/-- PORT_SPLIT, GATE_COMMIT, GATE_COMMIT with CANCEL, TIME_STEP and TLM_SET (R356, R383, R390, R410), from the administration ring. -/
def Obligations.PortAndTimeCommandsComplete : Prop :=
  (∀ (s : State) (d : Cmd), turn s .admin → argsOnly d [(0, 1)] = true → argN d 0 1 ≤ 3 →
    (tvals s.units).any (fun u => u.st ≠ .green) = false → s.arms = [] →
    (tvals s.qps).any (fun q => q.live && q.st ≠ .reset) = false → s.splitCmd = none →
    exec (.portSplit .admin d) s = goOn s
      { changeSplit (taken s .admin) (argN d 0 1) with
        splitCmd := some s.nextId
        cmds := (changeSplit (taken s .admin) (argN d 0 1)).cmds
          ++ [{ id := s.nextId, ring := .admin, tag := d.tag, index := indexOf s .admin, opcode := 0x40, arg := 0 }] })
  ∧ (∀ (s : State) (d : Cmd) (p : Nat) (g : GateList), turn s .admin → gateCancel d = false → p = argN d 0 1 → g = adminList s p →
    portReady s p = true → gateArgsBad s d = false → gateListOk g = true → netNs s + 10000 ≤ g.base → (getPort s p).pendGate = none →
    gateRefused s p g = false →
    exec (.gateCommit .admin d) s = waits s (modPort (taken s .admin) p fun q => { q with pendGate := some (g, g.base) }) .admin d 0x41 p)
  ∧ (∀ (s : State) (d : Cmd) (g : GateList × Nat), turn s .admin → gateCancel d = true → portReady s (argN d 0 1) = true →
    gateArgsBad s d = false → (getPort s (argN d 0 1)).pendGate = some g →
    exec (.gateCommitCancel .admin d) s = completes s (dropTakeover (taken s .admin) (argN d 0 1)) .admin d 0x41 stOK [])
  ∧ (∀ (s : State) (d : Cmd), turn s .admin → ready s rdyTim = true → stepBad s d = false →
    (tvals s.arms).any (fun a => a.st ≠ .idle) = false →
    exec (.timeStep .admin d) s = completes s (stepClock (taken s .admin) (stepTarget s d).toNat) .admin d 0x42 stOK [])
  ∧ (∀ (s : State) (d : Cmd), turn s .admin → ready s rdyShp = true → argsOnly d [(0, 3)] = true → argN d 2 1 ≤ 1 →
    exec (.tlmSet .admin d) s =
      completes s { taken s .admin with tlmMask := argN d 0 2, tlmOn := argN d 2 1 = 1 } .admin d 0x43 stOK [])

/-- A command names an instance that exists (R476, R477). -/
def Sys2Proof.Claims.names (s : State) (n : Nat) : Prop := ready s rdyIns = true ∧ n ≤ 1023 ∧ instExists s n = true

/-- INS_CREATE, INS_DESTROY, INS_RESET, INS_SHARE, INS_CLUSTERS with each OP, and INS_QUERY (R479, R482, R485-R487, R494-R497, R505). -/
def Obligations.InstanceCommandsComplete : Prop :=
  (∀ (s : State) (d : Cmd) (n : Nat), turn s .admin → ready (taken s .admin) rdyIns = true → n = argN d 0 2 → 1 ≤ n → n ≤ 1023 →
    createBad d = false → instExists (taken s .admin) n = false →
    (bitmapAt d 0x70).any (clusterRetired (taken s .admin)) = false →
    (bitmapAt d 0x70).any (fun c => !clusterFree (taken s .admin) c) = false →
    pasidTaken (taken s .admin) 0 (pasidField (bufN d 4 4)) = false → pasidTaken (taken s .admin) 1 (pasidField (bufN d 8 4)) = false →
    exec (.insCreate .admin d) s = completes s (createInst (taken s .admin) n d) .admin d 0x60 stOK [])
  ∧ (∀ (s : State) (d : Cmd) (n : Nat), turn s .admin → names (taken s .admin) n → n = argN d 0 2 → 1 ≤ n →
    argsOnly d [(0, 2), (4, 4)] = true → argN d 4 4 ≤ 1000000 → instActive (taken s .admin) n = true →
    exec (.insDestroy .admin d) s = waits s
      (beginReset (taken s .admin) n (resetBound (taken s .admin) (argN d 4 4)) true false (some s.nextId)) .admin d 0x61 n)
  ∧ (∀ (s : State) (d : Cmd) (n : Nat), turn s .admin → names (taken s .admin) n → n = argN d 0 2 → 1 ≤ n →
    argsOnly d [(0, 2), (4, 4)] = true → argN d 4 4 ≤ 1000000 → instActive (taken s .admin) n = true →
    exec (.insReset .admin d) s = waits s
      (beginReset (taken s .admin) n (resetBound (taken s .admin) (argN d 4 4)) false false (some s.nextId)) .admin d 0x62 n)
  ∧ (∀ (s : State) (d : Cmd) (n : Nat), turn s .admin → names (taken s .admin) n → n = argN d 0 2 → argsOnly d [(0, 2)] = true →
    d.bufLen = 64 → sharesOk d 0 = true → instActive (taken s .admin) n = true →
    exec (.insShare .admin d) s =
      completes s (setShares (taken s .admin) n (sharesAt d 0) (bit (bufN d 0x13 1) 0)) .admin d 0x63 stOK [])
  ∧ (∀ (s : State) (d : Cmd) (n : Nat), turn s .admin → names (taken s .admin) n → n = argN d 0 2 → argN d 2 1 = 0 →
    clustersBad d = false → instActive (taken s .admin) n = true → (bitmapAt d 0).any (clusterRetired (taken s .admin)) = false →
    (bitmapAt d 0).any (fun c => !clusterFree (taken s .admin) c) = false →
    exec (.insClustersAdd .admin d) s =
      completes s (giveClusters (taken s .admin) n (bitmapAt d 0)) .admin d 0x64 stOK [(0, 2, 0), (2, 2, 0)])
  ∧ (∀ (s : State) (d : Cmd) (n busy : Nat), turn s .admin → names (taken s .admin) n → n = argN d 0 2 → argN d 2 1 = 1 →
    clustersBad d = false → instActive (taken s .admin) n = true →
    (bitmapAt d 0).any (fun c => (getCluster (taken s .admin) c).owner ≠ some n) = false →
    busy = ((bitmapAt d 0).filter (clusterBusy (taken s .admin))).length →
    exec (.insClustersRemove .admin d) s = completes s (leaveClusters (taken s .admin) (bitmapAt d 0)) .admin d 0x64 stOK
      [(0, 2, (bitmapAt d 0).length - busy), (2, 2, busy)])
  ∧ (∀ (s : State) (d : Cmd), turn s .admin → ready (taken s .admin) rdyIns = true → argsOnly d [(0, 2)] = true → argN d 0 2 ≤ 1023 →
    exec (.insQuery .admin d) s = answers s (taken s .admin) .admin d 0x6A (insRecord (taken s .admin) (argN d 0 2)))

/-- HBM_REGION_CREATE, HBM_REGION_RELEASE, INS_LOG_START, INS_LOG_SYNC and INS_LOG_STOP (R488, R491-R493, R498-R501). -/
def Obligations.RegionAndLogCommandsComplete : Prop :=
  (∀ (s : State) (d : Cmd) (n k g : Nat), turn s .admin → names (taken s .admin) n → n = argN d 0 2 → k = argN d 2 2 →
    argsOnly d [(0, 4)] = true → 1 ≤ k → k ≤ 368 → instActive (taken s .admin) n = true → lowestFree s.regions 1024 = some g →
    (regionsOf (taken s .admin) n).length < (getInst (taken s .admin) n).shares.regions →
    blocksOf (taken s .admin) n + k ≤ (getInst (taken s .admin) n).shares.blocks → k ≤ s.freeBlocks.length →
    exec (.hbmRegionCreate .admin d) s = waits s
      { taken s .admin with
        regions := tset s.regions g { owner := n, blocks := s.freeBlocks.take k }
        freeBlocks := s.freeBlocks.drop k
        hbmJobs := s.hbmJobs ++ [{ blocks := s.freeBlocks.take k, freeing := false, cmd := some s.nextId, region := g }] }
      .admin d 0x65 n)
  ∧ (∀ (s : State) (d : Cmd) (g : Nat) (x : Region), turn s .admin → ready (taken s .admin) rdyIns = true → g = argN d 0 2 →
    argsOnly d [(0, 2)] = true → tget s.regions g = some x → instActive (taken s .admin) x.owner = true →
    regionUsed (taken s .admin) g = false →
    exec (.hbmRegionRelease .admin d) s = waits s
      { taken s .admin with
        regions := tdel s.regions g
        hbm := s.hbm.filter fun y => y.1 / 2 ^ 37 ≠ g
        hbmJobs := s.hbmJobs ++ [{ blocks := x.blocks, freeing := true, cmd := some s.nextId, region := g, destroyed := none }] }
      .admin d 0x66 g)
  ∧ (∀ (s : State) (d : Cmd) (n link base len a b : Nat), turn s .admin → names (taken s .admin) n → n = argN d 0 2 →
    link = argN d 2 1 → base = argN d 8 8 → len = argN d 16 8 → a = argN d 24 8 → b = argN d 32 8 → 1 ≤ n → link ≤ 1 →
    argsOnly d [(0, 3), (8, 32)] = true → base % 4096 = 0 → len % 4096 = 0 → 4096 ≤ len → len ≤ 2 ^ 40 → a % 8 = 0 → b % 8 = 0 →
    (b + ceilDiv len (2 ^ 18) * 8 ≤ a ∨ a + ceilDiv len (2 ^ 18) * 8 ≤ b) → (getInst (taken s .admin) n).st ≠ .destroying →
    logOf (getInst (taken s .admin) n) link = none →
    exec (.insLogStart .admin d) s = completes s
      (setLog (taken s .admin) n link (some { base := base, length := len, bitmapA := a, bitmapB := b })) .admin d 0x67 stOK [])
  ∧ (∀ (s : State) (d : Cmd) (n link : Nat) (g : DirtyLog), turn s .admin → names (taken s .admin) n → n = argN d 0 2 →
    link = argN d 2 1 → 1 ≤ n → link ≤ 1 → argsOnly d [(0, 3)] = true → logOf (getInst (taken s .admin) n) link = some g →
    g.sync = none →
    exec (.insLogSync .admin d) s = waits s (setLog (taken s .admin) n link (some (swapLog g s.nextId false))) .admin d 0x68 n
    ∧ exec (.insLogStop .admin d) s = waits s (setLog (taken s .admin) n link (some (swapLog g s.nextId true))) .admin d 0x69 n)

/-- The steps of an instance's reset and destroy, of HBM and cluster scrubs, and of a dirty-page log (R485, R491-R501). -/
def Obligations.InstanceStepsComplete : Prop :=
  (∀ (s : State) (n : Nat) (p : ResetProc), (getInst s n).proc = some p → p.deadline ≤ s.now → p.released = false → p.stepFour = false →
    resetDrained s n = false → exec (.insDrainBoundExpire n) s = goOnKeep s (squashInst s n))
  ∧ (∀ (s : State) (n : Nat) (p : ResetProc), (getInst s n).proc = some p → p.released = false → resetDrained s n = true →
    exec (.insResetComplete n) s = goOnKeep s (endReset s n p))
  ∧ (∀ (s : State) (j : HbmJob) (t : List HbmJob), s.hbmJobs = j :: t → j.freeing = true →
    exec .hbmScrubDone s = goOnKeep s
      (let u := finishCmd? { s with hbmJobs := t, freeBlocks := s.freeBlocks ++ j.blocks } j.cmd stOK []
       match j.destroyed with | some n => checkDestroy u n | none => u))
  ∧ (∀ (s : State) (j : HbmJob) (t : List HbmJob), s.hbmJobs = j :: t → j.freeing = false →
    exec .hbmScrubDone s = goOnKeep s
      (if ((tget s.regions j.region).map (·.blocks)) = some j.blocks then finishCmd? { s with hbmJobs := t } j.cmd stOK [(0, 2, j.region)]
       else finishCmd? { s with hbmJobs := t } j.cmd stFlushed []))
  ∧ (∀ (s : State) (c t : Nat), (getCluster s c).scrub = some t →
    exec (.clusterScrubDone c) s = goOnKeep s
      (let u := modCluster s c fun k => { k with owner := none, leaving := false, scrub := none, pattern := .idle, switchAt := none }
       match (getCluster s c).owner with | some n => checkDestroy u n | none => u))
  ∧ (∀ (s : State) (n link : Nat) (g : DirtyLog), logOf (getInst s n) link = some g → (g.oldDue ≠ [] ∨ g.due ≠ []) →
    exec (.dirtyPageMark n link) s = goOnKeep s (markLog s n link g))
  ∧ (∀ (s : State) (n link id : Nat) (g : DirtyLog) (stop : Bool), logOf (getInst s n) link = some g → g.sync = some (id, stop) →
    g.oldDue = [] → exec (.logSyncDone n link) s = goOnKeep s (finishSync s n link g id stop))

/-- FLT_LOG, FLT_RETIRE, FLT_RETURN, FLT_SHIFT and FLT_DIE_RETURN (R518, R521, R525-R528, R537), FW_WRITE and FW_ACTIVATE (R529-R531), these two
also under the recovery loader. Whether a column was shifted at manufacture is Config.factoryShift and whether a signature holds
Config.firmwareSignatureOk, which nothing fixes: FLT_SHIFT and FW_WRITE are stated for both cases. -/
def Obligations.FaultCommandsComplete : Prop :=
  (∀ (s : State) (d : Cmd), turn s .admin → ready (taken s .admin) rdyFlt = true → argsOnly d [] = true →
    16 * s.history.length ≤ d.bufLen → s.history ≠ [] →
    exec (.fltLog .admin d) s = goOnKeep s
      (completeCmd (hostWrite (taken s .admin) 0 (getInst (taken s .admin) 0).home d.bufAddr.toNat (historyBytes s)) .admin d.tag
        (indexOf s .admin) 0x70 stOK (historyBytes s).length [(0, 2, s.history.length), (2, 2, s.histLost)]))
  ∧ (∀ (s : State) (d : Cmd), turn s .admin → ready (taken s .admin) rdyFlt = true → argsOnly d [] = true → s.history = [] →
    exec (.fltLog .admin d) s = completes s (taken s .admin) .admin d 0x70 stOK [(0, 2, 0), (2, 2, s.histLost)])
  ∧ (∀ (s : State) (d : Cmd), turn s .admin → ready (taken s .admin) rdyFlt = true → argsOnly d [(0, 1), (4, 4)] = true →
    chanOk (argChan d) = true → isRetired s (argChan d) = false →
    exec (.fltRetire .admin d) s = completes s (retireByHand (taken s .admin) (argChan d)) .admin d 0x71 stOK [])
  ∧ (∀ (s : State) (d : Cmd), turn s .admin → ready (taken s .admin) rdyFlt = true → argsOnly d [(0, 1), (4, 4)] = true →
    (argChan d).kind ≠ 6 → chanOk (argChan d) = true → (argChan d) ∈ s.byHand →
    exec (.fltReturn .admin d) s = completes s (returnChannel (taken s .admin) (argChan d)) .admin d 0x72 stOK [])
  ∧ (∀ (s : State) (d : Cmd), turn s .admin → ready (taken s .admin) rdyFlt = true → argsOnly d [(0, 1), (4, 4)] = true →
    (argChan d).kind = 6 → (argChan d).num < 4 → s.pllStandby.getLsbD (argChan d).num = false →
    exec (.fltReturn .admin d) s = completes s (returnPll (taken s .admin) (argChan d).num) .admin d 0x72 stOK [])
  ∧ (∀ (s : State) (d : Cmd) (c : Nat), turn s .admin → ready (taken s .admin) rdyFlt = true → ready (taken s .admin) rdyArr = true →
    argsOnly d [(0, 2), (4, 4)] = true → c = argN d 0 2 → c ≤ 1279 → 1 ≤ argN d 4 4 → argN d 4 4 ≤ 3600000 → columnPending s c = false →
    exec (.fltShift .admin d) s =
      if columnShifted s c then completes s (taken s .admin) .admin d 0x73 stStateConflict []
      else waits s (startShift (taken s .admin) c (some s.nextId) (some (s.now + argN d 4 4 * msec))) .admin d 0x73 c)
  ∧ (∀ (s : State) (d : Cmd) (k : Nat), turn s .admin → ready (taken s .admin) rdyFlt = true → argsOnly d [(0, 1)] = true → k = argN d 0 1 →
    k ≤ 3 → s.dieUp.getLsbD k = false → dieCool (taken s .admin) k = true → s.dieReturn = none →
    exec (.fltDieReturn .admin d) s = waits s
      (setPwren { taken s .admin with dieReturn := some { die := k, cmd := some s.nextId } } k true) .admin d 0x74 k)
  ∧ (∀ (s : State) (d : Cmd), engineTurn s .admin = true → argsOnly d [] = true → s.mgmt.writing = none →
    exec (.fwWrite .admin d) s =
      if Config.firmwareSignatureOk d.buf then
        waits s { taken s .admin with mgmt := { s.mgmt with writing := some (d.buf, s.nextId) } } .admin d 0x75 0
      else completes s (taken s .admin) .admin d 0x75 stIntegrity [])
  ∧ (∀ (s : State) (d : Cmd), engineTurn s .admin = true → argsOnly d [] = true → s.mgmt.writing = none → s.mgmt.activate = none →
    exec (.fwActivate .admin d) s =
      waits s { beginRestart (taken s .admin) with mgmt := { (beginRestart (taken s .admin)).mgmt with activate := some s.nextId } }
        .admin d 0x76 0)

/-- The steps of fault commands and of firmware (R527-R531). -/
def Obligations.FaultStepsComplete : Prop :=
  (∀ (s : State) (die col : Nat) (x : Shift), s.shiftPend.find? (fun x => x.die = die && x.column = col) = some x →
    unitsToMove s x = [] →
    exec (.spareShiftApply die col) s = goOnKeep s (finishCmd? (applyShift s x) x.cmd stOK [(0, 2, x.moved)]))
  ∧ (∀ (s : State) (x : Shift), s.shiftPend.find? (fun x => x.deadline.any fun t => t ≤ s.now) = some x →
    exec .fltShiftBoundExpire s = goOnKeep s (finishCmd?
      { s with shiftPend := s.shiftPend.map fun y =>
          if y.die = x.die ∧ y.column = x.column then { y with cmd := none, deadline := none } else y }
      x.cmd stTimeout [(0, 2, x.moved)]))
  ∧ (∀ (s : State) (die : Nat) (x : DieReturn) (failed : List Nat), s.dieReturn = some x → x.die = die →
    exec (.dieReturnDone die true failed) s = goOnKeep s (finishCmd?
      (dieBack { s with dieReturn := none } die (failed.filter fun c => dieOfCluster c = die).dedup) x.cmd stOK
      [(0, 2, (failed.filter fun c => dieOfCluster c = die).dedup.length)]))
  ∧ (∀ (s : State) (b : Bytes) (id : Nat), s.mgmt.writing = some (b, id) →
    exec .fwFlashWritten s =
      goOnKeep s (finishCmd { s with mgmt := { s.mgmt with flash := some b, writing := none } } id stOK []))
  ∧ (∀ (s : State), s.mgmt.restarting = true → s.mgmt.startDeadline ≤ s.now →
    exec .fwStartTimeout s = goOnKeep s (failedStart s))

/-- A doorbell on a serving page names ring k, which is r (R433, R434, R478). -/
def Sys2Proof.Claims.reaches (s : State) (kind page : Nat) (b : Doorbell) (k : Nat) (r : Ring) : Prop :=
  (getInst s page).st ≠ .resetting ∧ (getInst s page).st ≠ .destroying ∧ doorbellRing s kind page b = some (k, r)

/-- Ring x = r after a producer doorbell (R352, R435): the index is replaced; new entries wait, and entries taken back before the engine served
them do not. -/
def Sys2Proof.Claims.rung (r : Ring) (b : Doorbell) (ds : List Bytes) (x : Ring) : Ring :=
  { x with prod := b.index,
           posted := (x.posted ++ newDescs ds ((b.index - r.cons).toNat - ringCount x)).take (b.index - r.cons).toNat }

/-- The doorbells of software-produced rings (R352, R431, R432, R435): an index ahead of the consumer index by no more than the ring holds replaces
the producer index. A malformed raw receive buffer completes with BAD_PARAM (R5, R445). -/
def Obligations.ProducerDoorbellsComplete : Prop :=
  (∀ (s : State) (page k : Nat) (b : Doorbell) (r : Ring) (ds : List Bytes), (b.index - r.cons).toNat ≤ r.entries →
    (reaches s rkSq page b k r → exec (.sqDoorbell page b ds) s = goOnKeep s (modRing s k (rung r b ds)))
    ∧ (reaches s rkRawTx page b k r → exec (.rawTxDoorbell page b ds) s = goOnKeep s (modRing s k (rung r b ds)))
    ∧ (reaches s rkRawRx page b k r → (∀ d ∈ newDescs ds ((b.index - r.cons).toNat - ringCount r), recvOk 17 d = true) →
      exec (.rawRxDoorbell page b ds) s = goOnKeep s (modRing s k (rung r b ds)))
    ∧ (∀ d, reaches s rkRawRx page b k r → newDescs ds ((b.index - r.cons).toNat - ringCount r) = [d] → recvOk 17 d = false →
      exec (.rawRxDoorbell page b ds) s = goOnKeep s
        (rejectRawRx (modRing (modRing s k (rung r b ds)) k fun x => { x with posted := x.posted.filter (recvOk 17) }) k r d))
    ∧ (reaches s rkCmd page b k r →
      exec (.cmdRingDoorbell page b) s = goOnKeep s (modRing (modRing s k (rung r b [])) k fun x => { x with posted := [] }))
    ∧ (reaches s rkAdmin page b k r →
      exec (.adminRingDoorbell page b) s = goOnKeep s (modRing (modRing s k (rung r b [])) k fun x => { x with posted := [] })))
  ∧ (∀ (s : State) (page k n : Nat) (b : Doorbell) (r r' : Ring) (ds : List Bytes), reaches s rkRq page b k r →
    r' = { r with cons := rqCons s b.number.toNat r } → n = (b.index - r'.cons).toNat → n ≤ r.entries →
    exec (.rqDoorbell page b ds) s = goOnKeep s (serveHeld
      (takeRecvs
        (modQp (modRing (modRing s k fun _ => r') k fun r => { r with prod := b.index }) b.number.toNat fun q => { q with recvs := q.recvs.take n })
        b.number.toNat r.prod (newDescs ds (n - ringCount r'))) page))

/-- The doorbells of adapter-produced rings (R435, R440): a consumer index that is not ahead of the producer index frees the entries before it,
and ARM arms the ring. MSIX_MOD_EXPIRE raises the vector of an armed ring whose time has passed. -/
def Obligations.ConsumerDoorbellsComplete : Prop :=
  (∀ (s : State) (page k : Nat) (b : Doorbell) (r : Ring) (t : State), (b.index - r.cons).toNat ≤ ringCount r →
    t = raiseIfDue (modRing s k fun r =>
      { r with cons := b.index, times := r.times.drop (b.index - r.cons).toNat, armed := r.armed || (b.arm && hasVector r.kind),
               armIndex := if b.arm then b.index else r.armIndex,
               firstAt := if b.arm then (r.times.drop (b.index - r.cons).toNat).head? else r.firstAt }) k →
    (reaches s rkCq page b k r → exec (.cqDoorbell page b) s = goOnKeep s t)
    ∧ (reaches s rkCpl page b k r → exec (.cmdCplDoorbell page b) s = goOnKeep s t)
    ∧ (reaches s rkEvent page b k r → exec (.eventRingDoorbell page b) s = goOnKeep s t)
    ∧ (reaches s rkTs page b k r → exec (.tsRingDoorbell page b) s = goOnKeep s t)
    ∧ (reaches s rkAdminCpl page b k r → exec (.adminCplDoorbell page b) s = goOnKeep s t)
    ∧ (reaches s rkTlm page b k r → exec (.tlmRingDoorbell page b) s = goOnKeep s t)
    ∧ (reaches s rkSteer page b k r → exec (.steerRingDoorbell page b) s = goOnKeep s (serveHeld t page)))
  ∧ (∀ (s : State) (k : Nat) (r : Ring) (t : Nat), getRing s k = some r → r.armed = true → 0 < (r.prod - r.armIndex).toNat →
    (r.prod - r.armIndex).toNat < 2 ^ 31 → r.firstAt = some t → r.modUsec * usec ≤ s.now - t →
    linkUp s (getInst s r.owner).home = true → s.iodLost = false →
    exec (.msixModExpire k) s = goOnKeep s
      (modRing (emit s (.msix (getInst s r.owner).home r.vector)) k fun r => { r with armed := false }))

/-- R434's cases of a doorbell for a ring of a kind on a page: no aligned 8-byte write; a reserved bit set; a ring of instance 0 alone on another
page; NUMBER names a ring that does not exist or that the page's instance does not own. -/
def Sys2Proof.Claims.broken (s : State) (kind page : Nat) (b : Doorbell) : Prop :=
  b.aligned = false ∨ b.reserved ≠ 0 ∨ ((kind = rkAdmin ∨ kind = rkAdminCpl ∨ kind = rkTlm) ∧ page ≠ 0)
    ∨ (∀ k r, doorbellKey kind page b = some k → getRing s k = some r → r.owner ≠ page)

/-- R434: in any of its cases a doorbell on the page of an active instance changes nothing but the instance's DOORBELL_DROPPED. -/
def Obligations.BrokenDoorbellsDiscarded : Prop :=
  ∀ (s : State) (page : Nat) (b : Doorbell) (ds : List Bytes), (getInst s page).st = .active →
    (broken s rkSq page b → exec (.sqDoorbell page b ds) s = goOnKeep s (countInst s page 0 1))
    ∧ (broken s rkRq page b → exec (.rqDoorbell page b ds) s = goOnKeep s (countInst s page 0 1))
    ∧ (broken s rkCq page b → exec (.cqDoorbell page b) s = goOnKeep s (countInst s page 0 1))
    ∧ (broken s rkCmd page b → exec (.cmdRingDoorbell page b) s = goOnKeep s (countInst s page 0 1))
    ∧ (broken s rkCpl page b → exec (.cmdCplDoorbell page b) s = goOnKeep s (countInst s page 0 1))
    ∧ (broken s rkEvent page b → exec (.eventRingDoorbell page b) s = goOnKeep s (countInst s page 0 1))
    ∧ (broken s rkRawTx page b → exec (.rawTxDoorbell page b ds) s = goOnKeep s (countInst s page 0 1))
    ∧ (broken s rkRawRx page b → exec (.rawRxDoorbell page b ds) s = goOnKeep s (countInst s page 0 1))
    ∧ (broken s rkTs page b → exec (.tsRingDoorbell page b) s = goOnKeep s (countInst s page 0 1))
    ∧ (broken s rkSteer page b → exec (.steerRingDoorbell page b) s = goOnKeep s (countInst s page 0 1))
    ∧ (broken s rkAdmin page b → exec (.adminRingDoorbell page b) s = goOnKeep s (countInst s page 0 1))
    ∧ (broken s rkAdminCpl page b → exec (.adminCplDoorbell page b) s = goOnKeep s (countInst s page 0 1))
    ∧ (broken s rkTlm page b → exec (.tlmRingDoorbell page b) s = goOnKeep s (countInst s page 0 1))

/-- R435, R478: an index past the ring's end counts RING_OVERRUN and raises its event; a doorbell of an instance that is resetting or being
destroyed changes nothing. -/
def Obligations.OverrunAndResettingDoorbells : Prop :=
  (∀ (s : State) (page k : Nat) (b : Doorbell) (r : Ring) (ds : List Bytes), r.entries < (b.index - r.cons).toNat →
    (reaches s rkSq page b k r → exec (.sqDoorbell page b ds) s = goOnKeep s (ringOverrun s r.owner r.kind b.number.toNat))
    ∧ (reaches s rkRawTx page b k r → exec (.rawTxDoorbell page b ds) s = goOnKeep s (ringOverrun s r.owner r.kind b.number.toNat))
    ∧ (reaches s rkRawRx page b k r → exec (.rawRxDoorbell page b ds) s = goOnKeep s (ringOverrun s r.owner r.kind b.number.toNat)))
  ∧ (∀ (s : State) (page k : Nat) (b : Doorbell) (r : Ring), ringCount r < (b.index - r.cons).toNat →
    (reaches s rkCq page b k r → exec (.cqDoorbell page b) s = goOnKeep s (ringOverrun s r.owner r.kind b.number.toNat))
    ∧ (reaches s rkTs page b k r → exec (.tsRingDoorbell page b) s = goOnKeep s (ringOverrun s r.owner r.kind b.number.toNat))
    ∧ (reaches s rkEvent page b k r → exec (.eventRingDoorbell page b) s = goOnKeep s (ringOverrun s r.owner r.kind b.number.toNat)))
  ∧ (∀ (s : State) (page : Nat) (b : Doorbell) (ds : List Bytes), ((getInst s page).st = .resetting ∨ (getInst s page).st = .destroying) →
    exec (.sqDoorbell page b ds) s = goOnKeep s s ∧ exec (.rqDoorbell page b ds) s = goOnKeep s s
    ∧ exec (.rawTxDoorbell page b ds) s = goOnKeep s s ∧ exec (.rawRxDoorbell page b ds) s = goOnKeep s s
    ∧ exec (.cqDoorbell page b) s = goOnKeep s s ∧ exec (.cmdCplDoorbell page b) s = goOnKeep s s
    ∧ exec (.cmdRingDoorbell page b) s = goOnKeep s s ∧ exec (.eventRingDoorbell page b) s = goOnKeep s s
    ∧ exec (.tsRingDoorbell page b) s = goOnKeep s s ∧ exec (.steerRingDoorbell page b) s = goOnKeep s s)

/-- The mailbox (R573, R574): a request is posted while none is in progress and the processor serves, and completes with its result. -/
def Sys2Proof.Claims.posted (s : State) (code : Nat) (seq : Byte) (arg : BitVec 16) : State :=
  { regPut s glbMboxReq (code + seq.toNat * 256 + arg.toNat * 65536) with
    mgmt := { s.mgmt with mbox := some { code := code, seq := seq, arg := arg.toNat } } }

/-- FW_INFO, UPTIME, LINK_INFO and LLDP_PEER are posted as one request of CODE 1 to 4; MBOX_COMPLETE writes DATA0-DATA3, STATUS and SEQ and ends
BUSY (R573, R574). -/
def Obligations.MailboxCompletes : Prop :=
  (∀ (s : State) (q : Byte) (a : BitVec 16), ready s rdyMgmt = true → s.mgmt.restarting = false → s.mgmt.mbox = none →
    exec (.fwInfo q a) s = goOnKeep s (posted s 1 q a) ∧ exec (.uptime q a) s = goOnKeep s (posted s 2 q a)
    ∧ exec (.linkInfo q a) s = goOnKeep s (posted s 3 q a) ∧ exec (.lldpPeer q a) s = goOnKeep s (posted s 4 q a))
  ∧ (∀ (s : State) (q : MboxReq), ready s rdyMgmt = true → s.mgmt.restarting = false → s.mgmt.mbox = some q → s.mgmt.recovery = false →
    exec .mboxComplete s = goOnKeep s
      (mboxAnswer (mboxResult s q).2 q.seq (mboxResult s q).1.1 (mboxResult s q).1.2))

/-- The request at the head of a send queue whose turn it is (R351) is one of an opcode, with its descriptor's checks passed (R320, R443, R444). -/
def Sys2Proof.Claims.mayStart (s : State) (i op : Nat) (q : Qp) (index : BitVec 32) (d : Bytes) (w : SendWr) : Prop :=
  getQp s i = some q ∧ sqHead s i = some (index, d) ∧ w = parseSend index d [] ∧ w.opcode = op ∧ q.st = .rts ∧ sendBad d w = false
    ∧ sendTurn s i q = true

/-- WR_SEND, WR_WRITE and WR_READ in RTS start the request (R320, R323, R351, R444), with the payload read at LOCAL_ADDR; RAW_TRANSMIT queues the frame of
a good descriptor (R386, R446). A read that fails gives what it was for the status of R428: a work request, a LOAD in verification, a command as it
is taken, a message, a raw transmit, a peer's READ. -/
def Obligations.WorkRequestsStart : Prop :=
  (∀ (s : State) (i : Nat) (q : Qp) (index : BitVec 32) (d p : Bytes) (w : SendWr),
    (mayStart s i 1 q index d w → (localAccess s q.owner w.lkey w.localAddr w.length 0).1 = stOK →
      exec (.wrSend i p) s = goOnKeep s (countInst (modQp (takeHead (sendServed s i q) i) i fun q =>
        beginSend q { w with payload := sliceZ p 0 w.length }) q.owner 6 1))
    ∧ (mayStart s i 2 q index d w → (localAccess s q.owner w.lkey w.localAddr w.length 0).1 = stOK →
      exec (.wrWrite i p) s = goOnKeep s (countInst (modQp (takeHead (sendServed s i q) i) i fun q =>
        beginSend q { w with payload := sliceZ p 0 w.length }) q.owner 6 1))
    ∧ (mayStart s i 3 q index d w → (localAccess s q.owner w.lkey w.localAddr w.length acLocalWrite).1 = stOK →
      exec (.wrRead i) s = goOnKeep s (countInst (modQp (takeHead (sendServed s i q) i) i fun q => beginSend q { w with payload := [] })
        q.owner 6 1)))
  ∧ (∀ (s : State) (inst number : Nat) (frame d f : Bytes) (t : List Bytes) (r : Ring) (x : RawDesc),
    getRing s (rawKey rkRawTx inst number) = some r → r.posted = d :: t → instActive s inst = true → x = parseRaw d →
    f = sliceZ frame 0 (min x.length 16384) → (portExists s x.port = true → portReady s x.port = true) → r.failed = false →
    rawBad s d x f = false → (localAccess s inst x.lkey x.addr x.length 0).1 = stOK →
    bucketPermits s (instBucket inst false) = true →
    ∀ u, u = bucketCharge (modRing s (rawKey rkRawTx inst number) fun r =>
        { r with cons := r.cons + 1, posted := t, rawOut := r.rawOut ++ [rawOutOf r.cons x] })
      (instBucket inst false) (wireBytes f.length) →
    txOpen u x.port = true →
    exec (.rawTransmit inst number frame) s = goOnKeep s (queueTc u x.port x.tc (rawFrame s inst number r.cons x f)))
  ∧ (∀ (s : State) (i : Nat) (q : Qp) (w : SendWr), getQp s i = some q →
    q.sends.find? (fun w => w.started && w.done.isNone && w.opcode ≠ 3 && w.sent < w.packets) = some w →
    exec (.pcieReadCompletion (.workRequest i)) s = goOnKeep s (qpError s i (some (w.index, stNotPermitted)) none)
    ∧ exec (.pcieCompletionTimeout (.workRequest i)) s = goOnKeep s (qpError s i (some (w.index, stTimeout)) none))
  ∧ (∀ (s : State) (r : CmdRing) (tag : BitVec 32) (c : PendCmd) (ui : Nat) (u : MUnit),
    s.cmds.find? (fun c => c.ring = r && c.tag = tag) = some c → s.units.find? (fun u => u.2.loadCmd = some c.id) = some (ui, u) →
    ∀ op, exec (.pcieReadCompletion (.command r tag op)) s =
      goOnKeep s (startScrub (modUnit s ui fun u => { u with loadCmd := none, image := [] }) ui (some c.id) stNotPermitted)
    ∧ exec (.pcieCompletionTimeout (.command r tag op)) s =
      goOnKeep s (startScrub (modUnit s ui fun u => { u with loadCmd := none, image := [] }) ui (some c.id) stTimeout))
  ∧ (∀ (s t : State) (r : CmdRing) (tag index : BitVec 32) (op : Nat), s.cmds.find? (fun c => c.ring = r && c.tag = tag) = none →
    takeCmd s r = some (index, t) →
    exec (.pcieReadCompletion (.command r tag op)) s = goOnKeep s (completeCmd t r tag index op stNotPermitted 0 [])
    ∧ exec (.pcieCompletionTimeout (.command r tag op)) s = goOnKeep s (completeCmd t r tag index op stTimeout 0 []))
  ∧ (∀ (s : State) (inst number : Nat) (r : Ring) (d : Bytes) (t : List Bytes), getRing s (rawKey rkRawTx inst number) = some r →
    r.posted = d :: t → instActive s inst = true → ∀ u, u = (modRing s (rawKey rkRawTx inst number) fun r =>
      { r with cons := r.cons + 1, posted := t, rawOut := r.rawOut ++ [rawOutOf r.cons (parseRaw d)] }) →
    exec (.pcieReadCompletion (.rawTransmit inst number)) s = goOnKeep s (rawFinish u inst number r.cons stNotPermitted)
    ∧ exec (.pcieCompletionTimeout (.rawTransmit inst number)) s = goOnKeep s (rawFinish u inst number r.cons stTimeout))
  ∧ (∀ (s : State) (id : Nat), exec (.pcieReadCompletion (.message id)) s = goOnKeep s (failMsg s id stNotPermitted)
    ∧ exec (.pcieCompletionTimeout (.message id)) s = goOnKeep s (failMsg s id stTimeout))
  ∧ (∀ (s : State) (i psn msn : Nat) (q : Qp) (x : Nat × Bytes × Bool) (rest : List (Nat × Nat × Nat × Bytes × Bool)), getQp s i = some q →
    q.respQ = (psn, msn, x) :: rest →
    exec (.pcieReadCompletion (.readData i)) s = goOnKeep s (rxError s i msn stNotPermitted 2 psn)
    ∧ exec (.pcieCompletionTimeout (.readData i)) s = goOnKeep s (rxError s i msn stTimeout 2 psn))

/-- OPERATION_FIRE, ROUTER_PASS and CROSSING_TRANSFER (R98-R104, R146-R150, R156): passing tokens first, then the lowest-index ready operation of
the active shelf fires, one in a core cycle. -/
def Obligations.ArrayCyclesComplete : Prop :=
  (∀ (s t : State) (core shelf e : Nat) (f : OpF) (m : Mode), coreUp s core = true →
    t = routeCore (settleCluster s (cycleOf s)) core (cycleOf s) → tgetD t.coreFired core 0 ≠ cycleOf s + 1 →
    pickOp t core (cycleOf s) = some (shelf, e, f, m) →
    exec (.operationFire core) s = goOnKeep s
      (updateJoins (applyFiring t core shelf e (cycleOf s) f (fireOp t core shelf e (cycleOf s) f m) false) core (cycleOf s)))
  ∧ (∀ (s : State) (core : Nat), coreUp s core = true →
    exec (.routerPass core) s = goOnKeep s (routeCore (settleCluster s (cycleOf s)) core (cycleOf s)))
  ∧ (∀ (s : State) (core dir lat g : Nat), linkEnd core dir = .cross g → coreUp s core = true → coreUp s g = true →
    exec (.crossingTransfer core dir lat) s = goOnKeep s
      ((List.range 4).foldl (fun s k => crossShelf s core dir k (lat + xingDelay s (dieOf core) (dieOf g)) (cycleOf s)) s))

/-- LINK_PARITY_FAIL, UCIE_RETRY and JOIN_STARVED (R158, R171, R172, R174, R175). -/
def Obligations.ArrayEventsComplete : Prop :=
  (∀ (s t u : State) (core dir shelf tag : Nat), coreUp s core = true → 0 < arrivingIn s core dir shelf →
    t = regAdd (dropArriving s core dir shelf) arrParityCount 1 →
    u = regOr (if regBit t arrParityLoc 31 then t else regPut t arrParityLoc (parityLoc core dir tag)) arrEvent 2 →
    exec (.linkParityFail core dir ⟨shelf, tag⟩) s = goOnKeep s (arrayFault u 3 [linkChan core dir] (unitsOnLink u core dir) tag 0))
  ∧ (∀ (s : State) (l delay : Nat), l < 4 → s.dieUp.getLsbD (ringDies l).1 = true → s.dieUp.getLsbD (ringDies l).2 = true →
    exec (.ucieRetry l delay) s = goOnKeep s
      { regPut s arrXingRetry (putBits (regRaw s arrXingRetry) (8 * l + 7) (8 * l) (min 255 (regBits s arrXingRetry (8 * l + 7) (8 * l) + 1)))
        with xfifos := s.xfifos.map fun x =>
          if onRing l x.1 then (x.1, { x.2 with late := x.2.late ++ [(cycleOf s, min 32 delay)] }) else x })
  ∧ (∀ (s : State) (core shelf entry c ui : Nat) (u : MUnit) (f : OpF), tget s.joinSince (joinKey core shelf entry) = some c →
    unitAt s (clusterOf core) shelf = some (ui, u) → f = opDecode (tgetD (getCs s core shelf).ops entry 0) → coreUp s core = true →
    (u.st = .fired ∨ u.st = .cooling) → u.scrub = none → u.retired = false → coreAside u core = false → isJoin f = true →
    joinHeld s core shelf f = true → c + wdogNow s ≤ cycleOf s + 1 → tget s.joinDone (joinKey core shelf entry) ≠ some (wdogNow s) →
    exec (.joinStarved core shelf entry) s = goOnKeep s
      (starve { s with joinDone := tset s.joinDone (joinKey core shelf entry) (wdogNow s) } ui u core shelf entry))

/-- GEN_ROUND_START, GEN_TURN_START, GEN_TURN_COMPLETE and GEN_RESULT_SEND (R248, R250-R253, R260, R261, R264). -/
def Obligations.GenerationStepsComplete : Prop :=
  (∀ (s t : State) (ui : Nat) (u v : MUnit) (g : GenParams), getUnit s ui = some u → roundDue s u = true → u.scrub = none →
    t = closeDue (swapAtRound s ui u) ui u → getUnit t ui = some v → v.gen = some g →
    exec (.genRoundStart ui) s = goOnKeep s (fixTurns t ui v g))
  ∧ (∀ (s : State) (ui k : Nat) (u : MUnit) (g : GenParams) (n t : GenTurn), getUnit s ui = some u → u.gen = some g →
    (getSlot u k).next = some n → n.start ≤ cycleOf s → u.scrub = none → u.retired = false → (getSlot u k).turn = none →
    t = startedTurn u g (getSlot u k) n → t.tokens = [] →
    exec (.genTurnStart ui k) s = goOnKeep s (modSlot
      (modUnit (placeTurn s u k (getSlot u k) t) ui fun u =>
        { u with awaits := tmodD u.awaits 0 [] fun a => a ++ [if t.sampling then k else k + 64] }) ui k fun l =>
      { l with next := none, turn := none, req := l.req.map fun r => if t.feed then r else { r with toIngest := r.toIngest.drop 0 } }))
  ∧ (∀ (s : State) (ui k : Nat) (u : MUnit) (g : GenParams) (n t : GenTurn), getUnit s ui = some u → u.gen = some g →
    (getSlot u k).next = some n → n.start ≤ cycleOf s → u.scrub = none → u.retired = false → (getSlot u k).turn = none →
    t = startedTurn u g (getSlot u k) n → t.tokens ≠ [] →
    exec (.genTurnStart ui k) s = goOnKeep s (modSlot
      (modUnit
        (countService (countService (placeTurn s u k (getSlot u k) t) (serviceOf u) 1 1) (serviceOf u) 11 (t.base + t.tokens.length - g.onCtx))
        ui fun u => { u with awaits := tmodD u.awaits 0 [] fun a => a ++ [if t.sampling then k else k + 64] }) ui k fun l =>
      { l with next := none, turn := some t,
               req := l.req.map fun r => if t.feed then r else { r with toIngest := r.toIngest.drop t.tokens.length } }))
  ∧ (∀ (s : State) (ui k : Nat) (u : MUnit) (g : GenParams) (t : GenTurn), getUnit s ui = some u → u.gen = some g →
    (getSlot u k).turn = some t → t.done ≤ cycleOf s → u.retired = false → u.scrub = none →
    exec (.genTurnComplete ui k) s = goOnKeep s (turnComplete s ui k u g t))
  ∧ (∀ (s : State) (ui : Nat) (r : Nat × GenResult), dueResult s ui = some r →
    exec (.genResultSend ui) s = goOnKeep s (sendResult { s with results := s.results.erase r } r.2.qp r.2.data))

/-- SEQ_OPEN, SEQ_APPEND, SEQ_DRAFT and SEQ_CLOSE (R241, R247, R249, R251, R265): the first message waiting on an attached queue pair that may be
taken now is taken; refused for no reason of R249 it has its effect, and else it is answered with the status. -/
def Obligations.SequenceMessagesComplete : Prop :=
  ∀ (s t : State) (qp k : Nat) (q : Qp) (x : Nat × Bytes) (h : SeqHdr), getQp s qp = some q → q.service = some k →
    q.seqIn.find? (seqReady s k) = some x → h = parseSeq x.2 → t = modQp s qp (fun q => { q with seqIn := q.seqIn.erase x }) →
    (∀ ui v, seqUnit s k h = some (ui, v) → firstFail (seqChecks qp q h x.2 (some (ui, v))) = none →
      (h.op = 1 → exec (.seqOpen qp) s = goOnKeep s (seqApply t qp k ui v h x.2))
      ∧ (h.op = 2 → exec (.seqAppend qp) s = goOnKeep s (seqApply t qp k ui v h x.2))
      ∧ (h.op = 3 → exec (.seqDraft qp) s = goOnKeep s (seqApply t qp k ui v h x.2))
      ∧ (h.op = 4 → exec (.seqClose qp) s = goOnKeep s (seqApply t qp k ui v h x.2)))
    ∧ (∀ st, firstFail (seqChecks qp q h x.2 (seqUnit s k h)) = some st →
      (h.op = 1 → exec (.seqOpen qp) s = goOnKeep s (seqRefuse t qp k h (seqUnit s k h) st))
      ∧ (h.op = 2 → exec (.seqAppend qp) s = goOnKeep s (seqRefuse t qp k h (seqUnit s k h) st))
      ∧ (h.op = 3 → exec (.seqDraft qp) s = goOnKeep s (seqRefuse t qp k h (seqUnit s k h) st))
      ∧ (h.op = 4 → exec (.seqClose qp) s = goOnKeep s (seqRefuse t qp k h (seqUnit s k h) st)))

/-- Period starts and the loss of time (R298, R299, R301, R303, R304): an ARMED armature starts at T_K if its time condition holds and returns to
IDLE if it does not; a RUNNING one takes its next period, or stops at the period start that its stop or the loss of time names; the loss of the
time condition is taken note of once, at once. -/
def Obligations.ArmaturePeriodsComplete : Prop :=
  (∀ (s : State) (slot : Nat) (a : Armature), getArm s slot = some a → a.st = .armed → periodAt a.plan a.startK ≤ netNs s →
    exec (.armPeriodStart slot) s = goOnKeep s
      (if timeOk s a = true ∧ armBlocked s slot = true then
        finishCmd? (modArm s slot fun a => { a with st := .idle, startCmd := none, streams := [] }) a.startCmd stStateConflict []
       else if timeOk s a then
        let t := (localShards a.plan a.member).foldl (fun s h => discardExits s slot h) s
        finishCmd? (modArm
          ((armUnits t slot).foldl (fun s u => if u.2.st = .bisque && u.2.scrub.isNone && !u.2.retired then fireUnit s u.1 else s) t) slot
          fun a => { a with st := .running, period := a.startK, startCmd := none, timeLost := false, shards := restingShards a }) a.startCmd stOK []
       else finishCmd? (modArm s slot fun a => { a with st := .idle, startCmd := none, streams := [] }) a.startCmd stTimeLost []))
  ∧ (∀ (s : State) (slot : Nat) (a : Armature), getArm s slot = some a → a.st = .running → periodAt a.plan (a.period + 1) ≤ netNs s →
    exec (.armPeriodStart slot) s = goOnKeep s
      (if stopsAt a (a.period + 1) then stopArm s slot a
       else nextPeriod s slot (a.period + 1) a))
  ∧ (∀ (s : State) (slot : Nat) (a : Armature), getArm s slot = some a → a.st = .running → timeOk s a = false → a.timeLost = false →
    exec (.armTimeLost slot) s = goOnKeep s
      (report (regOr (modArm s slot fun a => { a with timeLost := true }) armEvent 2)
        { code := evTimeLost, origin := [slot], status := stTimeLost, detail := [(0, 1, slot), (8, 8, a.period)], owners := [a.owner] }))

/-- Feeds and bundles read, sent and received (R278, R279, R281-R285, R288, R300, R301); deadlines and collection (R279, R280, R289, R290, R292,
R293, R300, R301): a stream's on-time tokens enter, or VOID tokens in their place; an untimely stream is noted once; a shard whose streams hold
exactly their tokens composes its bundles and writes its results. -/
def Obligations.ArmatureStreamsComplete : Prop :=
  (∀ (s : State) (slot stream k : Nat) (data : Bytes) (a : Armature) (t : Stream), getArm s slot = some a →
    findStream a.plan stream = some t → t.kind = 1 → isLocalShard a.plan a.member t.dst = true → feedPeriod s a t = some k →
    exec (.armFeedRead slot stream data) s = goOnKeep s (modArm s slot fun a => { a with streams := tmodD a.streams stream {} fun r =>
      { r with feed := r.feed ++
          [(k, if le data 0 8 = k ∧ le data 8 2 = t.groups ∧ net600 s ≤ beatAt a.plan k t.consumeBeat * 600 then
                 readGroups false data 16 t.groups else [])] } }))
  ∧ (∀ (s : State) (slot stream p : Nat) (a : Armature) (t : Stream) (h : Shard) (ts : List (TokKind × DWord)), getArm s slot = some a →
    findStream a.plan stream = some t → windowPort a t = some p → findShard a.plan t.src = some h → a.st = .running →
    (streamRun a stream).out = some (a.period, ts) → speaks a h = true → (shardRun a h.num).muteUntil ≠ some a.period →
    (streamRun a stream).sentPeriod ≠ some a.period → (shardUnit s slot h).isSome = true → inWindow s a t p = true → bundlePort s p = true →
    exec (.armBundleSend slot stream) s = goOn s
      (let s' := modArm s slot fun a => { a with streams := tmodD a.streams stream {} fun r => { r with sentPeriod := some a.period } }
       let d := bundleFrame s' a t p a.period ((shardRun a h.num).tainted = some a.period) (h.standby = a.member) ts
       let u := if (shardRun a h.num).tainted = some a.period then countTaint s' slot a.period else s'
       depart (countPort u p 6 1) p { kind := .bundle, data := d, inst := a.owner, queuedAt := u.now }))
  ∧ (∀ (s t : State) (port n : Nat) (f : RxFrame) (a : Armature) (b : Stream) (ts : List (TokKind × DWord)),
    waiting s port (fun d => d = .armature) = some f → t = takeWaiting s port (fun d => d = .armature) →
    bundleOwner t f.data = some (n, a, b) → bundleCheck a b f.data = some ts →
    ((be f.data 28 8 : Int) = curPeriod t a.plan ∨ (be f.data 28 8 : Int) = curPeriod t a.plan + 1) →
    exec (.armBundleReceive port) s = goOnKeep s (acceptBundle (countPort t port 7 1) n a b f ts))
  ∧ (∀ (s t : State) (port : Nat) (f : RxFrame), waiting s port (fun d => d = .armature) = some f →
    t = takeWaiting s port (fun d => d = .armature) →
    (∀ n a b, bundleOwner t f.data = some (n, a, b) → ∀ ts, bundleCheck a b f.data = some ts →
      (be f.data 28 8 : Int) ≠ curPeriod t a.plan ∧ (be f.data 28 8 : Int) ≠ curPeriod t a.plan + 1) →
    exec (.armBundleReceive port) s = goOnKeep s (regAdd t armStray 1))
  ∧ (∀ (s : State) (slot stream : Nat) (a : Armature) (t : Stream), getArm s slot = some a → findStream a.plan stream = some t →
    a.st = .running → t.kind ≠ 2 → (isLocalShard a.plan a.member t.dst = true ∨ hears a t = true) →
    beatAt a.plan a.period t.consumeBeat ≤ netNs s → (streamRun a stream).done ≠ some a.period →
    exec (.armDeadline slot stream) s = goOnKeep s
      (let s1 := modStream s slot stream fun r => { r with done := some a.period }
       let s2 := if (dueTokens a t).isSome then s1 else if t.kind = 0 then lateStream s1 slot a t else regOr (regAdd s1 armFeedLate 1) armEvent 8
       if isLocalShard a.plan a.member t.dst then
         match dueTokens a t with
         | some (ts, taint) => injectStream (if taint then taintShard s2 slot t.dst else s2) slot a t ts
         | none => injectStream (taintShard s2 slot t.dst) slot a t (voidTokens t)
       else s2))
  ∧ (∀ (s : State) (slot shard : Nat) (a : Armature) (h : Shard), getArm s slot = some a →
    (localShards a.plan a.member).find? (·.num = shard) = some h → a.st = .running → beatAt a.plan a.period h.collectBeat ≤ netNs s →
    (shardRun a shard).collected ≠ some a.period → (h.primary = a.member ∨ (shardUnit s slot h).isSome = true) →
    exec (.armCollect slot shard) s = goOnKeep s (collectShard s slot a h ((shardUnit s slot h).getD {})))

/-- The receive side of a port takes a frame through its life (R358-R370): FRAME_START on an idle receiver that receives, RUNT_DISCARD,
FRAME_CLASSIFY at the classification point, FRAME_END when its last byte has come. -/
def Obligations.ReceiveFramesComplete : Prop :=
  (∀ (s t : State) (port stamp : Nat) (err : Int) (frame : Bytes) (l : LineState), portReceives s port = true → (getPort s port).rx = none →
    rxStamp (countFec s port l) port err = (stamp, t) →
    exec (.frameStart port frame l err) s = goOn s
      (admitFrame t port
        { data := frame, fcs := l.fcs, fcsOk := l.fcs = frameFcs frame && decide (l.uncorrectable = 0), capture := stamp, t0 := t.now,
          perByte := portByteTime t port, fired := firedNow t }))
  ∧ (∀ (s : State) (port : Nat) (f : RxFrame), (getPort s port).rx = some f → f.data.length + 4 < 64 → f.dest = none →
    exec (.runtDiscard port) s = goOnKeep s
      (regAdd (releaseFrame (modPort s port fun q => { q with rx := none }) port f f.room) (macRxRunt port) 1))
  ∧ (∀ (s : State) (port : Nat) (f : RxFrame), (getPort s port).rx = some f → f.dest = none → 64 ≤ f.data.length + 4 →
    f.t0 + min 128 (f.data.length + 4) * f.perByte ≤ s.now →
    exec (.frameClassify port) s = goOnKeep s
      (match (getPort (classify s port f) port).rx with
       | some g => if (getPort (classify s port f) port).sfRx then classify s port f
                   else beginMessage (classify s port f) port g g.t0 g.perByte false
       | none => classify s port f))
  ∧ (∀ (s : State) (port : Nat) (f : RxFrame) (d : Dest), (getPort s port).rx = some f → f.dest = some d →
    f.t0 + min (f.data.length + 4) (regBits s (macMaxFrame port) 13 0) * f.perByte ≤ s.now →
    exec (.frameEnd port) s = goOnKeep s (endFrame s port f d))

/-- The wedge and the glaze unit take a window through its life (R51, R54, R57, R62, R79, R82-R84, R88, R93, R161, R337): tokens are emitted and
enter; the verdict is taken exactly at verdict-ready; a check's result, a provisional reply's time limit, a held STEER's time limit and the full
model's result each have their effect on the message that waits for it. h is the state after what was due was handed to the MAC (R76). -/
def Obligations.WindowsComplete : Prop :=
  (∀ (s : State) (id : Nat), exec (.wedgeTokenEmit id) s = goOnKeep s (emitTokens s id)
    ∧ exec (.windowEnter id) s = goOnKeep s (enterTokens (takeLane (checkFullStart s id) id) id))
  ∧ (∀ (s : State) (id c : Nat) (m : Message), getMsg s id = some m → m.tookLane = some c → m.started = true → m.entered = false →
    m.acted = false → c + 8 < cycleOf s →
    exec (.entryLate id) s = goOnKeep s (unjudge (regOr (regAdd s arrEntryLate 1) arrEvent 4) id 1))
  ∧ (∀ (s h : State) (id ui t : Nat) (m : Message) (k : Binding) (u : MUnit), h = handOver s s.now → getMsg h id = some m →
    m.binding = some k → m.unit = some ui → getUnit h ui = some u → windowEnd m = some t → t + 12 * 600 + m.f * 375 ≤ h.now →
    m.started = true → m.acted = false → m.cDue = none →
    exec (.verdictRelease id) s = goOnKeep s
      (if u.guard then releaseGuarded h id m k ui u (t + 12 * 600 + m.f * 375) else releasePlain h id m u (t + 12 * 600 + m.f * 375)))
  ∧ (∀ (s h : State) (id ui t : Nat) (m : Message) (u : MUnit), h = handOver s s.now → getMsg h id = some m → m.unit = some ui →
    getUnit h ui = some u → m.cDue = some t → t ≤ h.now → m.acted = false →
    exec (.guardArbitrate id) s = goOnKeep s (arbitrate h id m ui u t))
  ∧ (∀ (s h : State) (id : Nat) (kind : CheckKind) (pass : Bool) (m : Message), h = handOver s (s.now - 1) → getMsg h id = some m →
    m.finished = false → 0 < (match kind with | .fcs => m.pendFcs | .crc => m.pendCrc | .tag => m.pendTag) →
    exec (.checkResult id kind pass) s = goOnKeep s
      (if pass then checkPassed h id kind else if kind = .tag then checkFailedTag h id m (m.tagPsns.headD 0) else checkFailedFrame h id m kind))
  ∧ (∀ (s h : State) (id : Nat) (m : Message) (k : Binding) (r : Reply), h = handOver s s.now → getMsg h id = some m →
    m.binding = some k → m.reply = some r → r.provisional = true → checksPending m = true → m.rescinded = false →
    r.handedAt + k.pTimeout * 600 ≤ h.now →
    exec (.pTimeoutExpire id) s = goOnKeep s
      (match m.qp with
       | some i =>
         if m.opcode = 4 then finishRead (discardMsg (rescind h id 3) id) i m.msn
         else updateCredit (completeAll (discardMsg (rescind h id 3) id) i) i
       | none => discardMsg (rescind h id 3) id))
  ∧ (∀ (s : State) (id t : Nat) (m : Message), getMsg s id = some m → m.steerUntil = some t → t ≤ s.now →
    exec (.steerHoldExpire id) s = goOnKeep s (unjudge s id 12))
  ∧ (∀ (s h : State) (id t : Nat) (m : Message) (k : Binding) (u : MUnit), h = handOver s s.now → getMsg h id = some m →
    m.binding = some k → m.unit.bind (getUnit h) = some u → fullReady m = some t → m.acted = true → m.fullDone = false → t ≤ h.now →
    (∀ d, m.cDue = some d → d ≤ h.now) → exec (.fullResult id) s = goOnKeep s (takeFull h id m k u t))

/-- A packet of one of these opcodes stands at the head of port's transport queue, its CRC32C holds, and queue pair i of the instance accepts it;
t is the state after it was taken, its peer heard and it counted (R313, R318, R347). -/
def Sys2Proof.Claims.acceptsPacket (s : State) (port : Nat) (ops : List Nat) (f : RxFrame) (i : Nat) (q : Qp) (t : State) : Prop :=
  ∃ inst u, headPkt s port ops = some (f, inst, u) ∧ pktFormed s f.data = true ∧ pktFormed u f.data = true ∧ (parsePkt f.data).crcOk = true
    ∧ acceptingQp u port inst (parsePkt f.data) = some (i, q) ∧ t = countInst (heardFrom u port q.ipv q.peerIp) q.owner 7 1

/-- Data packets, READ requests and responses that a queue pair accepts (R325, R332-R334, R344, R345): a packet's bytes are placed before its tag
is known to fail; by the PSN, a duplicate is counted and acknowledged at once, a packet 256 or more past ePSN counts as out of the window, and one
in between is taken. One that was discarded for RNR has not been received. -/
def Obligations.ReceivedPacketsComplete : Prop :=
  (∀ (s t : State) (port i : Nat) (f : RxFrame) (q : Qp) (k : Pkt), acceptsPacket s port [0, 1, 2] f i q t → k = parsePkt f.data →
    exec (.wgtDataReceive port) s = goOnKeep s
      (if k.tagOk q.rxKey = false then tagFails (placeUnchecked t i q f k) i k
       else if (k.msn, k.psn) ∉ q.rnrPsns ∧ (2 ^ 23 ≤ seqSub k.psn q.ePsn ∨ k.psn ∈ q.got) then
        sendAck (modQp (regAdd t wgtDupPkts 1) i fun q => { q with echoPsn := k.psn, owd := owdOf f k }) i
       else if (k.msn, k.psn) ∉ q.rnrPsns ∧ 256 ≤ seqSub k.psn q.ePsn then regAdd t wgtOowPkts 1
       else if k.msn ∈ q.rnrMsgs ∧ k.first = false then modQp t i fun q => dropRnr q k
       else takeData t i q f k))
  ∧ (∀ (s t : State) (port i : Nat) (data : Bytes) (f : RxFrame) (q : Qp) (k : Pkt), acceptsPacket s port [3] f i q t → k = parsePkt f.data →
    k.tagOk q.rxKey = true → (k.retx = true ∨ (k.msn, k.psn) ∈ q.rnrPsns ∨ (seqSub k.psn q.ePsn < 256 ∧ k.psn ∉ q.got)) →
    exec (.readReqReceive port data) s = goOnKeep s (serveRead t i q f k data))
  ∧ (∀ (s t : State) (port i : Nat) (f : RxFrame) (q : Qp) (k : Pkt), acceptsPacket s port [4] f i q t → k = parsePkt f.data →
    k.tagOk q.rxKey = true → q.st = .rts → exec (.readRespReceive port) s = goOnKeep s (placeResp t i q f k))

/-- Acknowledgements, probes and their answers (R321, R327-R332, R348). -/
def Obligations.ControlPacketsComplete : Prop :=
  (∀ (s t : State) (port i : Nat) (f : RxFrame) (q : Qp), acceptsPacket s port [0x10] f i q t → q.st = .rts →
    exec (.ackReceive port) s = goOnKeep s (applyAck t i (parsePkt f.data) ((waitingFrom t i q 0x11).map (·.psn))))
  ∧ (∀ (s t : State) (port i code : Nat) (f : RxFrame) (q : Qp) (k : Pkt), acceptsPacket s port [0x11] f i q t → k = parsePkt f.data →
    code = byteAt k.body 0 →
    exec (.nakReceive port) s = goOnKeep s
      (if code = 1 then nakRnr t i q k
       else match nakStatus code with
         | some st => qpError t i ((sendOfMsn q k.msn).map fun w => (w.index, st)) none
         | none => regAdd t wgtStray 1))
  ∧ (∀ (s u : State) (port : Nat) (f : RxFrame) (k : Pkt), headProbe s port 0x12 = some (f, u) → k = parsePkt f.data → k.crcOk = true →
    exec (.probeReceive port) s = goOnKeep s
      (queueProbeReply (heardFrom u port (ipVer f.data) (BitVec.ofNat 128 (ipSrc f.data))) port
        (probeFrame (heardFrom u port (ipVer f.data) (BitVec.ofNat 128 (ipSrc f.data))) port (ipVer f.data) (ipSrc f.data) (be f.data 6 6)
          (frameVid f.data) 0x13 k.body)))
  ∧ (∀ (s u : State) (port n : Nat) (f : RxFrame) (k : Pkt), headProbe s port 0x13 = some (f, u) → k = parsePkt f.data → k.crcOk = true →
    peerOf u port (ipVer f.data) (BitVec.ofNat 128 (ipSrc f.data)) = some n →
    exec (.probeReplyReceive port) s = goOnKeep s
      (modPeer (heardFrom u port (ipVer f.data) (BitVec.ofNat 128 (ipSrc f.data))) n fun p => { p with probes := none }))

/-- The state in which a queue pair's turn is judged: its acknowledgements that the shapers held have left as far as they permit (R386). -/
def Sys2Proof.Claims.ctlSent (s : State) (i : Nat) : State := flushCtl (((getQp s i).map fun q => q.ctlQ.length).getD 0) s i

/-- A queue pair in RTS sends, in this order, what it must send again, READ responses, and new packets, each only when the reorder window, cwnd,
the pacer and the shapers permit it (R324, R329, R338, R386); its cipher counter stops at 2^63 (R343). -/
def Obligations.PacketSendCompletes : Prop :=
  (∀ (s h : State) (i psn : Nat) (rest : List Nat) (q : Qp) (w : SendWr), h = ctlSent s i → getQp h i = some q → q.st = .rts →
    (q.txKey = none ∨ q.ivCtr + 1 < 2 ^ 63) → q.retxQ = psn :: rest → sendOfPsn q psn = some w → maySend h i q psn = true →
    exec (.wgtPacketSend i) s = goOnKeep s (sendPacket h i q w psn true))
  ∧ (∀ (s h : State) (i : Nat) (q : Qp) (x : Nat × Nat × Nat × Bytes × Bool) (rest : List (Nat × Nat × Nat × Bytes × Bool)),
    h = ctlSent s i → getQp h i = some q → q.st = .rts → (q.txKey = none ∨ q.ivCtr + 1 < 2 ^ 63) → q.retxQ = [] → q.respQ = x :: rest →
    maySend h i q q.unaPsn = true → exec (.wgtPacketSend i) s = goOnKeep s (sendResponse h i q x))
  ∧ (∀ (s h : State) (i psn : Nat) (q : Qp) (w : SendWr), h = ctlSent s i → getQp h i = some q → q.st = .rts → (q.txKey = none ∨ q.ivCtr + 1 < 2 ^ 63) →
    q.retxQ = [] → q.respQ = [] → nextNew q = some (w, psn) → maySend h i q psn = true →
    exec (.wgtPacketSend i) s = goOnKeep s (sendPacket h i q w psn false))
  ∧ (∀ (s h : State) (i : Nat) (q : Qp), h = ctlSent s i → getQp h i = some q → q.st = .rts → q.txKey.isSome = true → 2 ^ 63 ≤ q.ivCtr + 1 →
    exec (.wgtPacketSend i) s = goOnKeep s (qpError h i ((nextNew q).map fun x => (x.1.index, stIntegrity)) none))

/-- The transport's timers, each when its time has come (R321, R326, R329, R330, R332, R336, R348, R349). -/
def Obligations.TransportTimersComplete : Prop :=
  (∀ (s : State) (i t : Nat) (q : Qp), getQp s i = some q → (q.st = .rtr ∨ q.st = .rts) → q.unackedAt = some t →
    t + regBits s wgtAckCoal 23 8 * 600 ≤ s.now → exec (.ackCoalExpire i) s = goOnKeep s (sendAck s i))
  ∧ (∀ (s : State) (i t psn : Nat) (q : Qp), getQp s i = some q → q.st = .rts → q.timerAt = some t → t ≤ s.now → oldestOut q = some psn →
    ackComing s i q = false → exec (.retxTimerExpire i) s = goOnKeep s
      (if q.retryMax ≤ q.expiries then qpError s i ((sendOfPsn q psn).map fun w => (w.index, stTimeout)) none
       else startTimer (modQp s i fun q => { q with expiries := q.expiries + 1, retxQ := psn :: q.retxQ.filter (· ≠ psn) }) i))
  ∧ (∀ (s : State) (i t : Nat) (q : Qp) (x : OutPkt), getQp s i = some q → x ∈ q.outPkts → x.sacked = false → x.lost = false →
    x.sackAfter = some t → t + regBits s wgtReorderNs 15 0 * 600 ≤ s.now →
    exec (.reorderExpire i x.psn) s = goOnKeep s (modQp s i fun q => declareLost q [x.psn]))
  ∧ (∀ (s : State) (i t : Nat) (q : Qp), getQp s i = some q → q.rnrUntil = some t → t ≤ s.now →
    exec (.rnrDelayExpire i) s = goOnKeep s (modQp s i fun q => { q with rnrUntil := none }))
  ∧ (∀ (s : State) (i : Nat) (q : Qp), getQp s i = some q → (q.st = .rtr ∨ q.st = .rts) → q.frozen = true → creditHeld s i = false →
    exec (.creditResume i) s = goOnKeep s (updateCredit s i))
  ∧ (∀ (s : State) (k j : Nat) (p : Peer) (q : Qp), tget s.peers k = some p → p.probes = none →
    p.lastHeard + regBits s wgtPeerTimeout 19 0 * 600000 ≤ s.now → (j, q) ∈ peerQps s p → q.outPkts ≠ [] →
    exec (.peerSilentExpire k) s = goOnKeep s (probePeer s k p 1))
  ∧ (∀ (s : State) (k n t : Nat) (p : Peer), tget s.peers k = some p → p.probes = some (n, t) → t ≤ s.now →
    exec (.probeIntervalExpire k) s = goOnKeep s
      (if peerSilent s p = false then modPeer s k fun p => { p with probes := none }
       else if n < regBits s wgtProbe 19 16 then probePeer s k p (n + 1)
       else if peerComing s p then s
       else peerLost s k p))

/-- Pause, received and sent (R371, R372, R374, R375): a received frame acts on the classes it names; a hold ends when its time has passed; a class held
for FC_WDOG is released, marked and reported; the adapter repeats its pause at half of its time above XON and lifts it below XON. -/
def Obligations.PauseCommandsComplete : Prop :=
  (∀ (s : State) (p : Nat) (f : RxFrame), waiting s p (fun d => d = .mac) = some f →
    exec (.pauseReceive p) s = goOnKeep s (pauseActs ((List.range 8).foldl (fun s c => stormOf s p c) (consume s p .mac f)) p f))
  ∧ (∀ (s : State) (p c t : Nat), tget (getPort s p).hold c = some t → t ≤ s.now →
    exec (.pauseExpire p c) s = goOnKeep s ((pauseGroup s p c).foldl (fun s c => endHold s p c) s))
  ∧ (∀ (s : State) (p c t : Nat), c < 8 → held s p c = true → tget (getPort s p).heldSince c = some t →
    t + regBits s (macFcWdog p) 23 0 * 600000 ≤ s.now →
    exec (.fcWdogExpire p c) s = goOnKeep s
      (report (regOr (regOr ((pauseGroup s p c).foldl (fun s c => endHold s p c) s) (macFcStatus p)
          ((((pauseGroup s p c).filter (· < 8)).map fun c => 2 ^ (8 + c)).sum)) (macEvent p) 2)
        { code := evPauseStorm, origin := [p, c], detail := [(0, 1, p), (1, 1, c)] }))
  ∧ (∀ (s : State) (p c t : Nat), tget (getPort s p).xoffAt (xoffKey s p c) = some t → fcSends s p c = true →
    t + regBits s (macFcQuanta p) 15 0 * 64 * portByteTime s p / 2 ≤ s.now → xonBytes s p < occOf s p c →
    exec (.pfcRefresh p c) s = goOnKeep s
      (modPort (sendPause s p c (regBits s (macFcQuanta p) 15 0)) p fun q => { q with xoffAt := tset q.xoffAt (xoffKey s p c) s.now }))
  ∧ (∀ (s : State) (p c : Nat), fcSends s p c = true → xoffOn s p c = true → occOf s p c < xonBytes s p →
    exec (.xonSend p c) s = goOnKeep s (modPort (sendPause s p c 0) p fun q => { q with xoffAt := tdel q.xoffAt (xoffKey s p c) }))

/-- TRANSMIT_SELECT (R373, R379): at a frame boundary a MAC control frame goes first, then the reply queue's head, then the highest eligible
class, whose shaper is charged (R387). h is the state after what was due was handed over (R76), u after RESCINDs met their replies (R373) and head frames that fit nowhere went (R380). -/
def Obligations.TransmitSelectCompletes : Prop :=
  ∀ (s h u : State) (p : Nat), h = handOver s s.now → atBoundary h p = true → u = pruneHeads (settleRescinds h p) p →
    (∀ (f : TxFrame) (rest : List TxFrame), (getPort u p).ctrlQ = f :: rest → clearOfWindows u p (queuedTime u p f) = true →
      exec (.transmitSelect p) s = goOn s (depart (unqueue u p fun q => { q with ctrlQ := rest }) p f))
    ∧ (∀ f : TxFrame, (getPort u p).ctrlQ = [] → replyHead u p = some f →
      exec (.transmitSelect p) s = goOn s (depart (unqueue u p fun q => { q with replyQ := q.replyQ.erase f }) p f))
    ∧ (∀ (c : Nat) (f : TxFrame), (getPort u p).ctrlQ = [] → replyHead u p = none → classHead u p = some (c, f) →
      exec (.transmitSelect p) s = goOn s
        (depart (unqueue (if f.kind = .ptp then u else bucketCharge u (classBucket p c false) (wireBytes (outLen f))) p fun q =>
          { q with txQ := tmodD q.txQ c [] (·.drop 1) }) p f))

/-- Gates and low-power idle (R69, R377, R378, R382, R384, R393). GATE_ENTRY_CHANGE: on a port that exists the gate states become those of the list
in force at this instant. GATE_TAKEOVER: once its BASE has come the pending list is in force and none pends; where the armature windows of the port do
not let it in, it is dropped and its command completes with NO_RESOURCE (R307). LPI_ENTER: an idle port enters low-power idle under R377's conditions,
and the peer's entry shows in STATUS.LPI_RX. LPI_WAKE: a queued frame or a window within TW_NS wakes the port, which may send TW_NS later, and the
peer's wake clears LPI_RX. -/
def Obligations.GatesAndIdleComplete : Prop :=
  (∀ (s : State) (p : Nat), portExists s p = true → ready s rdyTim = true →
    exec (.gateEntryChange p) s = goOnKeep s (modPort s p fun q => { q with gates := gateWord s p }))
  ∧ (∀ (s : State) (p t : Nat) (g : GateList), (getPort s p).pendGate = some (g, t) → t ≤ netNs s →
    gateRefused (modPort s p fun q => { q with pendGate := none }) p g = false →
    ∃ u, exec (.gateTakeover p) s = goOnKeep s u ∧ (getPort u p).oper = g ∧ (getPort u p).pendGate = none)
  ∧ (∀ (s : State) (p t : Nat) (g : GateList), (getPort s p).pendGate = some (g, t) → t ≤ netNs s →
    gateRefused (modPort s p fun q => { q with pendGate := none }) p g = true →
    exec (.gateTakeover p) s = goOnKeep s
      (finishCmd? (modPort s p fun q => { q with pendGate := none }) ((s.cmds.find? fun c => c.opcode = 0x41 && c.arg = p).map (·.id)) stNoResource []))
  ∧ (∀ (s : State) (p : Nat), portExists s p = true → (getPort s p).linkUp = true → regBit s (macLpi p) 0 = true →
    regBit s (macLpiWake p) 16 = true → (getPort s p).lpiTx = false → queuedFrames (getPort s p) = [] → (getPort s p).txBusyUntil ≤ s.now →
    (∀ w, (getPort s p).wakeAt = some w → w ≤ s.now) → (getPort s p).idleSince + regBits s (macLpi p) 31 16 * 600000 ≤ s.now →
    isReplyPort s p = false → windowWithin s p (wakeNs s p + Config.lpiEntryNs) = false →
    exec (.lpiEnter ⟨p, false⟩) s = goOnKeep s (modPort s p fun q => { q with lpiTx := true, wakeAt := none }))
  ∧ (∀ (s : State) (p : Nat), portExists s p = true → (getPort s p).linkUp = true →
    exec (.lpiEnter ⟨p, true⟩) s = goOnKeep s (modPort s p fun q => { q with lpiRx := true }))
  ∧ (∀ (s : State) (p : Nat), (getPort s p).lpiTx = true →
    (queuedFrames (getPort s p) ≠ [] ∨ windowWithin s p (wakeNs s p) = true) →
    exec (.lpiWake ⟨p, false⟩) s = goOnKeep s
      (modPort s p fun q => { q with lpiTx := false, wakeAt := some (s.now + wakeNs s p * 600) }))
  ∧ (∀ (s : State) (p : Nat), exec (.lpiWake ⟨p, true⟩) s = goOnKeep s (modPort s p fun q => { q with lpiRx := false }))

/-- Links, telemetry and timestamp records (R355, R381, R390, R391, R418-R420). LINK_DOWN: a port that is up goes down with portDown's effects (R381).
LINK_UP: a port that is down trains on its widest group of healthy lanes and LINK_CHANGE is set. TELEMETRY_SAMPLE: at a whole multiple of 1 000 ns each
port of the mask is sampled. TS_RECORD_DRAIN: the record at the FIFO's head is written to its instance's ring, not before the time of R419, or, where
that ring has no slot, is dropped and counted, and the records behind it follow. -/
def Obligations.LinksAndRecordsComplete : Prop :=
  (∀ (s : State) (p : Nat), (getPort s p).linkUp = true →
    exec (.linkDown p) s = goOnKeep s (portDown s p))
  ∧ (∀ (s : State) (p : Nat), portExists s p = true → portReady s p = true → (getPort s p).linkUp = false → trainLanes s p ≠ 0 →
    s.iodLost = false →
    exec (.linkUp p) s = goOnKeep s
      (regOr (modPort s p fun q =>
        { q with linkUp := true, lanes := trainLanes s p, txBusyUntil := s.now, idleSince := s.now, lpiTx := false, wakeAt := none })
        (macEvent p) 1))
  ∧ (∀ s : State, s.tlmOn = true → netNs s % 1000 = 0 →
    exec .telemetrySample s = goOnKeep s (((portsOf s).filter fun p => bit s.tlmMask p).foldl samplePort s))
  ∧ (∀ (s t : State) (p : Nat) (r : TsRecord) (rest : List TsRecord) (q : Ring), (getPort s p).fifo = r :: rest →
    t = modPort s p (fun q => { q with fifo := rest }) → getRing s (ringKey rkTs r.inst) = some q → ringRoom q = true →
    (getPort s p).drainAt ≤ s.now →
    exec (.tsRecordDrain p) s = goOnKeep s
      (modPort (pushSized t (ringKey rkTs r.inst) 32
          (tsRec p r (tgetD (getPort t p).tsGap r.inst 0) (tgetD (getPort t p).tsStepped r.inst false))) p fun q =>
        { q with tsGap := tdel q.tsGap r.inst, tsStepped := tdel q.tsStepped r.inst, drainAt := t.now + 2 * fabCycle }))
  ∧ (∀ (s t : State) (p : Nat) (r : TsRecord) (rest : List TsRecord), (getPort s p).fifo = r :: rest →
    t = modPort s p (fun q => { q with fifo := rest }) → (∀ q, getRing s (ringKey rkTs r.inst) = some q → ringRoom q = false) →
    exec (.tsRecordDrain p) s = goOnKeep s
      (tsDrain p rest (modPort (regOr (regAdd t (timRecDrop + 4 * p) 1) timEvent 32) p fun q =>
        { q with tsGap := tmodD q.tsGap r.inst 0 fun v => min 0xFFFFFFFF (v + 1) })))

/-- The time base (R400-R404, R408, R586): messages of its PTP instance act by their type, others are counted and discarded; messages are sent at
their intervals; a master not heard for three intervals is lost; the holdover estimate is kept; 1PPS edges are counted, and the output pin rises at
each NS = 0. LLDP_RECEIVE (R377, R529): discarded and counted while the management processor restarts; else the peer's low-power-idle offer is kept. -/
def Obligations.TimeBaseCommandsComplete : Prop :=
  (∀ (s t : State) (p : Nat) (f : RxFrame), waiting s p (fun d => d = .timeBase) = some f → t = consume s p .timeBase f →
    exec (.ptpMessageReceive p) s = goOnKeep s
      (if ptpOurs t p f.data then ptpActs t p f else modPort t p fun q => { q with ptpDropped := q.ptpDropped + 1 }))
  ∧ (∀ (s : State) (p : Nat) (k : PtpKind), bits s.tb.role.toNat 1 0 ≠ 0 → portExists s p = true → ready s rdyTim = true →
    exec (.ptpMessageSend p k) s = goOnKeep s
      (match k with
       | .sync => sendSync s p
       | .pdelayReq => sendPdelayReq s p
       | .pdelayResp => sendPdelayResp s p
       | .announce => sendAnnounce s p))
  ∧ (∀ s : State, s.tb.master.isSome = true →
    (s.tb.lastAnnounce + 3 * ptpInterval s 2 ≤ s.now ∨ s.tb.lastSync + 3 * ptpInterval s 0 ≤ s.now) →
    exec .masterLoss s = goOnKeep s (loseMaster s))
  ∧ (∀ s : State, s.tb.st = .holdover → s.tb.holdDue ≤ s.now →
    exec .holdErrUpdate s = goOnKeep s { s with tb := { s.tb with
      holdDue := s.now + usec, holdErr := max (holdEstimate s) (if s.tb.master.isSome then offsetNs s else 0) } })
  ∧ (∀ s : State, (s.tb.st ≠ .grandmaster ∨ regBit s timCtrl 3 = false) → exec .ppsInEdge s = goOnKeep s (regAdd s timPpsCount 1))
  ∧ (∀ (s t : State) (a : Int) (ns : Nat), s.tb.st = .grandmaster → regBit s timCtrl 3 = true →
    drawInt (regAdd s timPpsCount 1) = (a, t) → ns = netNs t % 1000000000 →
    exec .ppsInEdge s = goOnKeep s { t with tb := { t.tb with
      adj := if ns = 0 then 0
             else if ns < 500000000 then -((clampI (-(slewBound t)) (slewBound t) a).natAbs : Int)
             else ((clampI (-(slewBound t)) (slewBound t) a).natAbs : Int) } })
  ∧ (∀ (s : State) (sec : Nat), ready s rdyTim = true → ppsMark s = some sec → s.tb.ppsSec ≠ some sec →
    exec .ppsOut s = goOnKeep s
      (emit { s with tb := { s.tb with ppsOutUntil := s.now + 100 * msec, ppsSec := some sec } } (.pin "PPS_OUT" true)))
  ∧ (∀ (s t : State) (p : Nat) (f : RxFrame), waiting s p (fun d => d = .lldp) = some f → t = consume s p .lldp f →
    exec (.lldpReceive p) s = goOnKeep s
      (if t.mgmt.restarting then modPort t p fun q => { q with lldpDropped := q.lldpDropped + 1 } else lldpActs t p f.data))

/-- Losses of dies, of the IOD and of clocks, and temperature (R27, R28, R31, R38, R39, R521). -/
def Obligations.LossesComplete : Prop :=
  (∀ (s : State) (d : Nat), dieAlive s d = true → exec (.domainLoss d) s = goOnKeep s (loseDie s d)
    ∧ exec (.pllLoss (.core d)) s = goOnKeep s (loseDie s d))
  ∧ (∀ s : State, s.iodLost = false → exec .iodLoss s = goOnKeep s (loseIod s))
  ∧ (∀ (s : State) (d : PllDomain) (n : Nat), (d = .fab ∧ n = 0 ∨ d = .time ∧ n = 1 ∨ d = .mgmt ∧ n = 2 ∨ d = .hbm ∧ n = 3) →
    (s.pllStandby.getLsbD n = true →
      exec (.pllLoss d) s = goOnKeep s
        (plainFault (regOr { s with pllStandby := s.pllStandby &&& ~~~(1#4 <<< n) } fltEvent 0x20) 6 5 { kind := 6, num := n }))
    ∧ (s.pllStandby.getLsbD n = false → n ≠ 1 → s.iodLost = false → exec (.pllLoss d) s = goOnKeep s (loseIod s))
    ∧ (s.pllStandby.getLsbD n = false → n = 1 → s.tb.fallback = false →
      exec (.pllLoss d) s = goOnKeep s (timeFallback (plainFault s 6 0 { kind := 6, num := 1 }))))
  ∧ (∀ (s t u : State) (raw : List Int), t = [0, 1, 2, 3, 4].foldl (fun s d => countHot s (effTemps s raw d)) s →
    u = (if ready t rdyMgmt = true ∧ t.mgmt.restarting = false then [0, 1, 2, 3, 4].foldl (fun s d => thermalWarn s raw d) t else t) →
    exec (.thermalSample raw) s = goOnKeep s (refreshAlert ([0, 1, 2, 3, 4].foldl thermalShutdown u)))

/-- Errors found by the checks (R508, R509, R514-R518): of a core, and of every kind of memory. -/
def Obligations.ErrorsComplete : Prop :=
  (∀ (s : State) (core shelf : Nat), coreUp s core = true → shelf < 4 →
    exec (.coreCheckFail core shelf) s = goOnKeep s
      (arrayFault (regAdd (failFiring s core shelf) fltCoreErr 1) 2 (coreChans core) (unitsAtCore s core shelf) shelf 0))
  ∧ (∀ (s : State) (m : MemLoc), memThere s m = true → exec (.memCorrected m) s = goOnKeep s (corrected s m))
  ∧ (∀ (s : State) (m : MemLoc), memThere s m = true → exec (.memUncorrectable m) s = goOnKeep s (uncorrectable s m))
  ∧ (∀ (s : State) (m : MemLoc) (pass : Bool), memThere s m = true →
    exec (.codewordTest m pass) s = goOnKeep s
      (if pass then clearWord s m else (memChans m).foldl (fun s c => (permanentFault s c).1) (clearWord s m)))
  ∧ (∀ (s : State) (m : MemLoc) (n : Nat), memThere s m = true →
    exec (.patrolRead m n) s = goOnKeep s
      (if n = 0 then { s with correctedOnce := s.correctedOnce.filter (· ≠ m) } else if n ≤ 3 then corrected s m else uncorrectable s m))

/-- Lanes and pseudo-channels that fail (R13, R357, R517, R519, R520), the management processor's restart (R529-R531), the witness (R522, R523)
and the duty of back-pressure (R549). -/
def Obligations.RepairsComplete : Prop :=
  (∀ (s : State) (link module lane : Nat) (c : Channel), c = laneChan link module lane → chanOk c = true → lane ≠ 0xFF → isRetired s c = false →
    exec (.d2dLaneFail link module lane) s = goOnKeep s
      (let e := countError s c
       let r := repairLane { logHistory e.1 c 1 with retired := e.1.retired ++ [c] } link module 1
       report r.1 (faultReport 4 r.2 3 0xFF c.num 0xFFFF 0xFF e.2 0 (if r.2 = 3 then ownersOf r.1 (unitsOnModule s link module) else []))))
  ∧ (∀ (s : State) (lane : Nat), lane < 16 → isRetired s { kind := 4, num := lane } = false →
    exec (.serdesLaneFail lane) s = goOnKeep s
      (let e := countError s { kind := 4, num := lane }
       let r := permanentFault e.1 { kind := 4, num := lane }
       report r.1 (faultReport 5 (if r.2 then 3 else 0) 4 0xFF lane 0xFFFF 0xFF e.2 0 [])))
  ∧ (∀ (s : State) (stack pc : Nat), stack < 2 → pc < 64 → isRetired s (pcChan stack pc) = true → tget s.remaps (stack * 64 + pc) = none →
    (s.remaps.filter fun r => r.1 / 64 = stack).length < 2 →
    exec (.pcRemap stack pc) s = goOnKeep s
      { s with remaps := tset s.remaps (stack * 64 + pc) (s.remaps.filter fun r => r.1 / 64 = stack).length })
  ∧ (∀ s : State, ready s rdyMgmt = true →
    exec .mgmtWatchdog s = goOnKeep s (if s.mgmt.restarting then failedStart s else beginRestart (countError s { kind := 8, num := 0 }).1))
  ∧ (∀ (s : State) (image : Bytes), s.mgmt.restarting = true → s.mgmt.flash = some image →
    exec .mgmtRestartDone s = goOnKeep s (firmwareUp s image))
  ∧ (∀ (s : State) (rep : Report), rep.status ≤ stJoinStarved → exec (.witnessReport rep) s = goOnKeep s (report s rep))
  ∧ (∀ s : State, exec .witnessHoldExpire s = goOnKeep s
      ((s.witness.filter fun w => w.closeAt ≤ s.now).foldl (fun s w => writeEvent s w.rep w.time w.count)
        { s with witness := s.witness.filter fun w => s.now < w.closeAt }))
  ∧ (∀ (s : State) (n : Nat), n < 4 → coreUp s (regBits s (tstBp + 8 * n) 14 0) = true →
    exec (.bpDutyTick n) s = goOnKeep s
      (modQ s (regBits s (tstBp + 8 * n) 14 0) (regBits s (tstBp + 8 * n) 16 15) (regBits s (tstBp + 8 * n) 18 17) fun q =>
        { q with frozen := (List.range 4).any fun k =>
            (regBits s (tstBp + 8 * k) 18 0 = regBits s (tstBp + 8 * n) 18 0) && bpFrozen s k }))

/-- Resets and READY bits (R539-R545, R568, R582): a power-on reset keeps flash and repair log; a function reset by register or by FLR; a function
reports READY once its condition holds, and one that fails is named in FAIL_BIT; a die's rail comes up. -/
def Obligations.ResetsComplete : Prop :=
  (∀ (s : State) (ok : Bool), exec (.powerOnReset ok) s = goOn s
      { keepAlways s State.reset with
        mgmt := { State.reset.mgmt with flash := (cutWrite s.mgmt).flash, recovery := !ok || (cutWrite s.mgmt).flash.isNone } })
  ∧ (∀ s : State, ready s rdyMgmt = true → exec (.funcReset .register) s = goOn s (functionReset s 2))
  ∧ (∀ s : State, linkUp s 0 = true → exec (.funcReset .flr0) s = goOn s (functionReset s 4))
  ∧ (∀ s : State, linkUp s 1 = true → exec (.funcReset .flr1) s = goOn s (functionReset s 8))
  ∧ (∀ (s : State) (f : Func), s.iodLost = false → s.poweredDown = false → isReady s f (funcNeeds s f).1 = false →
    (funcNeeds s f).2 = true → exec (.functionReady f true) s = goOnKeep s (funcUp s f (funcNeeds s f).1))
  ∧ (∀ (s : State) (f : Func), s.iodLost = false → s.poweredDown = false → isReady s f (funcNeeds s f).1 = false →
    exec (.functionReady f false) s = goOnKeep s
      (regPut s glbReady (regRaw s glbReady % 2 ^ 24 + (funcNeeds s f).1 * 2 ^ 24 + 2 ^ 31)))
  ∧ (∀ (s : State) (die : Nat) (ok : Bool), die < 4 → ready s rdyMgmt = true → s.iodLost = false → s.poweredDown = false →
    s.pwren.getLsbD die = false → s.dieLost.getLsbD die = false →
    (die = 0 ∨ s.pwren.getLsbD (die - 1) = true ∨ s.dieLost.getLsbD (die - 1) = true) →
    exec (.pwrenRaise die ok) s = goOnKeep s
      (let t := setPwren s die true
       if ok then { t with dieRail := t.dieRail ||| (1#4 <<< die) }
       else regPut t glbReady (regRaw t glbReady % 2 ^ 24 + 7 * 2 ^ 24 + 2 ^ 31)))

/-- The board and the PCIe links (R425, R429, R582, R585, R589) and the end of a port split (R356). -/
def Obligations.BoardEventsComplete : Prop :=
  (∀ s : State, exec .powerDown s = goOnKeep s (stopAll s))
  ∧ (∀ (s : State) (l : Nat), l < 2 → linkUp s l = true → exec (.pcieLinkDown l) s = goOnKeep s (loseLink s l))
  ∧ (∀ (s t : State) (l : Nat), l < 2 → s.poweredDown = false →
    t = { s with links := tmod s.links l fun k => { k with perst := true } } →
    exec (.perstAssertOne l) s = goOnKeep s
      (if (tgetD t.links (1 - l) {}).perst then stopAll t else if linkUp t l then loseLink t l else t))
  ∧ (∀ (s : State) (l gen : Nat), l < 2 → s.poweredDown = false → s.iodLost = false →
    exec (.pcieLinkUp l gen) s = goOnKeep s { s with links := tmod s.links l fun k => { k with up := true, gen := gen, perst := false } })
  ∧ (∀ (s : State) (c : Byte), exec (.smbusRead c) s = goOnKeep s { s with out := .smbus (smbusAnswer s c.toNat) :: s.out })
  ∧ (∀ (s : State) (id : Nat), s.splitCmd = some id →
    exec .splitConfigInForce s = goOnKeep s
      (finishCmd { (portsOf s).foldl (fun s p => regOr s (macStatus p) 1) s with splitCmd := none } id stOK []))

/-- What a write leaves in a register, by R6 and R8: RW bits take the value, a 1 clears a W1C bit that the adapter does not set in the same FAB
cycle, every other bit stays. -/
def Sys2Proof.Claims.written (s : State) (off v : Nat) (d : RegDesc) : Nat :=
  ((regRaw s off &&& (0xFFFFFFFF ^^^ d.rw)) ||| (v &&& d.rw)) &&& (0xFFFFFFFF ^^^ (v &&& d.w1c &&& (0xFFFFFFFF ^^^ setNow s off)))

/-- A register whose write does nothing but store: R563's blocks PWR_, ARR_, SHF_, INS_, FLT_ and GATE_, without the event registers that validate
others and without ARR_JOIN_WDOG, whose value applies from the next cycle (R173). -/
def Sys2Proof.Claims.plainReg (off : Nat) : Prop :=
  (0x4000 ≤ off ∧ off < 0x7000 ∨ 0x8000 ≤ off ∧ off < 0xA000 ∨ 0x30000 ≤ off) ∧ off ≠ pwrTherm ∧ off ≠ arrEvent ∧ off ≠ fltEvent ∧ off ≠ arrJoinWdog

/-- A BAR0 write regReached the register: it is there, its port is in the split, its block is READY (R541, R565). -/
def Sys2Proof.Claims.regReached (s : State) (off : Nat) (d : RegDesc) : Prop :=
  regDesc off = some d ∧ (∀ p, regPort off = some p → portExists s p = true) ∧ blockReady s off = true

/-- REGISTER_WRITE (R6, R541, R563-R565): a plain register takes the written fields or, out of range, records the rejection; an access of another
size, alignment or byte-enable pattern only sets BAD_WRITE; 8 bytes are the lower half and then the upper; a reserved offset and a block that is
not READY ignore the write. -/
def Obligations.RegisterWriteCompletes : Prop :=
  (∀ (s : State) (off : Nat) (v : DWord) (d : RegDesc), off % 4 = 0 → plainReg off → regReached s off d → (d.rw ≠ 0 ∨ d.w1c ≠ 0) →
    exec (.registerWrite off 4 true v) s = goOn s
      (if fieldsInRange d (v.toNat % 2 ^ 32) then regPut s off (written s off (v.toNat % 2 ^ 32) d) else rejectWrite s off))
  ∧ (∀ (s : State) (off size : Nat) (all : Bool) (v : DWord), (all = false ∨ (size ≠ 4 ∧ size ≠ 8) ∨ off % size ≠ 0) →
    exec (.registerWrite off size all v) s = goOn s (regOr s glbEvent 4))
  ∧ (∀ (s : State) (off : Nat) (v : DWord), off % 8 = 0 →
    exec (.registerWrite off 8 true v) s = goOn s (writeReg (writeReg s off (v.toNat % 2 ^ 32)) (off + 4) (v.toNat / 2 ^ 32)))
  ∧ (∀ (s t : State) (off : Nat) (v : DWord) (d : RegDesc), off % 8 = 0 → plainReg off → regReached s off d → (d.rw ≠ 0 ∨ d.w1c ≠ 0) →
    t = (if fieldsInRange d (v.toNat % 2 ^ 32) then regPut s off (written s off (v.toNat % 2 ^ 32) d) else rejectWrite s off) →
    exec (.registerWrite off 8 true v) s = exec (.registerWrite (off + 4) 4 true (BitVec.ofNat 64 (v.toNat / 2 ^ 32))) t)
  ∧ (∀ (s : State) (off : Nat) (v : DWord), off % 4 = 0 → regDesc off = none → exec (.registerWrite off 4 true v) s = goOn s s)
  ∧ (∀ (s : State) (off : Nat) (v : DWord), off % 4 = 0 → regPort off = none → blockReady s off = false →
    exec (.registerWrite off 4 true v) s = goOn s s)

/-- The set-up writes of power, watchdog, streaming pool and time (R35, R173, R198, R399, R423), and calibration offsets (R415, R532, R533): in
range the offset is stored and in force, a sum that leaves its field sets CLAMPED; out of range the write is ignored and recorded. GLB_ADMIN_CTRL.EN
(R571): with every check passed the rings of instance 0 come into being; else EN stays 0 and ADMIN_REJECTED is set. -/
def Obligations.SetupWritesComplete : Prop :=
  (∀ (s : State) (v : Word) (d : RegDesc), regReached s pwrLimit d →
    exec (.pwrLimitWrite v) s = goOn s
      (if fieldsInRange d v.toNat then regPut s pwrLimit (written s pwrLimit v.toNat d) else rejectWrite s pwrLimit))
  ∧ (∀ (s : State) (v : Word) (d : RegDesc), regReached s arrJoinWdog d →
    exec (.joinWdogWrite v) s = goOn s
      (let t := if fieldsInRange d v.toNat then regPut s arrJoinWdog (written s arrJoinWdog v.toNat d) else rejectWrite s arrJoinWdog
       if t.wdogPrev.any (·.1 = cycleOf s) then t else { t with wdogPrev := some (cycleOf s, regBits s arrJoinWdog 20 0) }))
  ∧ (∀ (s : State) (v : Word) (d : RegDesc), regReached s shfStreamPool d →
    exec (.streamPoolWrite v) s = goOn s
      (if fieldsInRange d v.toNat then regPut s shfStreamPool (written s shfStreamPool v.toNat d) else rejectWrite s shfStreamPool))
  ∧ (∀ (s : State) (v : Word) (d : RegDesc), regReached s timSlewBound d → fieldsInRange d v.toNat = true →
    exec (.slewBoundWrite v) s = goOn s (limitAdj (regPut s timSlewBound (written s timSlewBound v.toNat d))))
  ∧ (∀ (s : State) (v : Word), ready s rdyTim = true → v.getLsbD 0 = true →
    exec (.timCapture v) s = goOn s
      (regPut (regPut (regPut (regPut s timSnapSecLo (secsOf (net16 s) % 2 ^ 32)) timSnapSecHi (secsOf (net16 s) / 2 ^ 32 % 2 ^ 16))
        timSnapNs (nsOf (net16 s))) timSnapFrac (fracOf (net16 s))))
  ∧ (∀ (s : State) (v : Word), (v.getLsbD 0 = false ∨ ready s rdyTim = false) → exec (.timCapture v) s = goOn s s)
  ∧ (∀ (s : State) (p : Nat) (tx : Bool) (v : Word) (off : Nat) (d : RegDesc), p < 16 → off = calTs p (if tx then 4 else 1) → regReached s off d →
    exec (.tsUserOffsetWrite p tx v) s = goOn s
      (if (sgn 32 v.toNat).natAbs ≤ 100 * 65536 then regPut s off (written s off v.toNat d) else regOr s timEvent 16))
  ∧ (∀ (s t : State) (off : Nat) (v : Word) (d : RegDesc), isRws off = true → ¬(0x2400 ≤ off ∧ off < 0x2600) → regReached s off d →
    calUserOk (off - 0x2000) v.toNat = true → t = regPut s off (written s off v.toNat d) →
    exec (.calOffsetWrite off v) s = goOn s
      (let u := if calClamps (off - 0x2000) (otpReg (off - 4)) (regRaw t off) then regOr t calEvent 1 else t
       { u with out := .calibrate (off + 4) (BitVec.ofNat 32 (readReg u (off + 4))) :: u.out }))
  ∧ (∀ (s : State) (off : Nat) (v : Word) (d : RegDesc), isRws off = true → ¬(0x2400 ≤ off ∧ off < 0x2600) → regReached s off d →
    calUserOk (off - 0x2000) v.toNat = false → exec (.calOffsetWrite off v) s = goOn s (regOr s calEvent 2))
  ∧ (∀ (s : State) (p : Nat) (tx : Bool) (v : Word), p < 16 →
    exec (.calOffsetWrite (calTs p (if tx then 4 else 1)) v) s = exec (.tsUserOffsetWrite p tx v) s)
  ∧ (∀ (s : State) (v : Word), ready s rdyMgmt = true → regBit s glbAdminCtrl 0 = false → v.getLsbD 0 = true →
    adminOk s (b2n (v.getLsbD 1)) = true → exec (.adminEnable v) s = goOn s (enableAdmin s v.toNat))
  ∧ (∀ (s : State) (v : Word), ready s rdyMgmt = true → regBit s glbAdminCtrl 0 = false → v.getLsbD 0 = true →
    adminOk s (b2n (v.getLsbD 1)) = false →
    exec (.adminEnable v) s = goOn s (regOr (regPut s glbAdminCtrl (v.toNat % 8 / 2 * 2)) glbEvent 1))

/-- Filters, shapers, jitter seed and loopback (R363, R387, R388, R546, R552), the path mode at its frame boundary (R369) and the time role at its
Announce boundary (R400, R406). -/
def Obligations.PortWritesComplete : Prop :=
  (∀ (s : State) (p n : Nat) (v : Word), p < 16 → n < 256 → portExists s p = true → portReady s p = true →
    exec (.filterWrite p (2 * n) v) s = goOn s
      (let t := regPut s (macFilt p + 8 * n) v.toNat
       { t with
         filters := tsetD t.filters (p * 256 + n) 0
           (BitVec.ofNat 64 (regRaw t (macFilt p + 8 * n) + regRaw t (macFilt p + 8 * n + 4) * 2 ^ 32))
         filtersOld := tset t.filtersOld (p * 256 + n) (fabOf t, filterBefore t (p * 256 + n))
         filtersLapsed := t.filtersLapsed.filter (· ≠ p * 256 + n) }))
  ∧ (∀ (s : State) (p n : Nat) (v : Word), p < 16 → n < 256 → portExists s p = true → portReady s p = true →
    exec (.filterWrite p (2 * n + 1) v) s = goOn s
      (if bits v.toNat 27 26 = 3 then rejectWrite s (macFilt p + 8 * n + 4) else regPut s (macFilt p + 8 * n + 4) v.toNat))
  ∧ (∀ (s : State) (k : Nat) (rx : Bool) (v : Word) (off : Nat) (d : RegDesc), k < 128 → off = shpReg k (if rx then 2 else 0) →
    regReached s off d →
    exec (.shaperRateWrite k rx v) s = goOn s
      (if rateOk (bits v.toNat 20 0) then
         bucketRate (regPut s off (written s off v.toNat d)) (classBucket (k / 8) (k % 8) rx) (bits v.toNat 20 0) (v.getLsbD 31)
       else rejectWrite s off))
  ∧ (∀ (s : State) (v : Word), ready s rdyTst = true →
    exec (.tsSeedWrite v) s = goOn s (if v = 0 then rejectWrite s tstTsSeed else { regPut s tstTsSeed v.toNat with lfsr := v }))
  ∧ (∀ (s : State) (p : Nat) (v : Word), p < 16 → portExists s p = true → ready s rdyTst = true →
    (∀ a, a ∈ tvals s.arms → armPortWindows a p = []) → regBits s (tstLoop + 4 * p) 1 0 ≠ v.toNat % 4 →
    exec (.loopbackWrite p v) s = goOn s
      (let t := regOr (regPut (portDown s p) (tstLoop + 4 * p) (v.toNat % 4)) (macEvent p) 1
       let u := modPort t p fun q => { q with sfRx := sfWanted t p, sfTx := sfWanted t p }
       if u.tb.master = some p then loseMaster u else u))
  ∧ (∀ (s : State) (p : Nat) (v : Word) (a : Armature), p < 16 → portExists s p = true → ready s rdyTst = true → a ∈ tvals s.arms →
    armPortWindows a p ≠ [] → exec (.loopbackWrite p v) s = goOn s (rejectWrite s (tstLoop + 4 * p)))
  ∧ (∀ (s : State) (p : Nat) (v : Word), p < 16 → portExists s p = true → ready s rdyTst = true →
    (∀ a, a ∈ tvals s.arms → armPortWindows a p = []) → regBits s (tstLoop + 4 * p) 1 0 = v.toNat % 4 →
    exec (.loopbackWrite p v) s = goOn s s)
  ∧ (∀ (s : State) (p : Nat), portExists s p = true → (getPort s p).txBusyUntil ≤ s.now →
    exec (.pathModeApply p true) s = goOnKeep s (modPort s p fun q => { q with sfTx := sfWanted s p }))
  ∧ (∀ (s : State) (p : Nat), portExists s p = true → (getPort s p).rx = none →
    exec (.pathModeApply p false) s = goOnKeep s (modPort s p fun q => { q with sfRx := sfWanted s p }))
  ∧ (∀ s : State, ready s rdyTim = true → s.tb.role.toNat ≠ regRaw s timRole → s.now % ptpInterval s 2 = 0 →
    exec .timRoleApply s = goOnKeep s (changeTimRole s s.tb.role.toNat (regRaw s timRole)))

-- ------------------------------------------------------------------ the step, reset, invariants

/-- A step with a command at the front of the queue is exec of that command on the state with the queue's rest. -/
def Obligations.StepRunsFrontCommand : Prop :=
  ∀ (s : State) (c : Instr) (rest : List Instr), step { s with pending := c :: rest } = exec c { s with pending := rest }

/-- What holds in every state: the jitter register is not zero (R552), the last reset does not lie ahead (R545), the split code is one of R355. -/
def Sys2Proof.Claims.Inv (s : State) : Prop := s.lfsr ≠ 0 ∧ s.resetAt ≤ s.now ∧ s.split < 4

/-- The state right after power-on (R539, R542, R582): every register reads its reset value, no die is powered or up, there is no instance, unit,
queue pair, ring or armature, every byte of SRAM and HBM reads zero, the queue is empty, and the invariant holds. That the SRAM and HBM bytes read
zero is the model's choice (log entry 86). -/
def Obligations.ResetMeetsInvariant : Prop :=
  Inv State.reset ∧ State.reset.pending = []
  ∧ (∀ off, regRaw State.reset off = regReset off % 2 ^ 32)
  ∧ State.reset.pwren = 0 ∧ State.reset.dieUp = 0
  ∧ (∀ n, instExists State.reset n = false ∧ getUnit State.reset n = none ∧ getQp State.reset n = none ∧ getRing State.reset n = none
      ∧ getArm State.reset n = none)
  ∧ (∀ k, tgetD State.reset.csram k 0#8 = 0#8 ∧ tgetD State.reset.clsram k 0#8 = 0#8 ∧ tgetD State.reset.hbm k 0#8 = 0#8)

/-- Every step goes on, and keeps the invariant; time never runs back (R398). -/
def Obligations.StepKeepsInvariant : Prop :=
  ∀ s : State, ∃ t, step s = .next t ∧ s.now ≤ t.now ∧ (Inv s → Inv t)

/-- The queue is first in, first out: k steps serve its first k commands and no other, in no time of their own (log entry 1). -/
def Obligations.QueueServedInOrder : Prop :=
  ∀ (s : State) (k : Nat), k ≤ s.pending.length →
    ∃ t, Host.Core.run Sys2Proof.core k s = .next t ∧ t.pending = s.pending.drop k ∧ t.now = s.now

/-- The steps of an empty queue are the passing of time (log entry 1): n of them in which no frame of STORE_FORWARD is released (R368; log entry 97)
and no STATS is pending (R474) add n units, and the network clock, once it has started, advances by 1 ns + a in each TIME cycle that ends among them, and by nothing else (R398). -/
def Obligations.IdleStepsAdvanceClock : Prop :=
  ∀ (s : State) (n : Nat), s.pending = [] → (ready s rdyTim = true ∨ (s.tb.started = true ∧ s.poweredDown = false)) → s.tb.fallback = false →
    (∀ m ∈ s.msgs, m.2.finished = true ∨ m.2.releaseAt ≤ s.now ∨ s.now + n < m.2.releaseAt) → (∀ c ∈ s.cmds, c.opcode ≠ 0x09) →
    Host.Core.run Sys2Proof.core n s = .next
      { s with now := s.now + n,
               tb := { s.tb with clock := s.tb.clock + ((s.now + n) / timeCycle - s.now / timeCycle) * (2 ^ 48 + s.tb.adj).toNat } }

-- ------------------------------------------------------------------ rules over many commands

/-- The order of the command engine (R459): the administration ring first, then the command rings in round robin by instance. At most one ring has
the turn; where a ring can be served, one has it; the instance served last comes after every other. -/
def Obligations.EngineOrder : Prop :=
  (∀ s : State, takeable s .admin = true → engineTurn s .admin = true ∧ ∀ n, engineTurn s (.inst n) = false)
  ∧ (∀ (s : State) (n m : Nat), s.rrLast < 1024 → n < 1024 → m < 1024 → engineTurn s (.inst n) = true → engineTurn s (.inst m) = true → n = m)
  ∧ (∀ (s : State) (r : CmdRing), takeable s r = true → ∃ q, engineTurn s q = true)
  ∧ (∀ (s : State) (n m : Nat), n < 1024 → m < 1024 → s.rrLast = n → m ≠ n → takeable s (.inst m) = true → engineTurn s (.inst n) = false)
  ∧ (∀ (s t : State) (n : Nat) (i : BitVec 32), takeCmd s (.inst n) = some (i, t) → t.rrLast = n)

/-- The administration-only commands with their opcodes (R461). -/
def Sys2Proof.Claims.adminOnly (r : CmdRing) (d : Cmd) : List (Nat × Instr) :=
  [(0x40, .portSplit r d), (0x41, if gateCancel d then .gateCommitCancel r d else .gateCommit r d), (0x42, .timeStep r d), (0x43, .tlmSet r d),
   (0x60, .insCreate r d), (0x61, .insDestroy r d), (0x62, .insReset r d), (0x63, .insShare r d), (0x65, .hbmRegionCreate r d),
   (0x66, .hbmRegionRelease r d), (0x67, .insLogStart r d), (0x68, .insLogSync r d), (0x69, .insLogStop r d), (0x6A, .insQuery r d),
   (0x70, .fltLog r d), (0x71, .fltRetire r d), (0x72, .fltReturn r d), (0x73, .fltShift r d), (0x74, .fltDieReturn r d), (0x75, .fwWrite r d),
   (0x76, .fwActivate r d)] ++ (if argN d 2 1 = 0 then [(0x64, .insClustersAdd r d)] else if argN d 2 1 = 1 then [(0x64, .insClustersRemove r d)] else [])

/-- The commands that have one row for all their descriptors; each stands for an OPCODE that the command table does not list where its descriptor
carries one (log entry 35). -/
def Sys2Proof.Claims.commands (r : CmdRing) (d : Cmd) : List Instr :=
  [.load r d, .fire r d, .cool r d, .swap r d, .query r d, .bindTable r d, .stats r d, .seqAttach r d, .seqDetach r d, .cqCreate r d,
   .cqModify r d, .cqDestroy r d, .ringCreate r d, .ringDestroy r d, .mrReg r d, .mrDereg r d, .qpCreate r d, .qpQuery r d, .qpDestroy r d,
   .shape r d, .armCreate r d, .armStart r d, .armStop r d, .armDestroy r d, .armPromote r d, .armDemote r d, .armQuery r d,
   .portSplit r d, .timeStep r d, .tlmSet r d, .insCreate r d, .insDestroy r d, .insReset r d, .insShare r d, .hbmRegionCreate r d,
   .hbmRegionRelease r d, .insLogStart r d, .insLogSync r d, .insLogStop r d, .insQuery r d, .fltLog r d, .fltRetire r d, .fltReturn r d,
   .fltShift r d, .fltDieReturn r d, .fwWrite r d, .fwActivate r d]

/-- An administration-only opcode taken from a command ring completes with NOT_PERMITTED, or with NOT_READY where its function is not READY (R11),
and has no other effect; an OPCODE that the command table does not list completes with BAD_PARAM from either ring, and has none (R461, R476). -/
def Obligations.AdministrationOnlyRefused : Prop :=
  (∀ (s : State) (r : CmdRing) (d : Cmd) (op : Nat) (c : Instr), turn s r → d.unlisted = some op → c ∈ commands r d →
    exec c s = completes s (taken s r) r d op stBadParam [])
  ∧ (∀ (s : State) (n : Nat) (d : Cmd), turn s (.inst n) → d.unlisted = none →
    (∀ x ∈ adminOnly (.inst n) d, ∃ st, (st = stNotPermitted ∨ st = stNotReady)
      ∧ exec x.2 s = completes s (taken s (.inst n)) (.inst n) d x.1 st [])
    ∧ (ready s rdyTim = true → ready s rdyShp = true → ready s rdyIns = true → ready s rdyFlt = true → ready s rdyArr = true →
      portReady s (argN d 0 1) = true →
      ∀ x ∈ adminOnly (.inst n) d, exec x.2 s = completes s (taken s (.inst n)) (.inst n) d x.1 stNotPermitted []))

/-- R486: INS_CLUSTERS with OP 0 adds the clusters of the bitmap at once; with a retired one it completes with RETIRED, with an owned or LEAVING one
with STATE_CONFLICT, and then nothing is added. -/
def Obligations.ClustersAddedOrRefused : Prop :=
  ∀ (s : State) (d : Cmd) (n : Nat) (cs : List Nat), turn s .admin → names (taken s .admin) n → n = argN d 0 2 → argN d 2 1 = 0 →
    clustersBad d = false → cs = bitmapAt d 0 → instActive (taken s .admin) n = true →
    ((∃ c ∈ cs, clusterRetired (taken s .admin) c = true) →
      exec (.insClustersAdd .admin d) s = completes s (taken s .admin) .admin d 0x64 stRetired [])
    ∧ ((∀ c ∈ cs, clusterRetired (taken s .admin) c = false) →
      (∃ c ∈ cs, (getCluster (taken s .admin) c).owner ≠ none ∨ (getCluster (taken s .admin) c).leaving = true) →
      exec (.insClustersAdd .admin d) s = completes s (taken s .admin) .admin d 0x64 stStateConflict [])
    ∧ ((∀ c ∈ cs, clusterRetired (taken s .admin) c = false) →
      (∀ c ∈ cs, (getCluster (taken s .admin) c).owner = none ∧ (getCluster (taken s .admin) c).leaving = false
          ∧ (getCluster (taken s .admin) c).scrub = none) →
      ∃ t, exec (.insClustersAdd .admin d) s = completes s t .admin d 0x64 stOK [(0, 2, 0), (2, 2, 0)]
        ∧ (∀ c ∈ cs, (getCluster t c).owner = some n ∧ (getCluster t c).leaving = false)
        ∧ (∀ c, c ∉ cs → getCluster t c = getCluster (taken s .admin) c)
        ∧ { t with clusters := s.clusters } = { taken s .admin with clusters := s.clusters })

/-- R35: a write of PWR_LIMIT outside 200-520 is ignored and sets PWR_STATUS.LIMIT_REJECTED. In range, LIMIT takes the value and no other register
changes. -/
def Obligations.PowerLimitOutOfRangeRejected : Prop :=
  ∀ (s : State) (v : Word), blockReady s pwrLimit = true →
    ((v.toNat < 200 ∨ 520 < v.toNat) →
      ∃ t, exec (.pwrLimitWrite v) s = .next t ∧ t = { s with regs := t.regs, setCycle := t.setCycle, setBits := t.setBits } ∧ regBit t pwrStatus 1 = true
        ∧ (∀ i, i ≠ 1 → regBit t pwrStatus i = regBit s pwrStatus i) ∧ (∀ off, off ≠ pwrStatus → regRaw t off = regRaw s off))
    ∧ (200 ≤ v.toNat → v.toNat ≤ 520 →
      ∃ t, exec (.pwrLimitWrite v) s = .next t ∧ t = { s with regs := t.regs } ∧ regBits t pwrLimit 9 0 = v.toNat
        ∧ (∀ off, off ≠ pwrLimit → regRaw t off = regRaw s off))

/-- Entry i of an adapter-produced ring is written at its place with PHASE = (⌊i / ENTRIES⌋ + 1) mod 2 in bit 0 of byte 0x3F (R437), in one write
of 64 bytes, or with SPLIT_PHASE as bytes 0x00-0x3E and then byte 0x3F (R439), unless the ring's link is down; the producer index advances, and
nothing but an MSI-X vector follows (R440). -/
def Obligations.RingEntryPhase : Prop :=
  ∀ (s : State) (key : Nat) (rec : Bytes) (r : Ring), getRing s key = some r →
    ∃ (bytes : Bytes) (link pasid : Nat) (after : List Output), bytes.length = 64
      ∧ (∀ i, i < 0x3F → byteAt bytes i = byteAt rec i)
      ∧ byteAt bytes 0x3F % 2 = (r.prod.toNat / r.entries + 1) % 2 ∧ byteAt bytes 0x3F / 2 = byteAt rec 0x3F / 2
      ∧ (after = [] ∨ ∃ l v, after = [.msix l v])
      ∧ link = ringLink s r
      ∧ (ringPush s key rec).out = after
          ++ (if linkUp s link = false then []
              else if r.splitPhase then
                [.hostWrite link pasid (r.base + 64 * (r.prod.toNat % r.entries) + 0x3F) (bytes.drop 0x3F),
                 .hostWrite link pasid (r.base + 64 * (r.prod.toNat % r.entries)) (bytes.take 0x3F)]
              else [.hostWrite link pasid (r.base + 64 * (r.prod.toNat % r.entries)) bytes]) ++ s.out
      ∧ (getRing (ringPush s key rec) key).map (·.prod) = some (r.prod + 1)
      ∧ (∀ k, k ≠ key → getRing (ringPush s key rec) k = getRing s k)

-- ------------------------------------------------------------------ memory and frames

/-- Core SRAM of a shelf (R110): every byte of an access lies in the partition and wraps at its end; what was written reads back; no other byte of
the SRAM and nothing else of the state changes, and the memory keeps its canonical form. -/
def Obligations.CoreMemoryReadsBack : Prop :=
  ∀ (s : State) (core a : Nat) (c : CoreShelf) (data : Bytes), 0 < c.csSize → data.length ≤ c.csSize →
    (∀ i, c.csBase ≤ partAddr c.csBase c.csSize (a % 2 ^ 16) i ∧ partAddr c.csBase c.csSize (a % 2 ^ 16) i < c.csBase + c.csSize)
    ∧ readCore (writeCore s core c a data) core c a data.length = data
    ∧ (∀ k, (∀ i, i < data.length → k ≠ coreSpace c.shifted core * 2 ^ 16 + partAddr c.csBase c.csSize (a % 2 ^ 16) i) →
        tgetD (writeCore s core c a data).csram k 0#8 = tgetD s.csram k 0#8)
    ∧ { writeCore s core c a data with csram := s.csram } = s
    ∧ (Memory.wf s.csram = true → Memory.wf (writeCore s core c a data).csram = true)

/-- t differs from s in rings, commands pending, output and the counters and dirty-page logs of instances, and in nothing else. -/
def Sys2Proof.Claims.hostOnly (s t : State) : Prop :=
  { t with rings := s.rings, cmds := s.cmds, instances := s.instances, out := s.out, nextId := s.nextId, rrLast := s.rrLast } = s
  ∧ ∀ n, { getInst t n with stats := [], log0 := none, log1 := none } = { getInst s n with stats := [], log0 := none, log1 := none }

/-- The frame of the commands on rings, regions, tables and shapers and of the queries, whatever status they give: units, clusters, the array,
memory, ports, the time base, queue pairs, peers, messages, armatures, registers and instances' states and shares stay as they are. -/
def Obligations.HostCommandFrames : Prop :=
  (∀ (s t : State) (r : CmdRing) (d : Cmd) (c : Instr),
    c ∈ [.cqCreate r d, .cqModify r d, .cqDestroy r d, .ringCreate r d, .ringDestroy r d, .query r d, .stats r d, .qpQuery r d,
      .armQuery r d, .insQuery r d] →
    exec c s = .next t → hostOnly s t)
  ∧ (∀ (s t : State) (r : CmdRing) (d : Cmd) (c : Instr), c ∈ [.mrReg r d, .mrDereg r d] → exec c s = .next t →
    hostOnly s { t with mrs := s.mrs })
  ∧ (∀ (s t : State) (r : CmdRing) (d : Cmd), exec (.shape r d) s = .next t → hostOnly s { t with buckets := s.buckets })
  ∧ (∀ (s t : State) (r : CmdRing) (d : Cmd), exec (.bindTable r d) s = .next t → hostOnly s { t with tables := s.tables, tablesOld := s.tablesOld })
  ∧ (∀ (s t : State) (r : CmdRing) (d : Cmd), exec (.tlmSet r d) s = .next t → hostOnly s { t with tlmMask := s.tlmMask, tlmOn := s.tlmOn })

/-- The frame of the array's cycles: a core's firing changes the array alone, and of the units only the tokens that left on their exit links; of
core SRAM it changes the bytes its store names and no other. A router cycle changes no core SRAM; a crossing changes only the queues and FIFOs. -/
def Obligations.ArrayCycleFrames : Prop :=
  (∀ (s t : State) (core : Nat), exec (.operationFire core) s = .next t →
    { t with cores := s.cores, inqs := s.inqs, xfifos := s.xfifos, coreFired := s.coreFired, exitSlots := s.exitSlots, csram := s.csram, fresh := s.fresh,
             clsram := s.clsram, clPend := s.clPend, joinSince := s.joinSince, joinDone := s.joinDone, units := s.units } = s
    ∧ (twf s.units = true → t.units.map (fun u => (u.1, { u.2 with exits := [] })) = s.units.map fun u => (u.1, { u.2 with exits := [] }))
    ∧ ∀ k, (∀ u shelf e f m a data, u = routeCore (settleCluster s (cycleOf s)) core (cycleOf s) →
          pickOp u core (cycleOf s) = some (shelf, e, f, m) → (fireOp u core shelf e (cycleOf s) f m).store = some (0, a, data) →
          ∀ i, i < data.length → k ≠ coreSpace (getCs u core shelf).shifted core * 2 ^ 16
            + partAddr (getCs u core shelf).csBase (getCs u core shelf).csSize (a % 2 ^ 16) i) →
        tgetD t.csram k 0#8 = tgetD s.csram k 0#8)
  ∧ (∀ (s t : State) (core : Nat), exec (.routerPass core) s = .next t →
    { t with cores := s.cores, inqs := s.inqs, xfifos := s.xfifos, exitSlots := s.exitSlots, clsram := s.clsram, clPend := s.clPend,
             joinSince := s.joinSince, joinDone := s.joinDone, units := s.units } = s)
  ∧ (∀ (s t : State) (core dir lat : Nat), exec (.crossingTransfer core dir lat) s = .next t → { t with inqs := s.inqs, xfifos := s.xfifos } = s)
end

