-- ==== Sys2Proof/Laws/Commands.lean ====
section
/-! SUPPORT. What taking a command and answering it do, once for every command (R458-R461). -/

namespace Sys2Proof.Machine

open Sys2Proof

/-- A ring whose command may be taken exists. -/
theorem ring_of_takeable {s : State} {r : CmdRing} (h : takeable s r = true) : ∃ q, getRing s (cmdRingKey r) = some q := by
  unfold takeable at h
  split at h
  · exact ⟨_, ‹_›⟩
  · cases h

/-- A ring with the turn can be served. -/
theorem takeable_of_turn {s : State} {r : CmdRing} (h : engineTurn s r = true) : takeable s r = true := by
  cases r with
  | admin => exact h
  | inst n =>
    simp only [engineTurn, Bool.and_eq_true] at h
    exact h.1.1

/-- The engine takes the command of the ring that has the turn; its index is the ring's consumer index. -/
theorem takeCmd_of_turn {s : State} {r : CmdRing} (h : engineTurn s r = true) :
    ∃ q t, getRing s (cmdRingKey r) = some q ∧ takeCmd s r = some (q.cons, t) := by
  obtain ⟨q, hq⟩ := ring_of_takeable (takeable_of_turn h)
  exact ⟨q, _, hq, by simp only [takeCmd, h, if_true, hq]; rfl⟩

/-- Taking a command changes rings, the instance's count of commands and the round robin, and nothing else. -/
theorem takeCmd_frame {s t : State} {r : CmdRing} {i : BitVec 32} (h : takeCmd s r = some (i, t)) :
    { t with rings := s.rings, instances := s.instances, rrLast := s.rrLast } = s := by
  unfold takeCmd at h
  split at h
  · split at h
    · simp only [Option.some.injEq, Prod.mk.injEq] at h
      obtain ⟨-, rfl⟩ := h
      cases r <;> rfl
    · cases h
  · cases h

/-- With no ring's turn, a command has no effect. -/
theorem runCmd_none {s : State} {r : CmdRing} (op : Nat) (adm : Bool) (d : Cmd) (f : Nat → Nat → State → State × Answer)
    (h : takeCmd s r = none) : runCmd op adm r d f s = s := by simp [runCmd, h]

/-- A command whose reserved bytes are zero carries its own opcode. -/
theorem listed_of_argsOnly {d : Cmd} {used : List (Nat × Nat)} (h : argsOnly d used = true) : d.unlisted = none := by
  simp only [argsOnly, cmdReservedOk, Bool.and_eq_true, Option.isNone_iff_eq_none] at h
  exact h.1.1

/-- A command that answers at once completes. -/
theorem runCmd_done {s t u : State} {r : CmdRing} {i : BitVec 32} {op st : Nat} {adm : Bool} {d : Cmd} {f : Nat → Nat → State → State × Answer}
    {res : List (Nat × Nat × Nat)} {buf : Bytes} (ht : takeCmd s r = some (i, t)) (hd : d.unlisted = none)
    (hr : (t.mgmt.recovery && !(r = .admin && (op = 0x75 || op = 0x76))) = false) (ha : (adm && r ≠ .admin) = false)
    (hf : f (cmdInst r) t.nextId { t with nextId := t.nextId + 1 } = (u, .done st res buf)) :
    runCmd op adm r d f s = completeCmd
      (if buf = [] then u else hostWrite u (cmdInst r) (getInst u (cmdInst r)).home d.bufAddr.toNat buf) r d.tag i op st buf.length res := by
  simp only [runCmd, ht, hd, hr, ha, hf, Option.getD_none, Option.isSome_none, Bool.false_eq_true, if_false]

/-- A command that waits is kept pending. -/
theorem runCmd_wait {s t u : State} {r : CmdRing} {i : BitVec 32} {op arg : Nat} {adm : Bool} {d : Cmd} {f : Nat → Nat → State → State × Answer}
    (ht : takeCmd s r = some (i, t)) (hd : d.unlisted = none)
    (hr : (t.mgmt.recovery && !(r = .admin && (op = 0x75 || op = 0x76))) = false) (ha : (adm && r ≠ .admin) = false)
    (hf : f (cmdInst r) t.nextId { t with nextId := t.nextId + 1 } = (u, .wait arg)) :
    runCmd op adm r d f s =
      { u with cmds := u.cmds ++ [{ id := t.nextId, ring := r, tag := d.tag, index := i, opcode := op, arg := arg }] } := by
  simp only [runCmd, ht, hd, hr, ha, hf, Option.getD_none, Option.isSome_none, Bool.false_eq_true, if_false]

/-- An administration-only opcode from a command ring (R461): refused, with NOT_READY where its function is not READY (R11). -/
theorem runCmd_refused {s t : State} {n : Nat} {i : BitVec 32} {op : Nat} {d : Cmd} {f : Nat → Nat → State → State × Answer}
    (ht : takeCmd s (.inst n) = some (i, t)) (hd : d.unlisted = none) (hr : t.mgmt.recovery = false) :
    runCmd op true (.inst n) d f s =
      completeCmd { t with nextId := t.nextId + 1 } (.inst n) d.tag i op
        (if (f n t.nextId { t with nextId := t.nextId + 1 }).2 = Answer.fail stNotReady then stNotReady else stNotPermitted) 0 [] := by
  simp only [runCmd, ht, hd, hr, Option.getD_none, Option.isSome_none, Bool.false_and, Bool.false_eq_true, if_false]
  rfl

/-- An OPCODE that R461 does not list completes with BAD_PARAM and has no other effect. -/
theorem runCmd_unlisted {s t : State} {r : CmdRing} {i : BitVec 32} {op n : Nat} {adm : Bool} {d : Cmd} {f : Nat → Nat → State → State × Answer}
    (ht : takeCmd s r = some (i, t)) (hd : d.unlisted = some n) (hr : t.mgmt.recovery = false) :
    runCmd op adm r d f s = completeCmd { t with nextId := t.nextId + 1 } r d.tag i n stBadParam 0 [] := by
  simp only [runCmd, ht, hd, hr, Option.getD_some, Option.isSome_some, Bool.false_and, Bool.false_eq_true, if_false, if_true]
  rfl

/-- With no failing condition, a command's rule is its effect. -/
theorem orElse_ok {s : State} {fail : List (Bool × Nat)} {ok : State → State × Answer} (h : firstFail fail = none) : orElse s fail ok = ok s := by
  simp [orElse, h]

/-- With a failing condition, it answers the first one's status and changes nothing (R11). -/
theorem orElse_fail {s : State} {fail : List (Bool × Nat)} {ok : State → State × Answer} {st : Nat} (h : firstFail fail = some st) :
    orElse s fail ok = (s, Answer.fail st) := by simp [orElse, h]

/-- No condition fails. -/
theorem firstFail_none {l : List (Bool × Nat)} : firstFail l = none ↔ ∀ x ∈ l, x.1 = false := by
  induction l with
  | nil => simp [firstFail]
  | cons x l ih =>
    obtain ⟨c, st⟩ := x
    cases c <;> simp [firstFail, ih]

end Sys2Proof.Machine
end

