-- ==== Sys2Proof/Laws/Tables.lean ====
section
/-! SUPPORT. The laws of keyed tables: what a table gives after a write or a removal, and that both keep the canonical form. -/

namespace Sys2Proof.Machine

open Sys2Proof

variable {α : Type}

@[simp] theorem tget_nil (k : Nat) : tget ([] : Table α) k = none := rfl

@[simp] theorem tgetD_nil (k : Nat) (d : α) : tgetD ([] : Table α) k d = d := rfl

theorem tget_tset (t : Table α) (k : Nat) (v : α) (j : Nat) : tget (tset t k v) j = if j = k then some v else tget t j := by
  induction t with
  | nil => simp [tset, tget]
  | cons x t ih =>
    obtain ⟨k', v'⟩ := x
    simp only [tset]
    split
    · simp only [tget]
    · split
      · subst k'
        simp only [tget]
        split <;> rfl
      · simp only [tget, ih]
        split
        · rename_i h
          subst j
          have : k' ≠ k := fun h => by subst h; simp_all
          simp [this]
        · rfl

@[simp] theorem tget_tset_same (t : Table α) (k : Nat) (v : α) : tget (tset t k v) k = some v := by simp [tget_tset]

theorem tget_tset_other (t : Table α) (k : Nat) (v : α) (j : Nat) (h : j ≠ k) : tget (tset t k v) j = tget t j := by
  simp [tget_tset, h]

theorem tget_tdel_other (t : Table α) (k j : Nat) (h : j ≠ k) : tget (tdel t k) j = tget t j := by
  induction t with
  | nil => rfl
  | cons x t ih =>
    obtain ⟨k', v'⟩ := x
    simp only [tdel]
    split
    · subst k'
      simp [tget, h, ih]
    · simp only [tget, ih]

theorem twf_iff (t : Table α) : twf t = true ↔ (t.map Prod.fst).Pairwise (· < ·) := by simp [twf]

theorem twf_cons (k : Nat) (v : α) (t : Table α) : twf ((k, v) :: t) = true ↔ (∀ x ∈ t, k < x.1) ∧ twf t = true := by
  simp only [twf_iff, List.map_cons, List.pairwise_cons, List.mem_map]
  constructor
  · rintro ⟨h, g⟩
    exact ⟨fun x hx => h x.1 ⟨x, hx, rfl⟩, g⟩
  · rintro ⟨h, g⟩
    exact ⟨fun a ⟨x, hx, e⟩ => e ▸ h x hx, g⟩

/-- Every pair of a written table is the pair written or one of the table's. -/
theorem mem_tset (t : Table α) (k : Nat) (v : α) (x : Nat × α) (h : x ∈ tset t k v) : x = (k, v) ∨ x ∈ t := by
  induction t with
  | nil => simp_all [tset]
  | cons y t ih =>
    obtain ⟨k', v'⟩ := y
    simp only [tset] at h
    split at h
    · simp only [List.mem_cons] at h ⊢
      tauto
    · split at h
      · simp only [List.mem_cons] at h ⊢
        tauto
      · simp only [List.mem_cons] at h ⊢
        rcases h with h | h
        · exact .inr (.inl h)
        · rcases ih h with h | h <;> simp [h]

theorem mem_tdel (t : Table α) (k : Nat) (x : Nat × α) (h : x ∈ tdel t k) : x ∈ t := by
  induction t with
  | nil => simp [tdel] at h
  | cons y t ih =>
    obtain ⟨k', v'⟩ := y
    simp only [tdel] at h
    split at h
    · exact List.mem_cons_of_mem _ (ih h)
    · simp only [List.mem_cons] at h ⊢
      rcases h with h | h
      · exact .inl h
      · exact .inr (ih h)

theorem twf_tset (t : Table α) (k : Nat) (v : α) (h : twf t = true) : twf (tset t k v) = true := by
  induction t with
  | nil => rfl
  | cons y t ih =>
    obtain ⟨k', v'⟩ := y
    have ⟨h1, h2⟩ := (twf_cons k' v' t).mp h
    simp only [tset]
    split
    · rename_i hk
      refine (twf_cons _ _ _).mpr ⟨fun x hx => ?_, h⟩
      simp only [List.mem_cons] at hx
      rcases hx with rfl | hx
      · exact hk
      · have := h1 x hx
        omega
    · split
      · subst k'
        exact (twf_cons _ _ _).mpr ⟨h1, h2⟩
      · refine (twf_cons _ _ _).mpr ⟨fun x hx => ?_, ih h2⟩
        rcases mem_tset t k v x hx with rfl | hx
        · show k' < k
          omega
        · exact h1 x hx

theorem twf_tdel (t : Table α) (k : Nat) (h : twf t = true) : twf (tdel t k) = true := by
  induction t with
  | nil => rfl
  | cons y t ih =>
    obtain ⟨k', v'⟩ := y
    have ⟨h1, h2⟩ := (twf_cons k' v' t).mp h
    simp only [tdel]
    split
    · exact ih h2
    · exact (twf_cons _ _ _).mpr ⟨fun x hx => h1 x (mem_tdel t k x hx), ih h2⟩

/-- A removed key is not listed. -/
theorem tget_tdel_same (t : Table α) (k : Nat) : tget (tdel t k) k = none := by
  induction t with
  | nil => rfl
  | cons y t ih =>
    obtain ⟨k', v'⟩ := y
    simp only [tdel]
    split
    · exact ih
    · rename_i hk
      simp [tget, hk, ih]

theorem twf_tmod (t : Table α) (k : Nat) (f : α → α) (h : twf t = true) : twf (tmod t k f) = true := by
  simp only [tmod]
  split
  · exact h
  · exact twf_tset _ _ _ h

theorem twf_tmodD (t : Table α) (k : Nat) (d : α) (f : α → α) (h : twf t = true) : twf (tmodD t k d f) = true := twf_tset _ _ _ h

theorem twf_filter (t : Table α) (p : Nat × α → Bool) (h : twf t = true) : twf (t.filter p) = true := by
  rw [twf_iff] at h ⊢
  exact h.sublist (List.filter_sublist.map _)

variable [DecidableEq α]

theorem twf_tsetD (t : Table α) (k : Nat) (d v : α) (h : twf t = true) : twf (tsetD t k d v) = true := by
  simp only [tsetD]
  split
  · exact twf_tdel _ _ h
  · exact twf_tset _ _ _ h

theorem tgetD_tsetD_other (t : Table α) (k : Nat) (d v : α) (j : Nat) (h : j ≠ k) : tgetD (tsetD t k d v) j d = tgetD t j d := by
  simp only [tsetD, tgetD]
  split
  · rw [tget_tdel_other _ _ _ h]
  · rw [tget_tset_other _ _ _ _ h]

theorem tgetD_tsetD_same (t : Table α) (k : Nat) (d v : α) : tgetD (tsetD t k d v) k d = v := by
  simp only [tsetD, tgetD]
  split
  · rename_i e
    simp [tget_tdel_same, e]
  · simp

-- ------------------------------------------------------------------ byte memories

theorem memory_wf_iff (m : Table Byte) : Memory.wf m = true ↔ twf m = true ∧ ∀ x ∈ m, x.2 ≠ 0#8 := by
  simp [Memory.wf]

theorem memory_wf_tdel (m : Table Byte) (k : Nat) (h : Memory.wf m = true) : Memory.wf (tdel m k) = true := by
  rw [memory_wf_iff] at h ⊢
  exact ⟨twf_tdel _ _ h.1, fun x hx => h.2 x (mem_tdel _ _ _ hx)⟩

theorem memory_wf_tset (m : Table Byte) (k : Nat) (v : Byte) (hv : v ≠ 0#8) (h : Memory.wf m = true) : Memory.wf (tset m k v) = true := by
  rw [memory_wf_iff] at h ⊢
  refine ⟨twf_tset _ _ _ h.1, fun x hx => ?_⟩
  rcases mem_tset _ _ _ _ hx with rfl | hx
  · exact hv
  · exact h.2 x hx

theorem memory_wf_tsetD (m : Table Byte) (k : Nat) (v : Byte) (h : Memory.wf m = true) : Memory.wf (tsetD m k 0#8 v) = true := by
  simp only [tsetD]
  split
  · exact memory_wf_tdel _ _ h
  · rename_i hv
    exact memory_wf_tset _ _ _ hv h

theorem memory_wf_filter (m : Table Byte) (p : Nat × Byte → Bool) (h : Memory.wf m = true) : Memory.wf (m.filter p) = true := by
  rw [memory_wf_iff] at h ⊢
  exact ⟨twf_filter _ _ h.1, fun x hx => h.2 x (List.mem_filter.mp hx).1⟩

/-- A fold of operations that each keep the form keeps it. -/
theorem memory_wf_foldl {β : Type} (f : Table Byte → β → Table Byte) (hf : ∀ m x, Memory.wf m = true → Memory.wf (f m x) = true) (l : List β)
    (m : Table Byte) (h : Memory.wf m = true) : Memory.wf (l.foldl f m) = true := by
  induction l generalizing m with
  | nil => exact h
  | cons x l ih => exact ih _ (hf _ _ h)

end Sys2Proof.Machine
end

