-- ==== Sys2Proof/Laws/Memory.lean ====
section
/-! SUPPORT. Every operation that writes core SRAM, cluster SRAM or HBM keeps the canonical form of the memory it writes. -/

namespace Sys2Proof.Machine

open Sys2Proof

theorem reset_memory_wf : Memory.wf State.reset.csram = true ∧ Memory.wf State.reset.clsram = true ∧ Memory.wf State.reset.hbm = true := by
  decide

theorem writeCore_wf (s : State) (core : Nat) (c : CoreShelf) (a : Nat) (data : Bytes) (h : Memory.wf s.csram = true) :
    Memory.wf (writeCore s core c a data).csram = true :=
  memory_wf_foldl _ (fun _ _ h => memory_wf_tsetD _ _ _ h) _ _ h

theorem settleCluster_wf (s : State) (t : Nat) (h : Memory.wf s.clsram = true) : Memory.wf (settleCluster s t).clsram = true :=
  memory_wf_foldl _ (fun _ _ h => memory_wf_foldl _ (fun _ _ h => memory_wf_tsetD _ _ _ h) _ _ h) _ _ h

theorem fillBytes_wf (m : Table Byte) (at_ : Nat) (data : Bytes) (h : Memory.wf m = true) : Memory.wf (fillBytes m at_ data) = true :=
  memory_wf_foldl _ (fun _ _ h => memory_wf_tsetD _ _ _ h) _ _ h

theorem writeWeights_wf (s : State) (u : MUnit) (p : Place) (w : Weights) (h : Memory.wf s.csram = true) (g : Memory.wf s.clsram = true) :
    Memory.wf (writeWeights s u p w).csram = true ∧ Memory.wf (writeWeights s u p w).clsram = true := by
  simp only [writeWeights]
  split
  · exact ⟨h, g⟩
  · split
    · exact ⟨fillBytes_wf _ _ _ h, g⟩
    · exact ⟨h, fillBytes_wf _ _ _ g⟩

theorem zeroWord_wf (m : Table Byte) (base addr : Nat) (h : Memory.wf m = true) : Memory.wf (zeroWord m base addr) = true :=
  memory_wf_foldl _ (fun _ _ h => memory_wf_tdel _ _ h) _ _ h

theorem clearWord_wf (s : State) (m : MemLoc) (h : Memory.wf s.csram = true) (g : Memory.wf s.clsram = true) (k : Memory.wf s.hbm = true) :
    Memory.wf (clearWord s m).csram = true ∧ Memory.wf (clearWord s m).clsram = true ∧ Memory.wf (clearWord s m).hbm = true := by
  cases m <;> simp only [clearWord]
  case coreSram => exact ⟨zeroWord_wf _ _ _ h, g, k⟩
  case clusterSram => exact ⟨h, zeroWord_wf _ _ _ g, k⟩
  case hbm => exact ⟨h, g, zeroWord_wf _ _ _ k⟩
  case buffer => exact ⟨h, g, k⟩

/-- Writing nonzero bytes at keys of a list keeps the form. -/
theorem foldl_tset_wf (f : Nat → Nat) (l : List (Nat × Byte)) (hl : ∀ x ∈ l, x.2 ≠ 0#8) (m : Table Byte) (h : Memory.wf m = true) :
    Memory.wf (l.foldl (fun t x => tset t (f x.1) x.2) m) = true := by
  induction l generalizing m with
  | nil => exact h
  | cons x l ih =>
    exact ih (fun y hy => hl y (List.mem_cons_of_mem _ hy)) _ (memory_wf_tset _ _ _ (hl x (List.mem_cons_self ..)) h)

theorem moveSpaces_wf (m : Table Byte) (width spaces : Nat) (inCol : Nat → Bool) (h : Memory.wf m = true) :
    Memory.wf (moveSpaces m width spaces inCol) = true := by
  refine foldl_tset_wf (fun k => k - spaces * 2 ^ width) _ (fun x hx => ?_) _ (memory_wf_filter _ _ h)
  exact ((memory_wf_iff _).mp h).2 x (List.mem_filter.mp hx).1

end Sys2Proof.Machine
end

