-- ==== Sys2Proof/Laws/State.lean ====
section
/-! SUPPORT. What each update of State does to each field: one lemma per field per update, so that no proof unfolds a record update. -/

namespace Sys2Proof.Machine

@[simp] theorem emit_pending (s : State) (o : Output) : (emit s o).pending = s.pending := rfl
@[simp] theorem emit_now (s : State) (o : Output) : (emit s o).now = s.now := rfl
@[simp] theorem emit_fresh (s : State) (o : Output) : (emit s o).fresh = s.fresh := rfl
@[simp] theorem emit_nextId (s : State) (o : Output) : (emit s o).nextId = s.nextId := rfl
@[simp] theorem emit_out (s : State) (o : Output) : (emit s o).out = o :: s.out := rfl
@[simp] theorem emit_resetAt (s : State) (o : Output) : (emit s o).resetAt = s.resetAt := rfl
@[simp] theorem emit_regs (s : State) (o : Output) : (emit s o).regs = s.regs := rfl
@[simp] theorem emit_tb (s : State) (o : Output) : (emit s o).tb = s.tb := rfl
@[simp] theorem emit_links (s : State) (o : Output) : (emit s o).links = s.links := rfl
@[simp] theorem emit_rings (s : State) (o : Output) : (emit s o).rings = s.rings := rfl
@[simp] theorem emit_cmds (s : State) (o : Output) : (emit s o).cmds = s.cmds := rfl
@[simp] theorem emit_rrLast (s : State) (o : Output) : (emit s o).rrLast = s.rrLast := rfl
@[simp] theorem emit_srvLast (s : State) (o : Output) : (emit s o).srvLast = s.srvLast := rfl
@[simp] theorem emit_srvQps (s : State) (o : Output) : (emit s o).srvQps = s.srvQps := rfl
@[simp] theorem emit_setCycle (s : State) (o : Output) : (emit s o).setCycle = s.setCycle := rfl
@[simp] theorem emit_setBits (s : State) (o : Output) : (emit s o).setBits = s.setBits := rfl
@[simp] theorem emit_mrs (s : State) (o : Output) : (emit s o).mrs = s.mrs := rfl
@[simp] theorem emit_instances (s : State) (o : Output) : (emit s o).instances = s.instances := rfl
@[simp] theorem emit_clusters (s : State) (o : Output) : (emit s o).clusters = s.clusters := rfl
@[simp] theorem emit_units (s : State) (o : Output) : (emit s o).units = s.units := rfl
@[simp] theorem emit_replySeq (s : State) (o : Output) : (emit s o).replySeq = s.replySeq := rfl
@[simp] theorem emit_bindCounters (s : State) (o : Output) : (emit s o).bindCounters = s.bindCounters := rfl
@[simp] theorem emit_tables (s : State) (o : Output) : (emit s o).tables = s.tables := rfl
@[simp] theorem emit_tablesOld (s : State) (o : Output) : (emit s o).tablesOld = s.tablesOld := rfl
@[simp] theorem emit_msgs (s : State) (o : Output) : (emit s o).msgs = s.msgs := rfl
@[simp] theorem emit_cores (s : State) (o : Output) : (emit s o).cores = s.cores := rfl
@[simp] theorem emit_inqs (s : State) (o : Output) : (emit s o).inqs = s.inqs := rfl
@[simp] theorem emit_xfifos (s : State) (o : Output) : (emit s o).xfifos = s.xfifos := rfl
@[simp] theorem emit_coreFired (s : State) (o : Output) : (emit s o).coreFired = s.coreFired := rfl
@[simp] theorem emit_exitSlots (s : State) (o : Output) : (emit s o).exitSlots = s.exitSlots := rfl
@[simp] theorem emit_csram (s : State) (o : Output) : (emit s o).csram = s.csram := rfl
@[simp] theorem emit_clsram (s : State) (o : Output) : (emit s o).clsram = s.clsram := rfl
@[simp] theorem emit_clPend (s : State) (o : Output) : (emit s o).clPend = s.clPend := rfl
@[simp] theorem emit_joinSince (s : State) (o : Output) : (emit s o).joinSince = s.joinSince := rfl
@[simp] theorem emit_joinDone (s : State) (o : Output) : (emit s o).joinDone = s.joinDone := rfl
@[simp] theorem emit_wdogPrev (s : State) (o : Output) : (emit s o).wdogPrev = s.wdogPrev := rfl
@[simp] theorem emit_noStall (s : State) (o : Output) : (emit s o).noStall = s.noStall := rfl
@[simp] theorem emit_hbm (s : State) (o : Output) : (emit s o).hbm = s.hbm := rfl
@[simp] theorem emit_regions (s : State) (o : Output) : (emit s o).regions = s.regions := rfl
@[simp] theorem emit_freeBlocks (s : State) (o : Output) : (emit s o).freeBlocks = s.freeBlocks := rfl
@[simp] theorem emit_hbmJobs (s : State) (o : Output) : (emit s o).hbmJobs = s.hbmJobs := rfl
@[simp] theorem emit_split (s : State) (o : Output) : (emit s o).split = s.split := rfl
@[simp] theorem emit_splitCmd (s : State) (o : Output) : (emit s o).splitCmd = s.splitCmd := rfl
@[simp] theorem emit_ports (s : State) (o : Output) : (emit s o).ports = s.ports := rfl
@[simp] theorem emit_buckets (s : State) (o : Output) : (emit s o).buckets = s.buckets := rfl
@[simp] theorem emit_rxBufUsed (s : State) (o : Output) : (emit s o).rxBufUsed = s.rxBufUsed := rfl
@[simp] theorem emit_tlmMask (s : State) (o : Output) : (emit s o).tlmMask = s.tlmMask := rfl
@[simp] theorem emit_tlmOn (s : State) (o : Output) : (emit s o).tlmOn = s.tlmOn := rfl
@[simp] theorem emit_tlmGap (s : State) (o : Output) : (emit s o).tlmGap = s.tlmGap := rfl
@[simp] theorem emit_lfsr (s : State) (o : Output) : (emit s o).lfsr = s.lfsr := rfl
@[simp] theorem emit_filters (s : State) (o : Output) : (emit s o).filters = s.filters := rfl
@[simp] theorem emit_filtersOld (s : State) (o : Output) : (emit s o).filtersOld = s.filtersOld := rfl
@[simp] theorem emit_filtersLapsed (s : State) (o : Output) : (emit s o).filtersLapsed = s.filtersLapsed := rfl
@[simp] theorem emit_qps (s : State) (o : Output) : (emit s o).qps = s.qps := rfl
@[simp] theorem emit_peers (s : State) (o : Output) : (emit s o).peers = s.peers := rfl
@[simp] theorem emit_services (s : State) (o : Output) : (emit s o).services = s.services := rfl
@[simp] theorem emit_results (s : State) (o : Output) : (emit s o).results = s.results := rfl
@[simp] theorem emit_arms (s : State) (o : Output) : (emit s o).arms = s.arms := rfl
@[simp] theorem emit_armStops (s : State) (o : Output) : (emit s o).armStops = s.armStops := rfl
@[simp] theorem emit_errors (s : State) (o : Output) : (emit s o).errors = s.errors := rfl
@[simp] theorem emit_retired (s : State) (o : Output) : (emit s o).retired = s.retired := rfl
@[simp] theorem emit_byHand (s : State) (o : Output) : (emit s o).byHand = s.byHand := rfl
@[simp] theorem emit_shifts (s : State) (o : Output) : (emit s o).shifts = s.shifts := rfl
@[simp] theorem emit_shiftPend (s : State) (o : Output) : (emit s o).shiftPend = s.shiftPend := rfl
@[simp] theorem emit_history (s : State) (o : Output) : (emit s o).history = s.history := rfl
@[simp] theorem emit_histLost (s : State) (o : Output) : (emit s o).histLost = s.histLost := rfl
@[simp] theorem emit_witness (s : State) (o : Output) : (emit s o).witness = s.witness := rfl
@[simp] theorem emit_lanesUsed (s : State) (o : Output) : (emit s o).lanesUsed = s.lanesUsed := rfl
@[simp] theorem emit_correctedOnce (s : State) (o : Output) : (emit s o).correctedOnce = s.correctedOnce := rfl
@[simp] theorem emit_remaps (s : State) (o : Output) : (emit s o).remaps = s.remaps := rfl
@[simp] theorem emit_pllStandby (s : State) (o : Output) : (emit s o).pllStandby = s.pllStandby := rfl
@[simp] theorem emit_dieUp (s : State) (o : Output) : (emit s o).dieUp = s.dieUp := rfl
@[simp] theorem emit_pwren (s : State) (o : Output) : (emit s o).pwren = s.pwren := rfl
@[simp] theorem emit_dieReturn (s : State) (o : Output) : (emit s o).dieReturn = s.dieReturn := rfl
@[simp] theorem emit_dieRail (s : State) (o : Output) : (emit s o).dieRail = s.dieRail := rfl
@[simp] theorem emit_dieLost (s : State) (o : Output) : (emit s o).dieLost = s.dieLost := rfl
@[simp] theorem emit_temps (s : State) (o : Output) : (emit s o).temps = s.temps := rfl
@[simp] theorem emit_hotNow (s : State) (o : Output) : (emit s o).hotNow = s.hotNow := rfl
@[simp] theorem emit_hotRuns (s : State) (o : Output) : (emit s o).hotRuns = s.hotRuns := rfl
@[simp] theorem emit_alert (s : State) (o : Output) : (emit s o).alert = s.alert := rfl
@[simp] theorem emit_pkgShdn (s : State) (o : Output) : (emit s o).pkgShdn = s.pkgShdn := rfl
@[simp] theorem emit_iodLost (s : State) (o : Output) : (emit s o).iodLost = s.iodLost := rfl
@[simp] theorem emit_poweredDown (s : State) (o : Output) : (emit s o).poweredDown = s.poweredDown := rfl
@[simp] theorem emit_mgmt (s : State) (o : Output) : (emit s o).mgmt = s.mgmt := rfl

@[simp] theorem modInst_pending (s : State) (n : Nat) (f : Instance → Instance) : (modInst s n f).pending = s.pending := rfl
@[simp] theorem modInst_now (s : State) (n : Nat) (f : Instance → Instance) : (modInst s n f).now = s.now := rfl
@[simp] theorem modInst_fresh (s : State) (n : Nat) (f : Instance → Instance) : (modInst s n f).fresh = s.fresh := rfl
@[simp] theorem modInst_nextId (s : State) (n : Nat) (f : Instance → Instance) : (modInst s n f).nextId = s.nextId := rfl
@[simp] theorem modInst_out (s : State) (n : Nat) (f : Instance → Instance) : (modInst s n f).out = s.out := rfl
@[simp] theorem modInst_resetAt (s : State) (n : Nat) (f : Instance → Instance) : (modInst s n f).resetAt = s.resetAt := rfl
@[simp] theorem modInst_regs (s : State) (n : Nat) (f : Instance → Instance) : (modInst s n f).regs = s.regs := rfl
@[simp] theorem modInst_tb (s : State) (n : Nat) (f : Instance → Instance) : (modInst s n f).tb = s.tb := rfl
@[simp] theorem modInst_links (s : State) (n : Nat) (f : Instance → Instance) : (modInst s n f).links = s.links := rfl
@[simp] theorem modInst_rings (s : State) (n : Nat) (f : Instance → Instance) : (modInst s n f).rings = s.rings := rfl
@[simp] theorem modInst_cmds (s : State) (n : Nat) (f : Instance → Instance) : (modInst s n f).cmds = s.cmds := rfl
@[simp] theorem modInst_rrLast (s : State) (n : Nat) (f : Instance → Instance) : (modInst s n f).rrLast = s.rrLast := rfl
@[simp] theorem modInst_srvLast (s : State) (n : Nat) (f : Instance → Instance) : (modInst s n f).srvLast = s.srvLast := rfl
@[simp] theorem modInst_srvQps (s : State) (n : Nat) (f : Instance → Instance) : (modInst s n f).srvQps = s.srvQps := rfl
@[simp] theorem modInst_setCycle (s : State) (n : Nat) (f : Instance → Instance) : (modInst s n f).setCycle = s.setCycle := rfl
@[simp] theorem modInst_setBits (s : State) (n : Nat) (f : Instance → Instance) : (modInst s n f).setBits = s.setBits := rfl
@[simp] theorem modInst_mrs (s : State) (n : Nat) (f : Instance → Instance) : (modInst s n f).mrs = s.mrs := rfl
@[simp] theorem modInst_instances (s : State) (n : Nat) (f : Instance → Instance) : (modInst s n f).instances = tmodD s.instances n {} f := rfl
@[simp] theorem modInst_clusters (s : State) (n : Nat) (f : Instance → Instance) : (modInst s n f).clusters = s.clusters := rfl
@[simp] theorem modInst_units (s : State) (n : Nat) (f : Instance → Instance) : (modInst s n f).units = s.units := rfl
@[simp] theorem modInst_replySeq (s : State) (n : Nat) (f : Instance → Instance) : (modInst s n f).replySeq = s.replySeq := rfl
@[simp] theorem modInst_bindCounters (s : State) (n : Nat) (f : Instance → Instance) : (modInst s n f).bindCounters = s.bindCounters := rfl
@[simp] theorem modInst_tables (s : State) (n : Nat) (f : Instance → Instance) : (modInst s n f).tables = s.tables := rfl
@[simp] theorem modInst_tablesOld (s : State) (n : Nat) (f : Instance → Instance) : (modInst s n f).tablesOld = s.tablesOld := rfl
@[simp] theorem modInst_msgs (s : State) (n : Nat) (f : Instance → Instance) : (modInst s n f).msgs = s.msgs := rfl
@[simp] theorem modInst_cores (s : State) (n : Nat) (f : Instance → Instance) : (modInst s n f).cores = s.cores := rfl
@[simp] theorem modInst_inqs (s : State) (n : Nat) (f : Instance → Instance) : (modInst s n f).inqs = s.inqs := rfl
@[simp] theorem modInst_xfifos (s : State) (n : Nat) (f : Instance → Instance) : (modInst s n f).xfifos = s.xfifos := rfl
@[simp] theorem modInst_coreFired (s : State) (n : Nat) (f : Instance → Instance) : (modInst s n f).coreFired = s.coreFired := rfl
@[simp] theorem modInst_exitSlots (s : State) (n : Nat) (f : Instance → Instance) : (modInst s n f).exitSlots = s.exitSlots := rfl
@[simp] theorem modInst_csram (s : State) (n : Nat) (f : Instance → Instance) : (modInst s n f).csram = s.csram := rfl
@[simp] theorem modInst_clsram (s : State) (n : Nat) (f : Instance → Instance) : (modInst s n f).clsram = s.clsram := rfl
@[simp] theorem modInst_clPend (s : State) (n : Nat) (f : Instance → Instance) : (modInst s n f).clPend = s.clPend := rfl
@[simp] theorem modInst_joinSince (s : State) (n : Nat) (f : Instance → Instance) : (modInst s n f).joinSince = s.joinSince := rfl
@[simp] theorem modInst_joinDone (s : State) (n : Nat) (f : Instance → Instance) : (modInst s n f).joinDone = s.joinDone := rfl
@[simp] theorem modInst_wdogPrev (s : State) (n : Nat) (f : Instance → Instance) : (modInst s n f).wdogPrev = s.wdogPrev := rfl
@[simp] theorem modInst_noStall (s : State) (n : Nat) (f : Instance → Instance) : (modInst s n f).noStall = s.noStall := rfl
@[simp] theorem modInst_hbm (s : State) (n : Nat) (f : Instance → Instance) : (modInst s n f).hbm = s.hbm := rfl
@[simp] theorem modInst_regions (s : State) (n : Nat) (f : Instance → Instance) : (modInst s n f).regions = s.regions := rfl
@[simp] theorem modInst_freeBlocks (s : State) (n : Nat) (f : Instance → Instance) : (modInst s n f).freeBlocks = s.freeBlocks := rfl
@[simp] theorem modInst_hbmJobs (s : State) (n : Nat) (f : Instance → Instance) : (modInst s n f).hbmJobs = s.hbmJobs := rfl
@[simp] theorem modInst_split (s : State) (n : Nat) (f : Instance → Instance) : (modInst s n f).split = s.split := rfl
@[simp] theorem modInst_splitCmd (s : State) (n : Nat) (f : Instance → Instance) : (modInst s n f).splitCmd = s.splitCmd := rfl
@[simp] theorem modInst_ports (s : State) (n : Nat) (f : Instance → Instance) : (modInst s n f).ports = s.ports := rfl
@[simp] theorem modInst_buckets (s : State) (n : Nat) (f : Instance → Instance) : (modInst s n f).buckets = s.buckets := rfl
@[simp] theorem modInst_rxBufUsed (s : State) (n : Nat) (f : Instance → Instance) : (modInst s n f).rxBufUsed = s.rxBufUsed := rfl
@[simp] theorem modInst_tlmMask (s : State) (n : Nat) (f : Instance → Instance) : (modInst s n f).tlmMask = s.tlmMask := rfl
@[simp] theorem modInst_tlmOn (s : State) (n : Nat) (f : Instance → Instance) : (modInst s n f).tlmOn = s.tlmOn := rfl
@[simp] theorem modInst_tlmGap (s : State) (n : Nat) (f : Instance → Instance) : (modInst s n f).tlmGap = s.tlmGap := rfl
@[simp] theorem modInst_lfsr (s : State) (n : Nat) (f : Instance → Instance) : (modInst s n f).lfsr = s.lfsr := rfl
@[simp] theorem modInst_filters (s : State) (n : Nat) (f : Instance → Instance) : (modInst s n f).filters = s.filters := rfl
@[simp] theorem modInst_filtersOld (s : State) (n : Nat) (f : Instance → Instance) : (modInst s n f).filtersOld = s.filtersOld := rfl
@[simp] theorem modInst_filtersLapsed (s : State) (n : Nat) (f : Instance → Instance) : (modInst s n f).filtersLapsed = s.filtersLapsed := rfl
@[simp] theorem modInst_qps (s : State) (n : Nat) (f : Instance → Instance) : (modInst s n f).qps = s.qps := rfl
@[simp] theorem modInst_peers (s : State) (n : Nat) (f : Instance → Instance) : (modInst s n f).peers = s.peers := rfl
@[simp] theorem modInst_services (s : State) (n : Nat) (f : Instance → Instance) : (modInst s n f).services = s.services := rfl
@[simp] theorem modInst_results (s : State) (n : Nat) (f : Instance → Instance) : (modInst s n f).results = s.results := rfl
@[simp] theorem modInst_arms (s : State) (n : Nat) (f : Instance → Instance) : (modInst s n f).arms = s.arms := rfl
@[simp] theorem modInst_armStops (s : State) (n : Nat) (f : Instance → Instance) : (modInst s n f).armStops = s.armStops := rfl
@[simp] theorem modInst_errors (s : State) (n : Nat) (f : Instance → Instance) : (modInst s n f).errors = s.errors := rfl
@[simp] theorem modInst_retired (s : State) (n : Nat) (f : Instance → Instance) : (modInst s n f).retired = s.retired := rfl
@[simp] theorem modInst_byHand (s : State) (n : Nat) (f : Instance → Instance) : (modInst s n f).byHand = s.byHand := rfl
@[simp] theorem modInst_shifts (s : State) (n : Nat) (f : Instance → Instance) : (modInst s n f).shifts = s.shifts := rfl
@[simp] theorem modInst_shiftPend (s : State) (n : Nat) (f : Instance → Instance) : (modInst s n f).shiftPend = s.shiftPend := rfl
@[simp] theorem modInst_history (s : State) (n : Nat) (f : Instance → Instance) : (modInst s n f).history = s.history := rfl
@[simp] theorem modInst_histLost (s : State) (n : Nat) (f : Instance → Instance) : (modInst s n f).histLost = s.histLost := rfl
@[simp] theorem modInst_witness (s : State) (n : Nat) (f : Instance → Instance) : (modInst s n f).witness = s.witness := rfl
@[simp] theorem modInst_lanesUsed (s : State) (n : Nat) (f : Instance → Instance) : (modInst s n f).lanesUsed = s.lanesUsed := rfl
@[simp] theorem modInst_correctedOnce (s : State) (n : Nat) (f : Instance → Instance) : (modInst s n f).correctedOnce = s.correctedOnce := rfl
@[simp] theorem modInst_remaps (s : State) (n : Nat) (f : Instance → Instance) : (modInst s n f).remaps = s.remaps := rfl
@[simp] theorem modInst_pllStandby (s : State) (n : Nat) (f : Instance → Instance) : (modInst s n f).pllStandby = s.pllStandby := rfl
@[simp] theorem modInst_dieUp (s : State) (n : Nat) (f : Instance → Instance) : (modInst s n f).dieUp = s.dieUp := rfl
@[simp] theorem modInst_pwren (s : State) (n : Nat) (f : Instance → Instance) : (modInst s n f).pwren = s.pwren := rfl
@[simp] theorem modInst_dieReturn (s : State) (n : Nat) (f : Instance → Instance) : (modInst s n f).dieReturn = s.dieReturn := rfl
@[simp] theorem modInst_dieRail (s : State) (n : Nat) (f : Instance → Instance) : (modInst s n f).dieRail = s.dieRail := rfl
@[simp] theorem modInst_dieLost (s : State) (n : Nat) (f : Instance → Instance) : (modInst s n f).dieLost = s.dieLost := rfl
@[simp] theorem modInst_temps (s : State) (n : Nat) (f : Instance → Instance) : (modInst s n f).temps = s.temps := rfl
@[simp] theorem modInst_hotNow (s : State) (n : Nat) (f : Instance → Instance) : (modInst s n f).hotNow = s.hotNow := rfl
@[simp] theorem modInst_hotRuns (s : State) (n : Nat) (f : Instance → Instance) : (modInst s n f).hotRuns = s.hotRuns := rfl
@[simp] theorem modInst_alert (s : State) (n : Nat) (f : Instance → Instance) : (modInst s n f).alert = s.alert := rfl
@[simp] theorem modInst_pkgShdn (s : State) (n : Nat) (f : Instance → Instance) : (modInst s n f).pkgShdn = s.pkgShdn := rfl
@[simp] theorem modInst_iodLost (s : State) (n : Nat) (f : Instance → Instance) : (modInst s n f).iodLost = s.iodLost := rfl
@[simp] theorem modInst_poweredDown (s : State) (n : Nat) (f : Instance → Instance) : (modInst s n f).poweredDown = s.poweredDown := rfl
@[simp] theorem modInst_mgmt (s : State) (n : Nat) (f : Instance → Instance) : (modInst s n f).mgmt = s.mgmt := rfl

@[simp] theorem modUnit_pending (s : State) (u : Nat) (f : MUnit → MUnit) : (modUnit s u f).pending = s.pending := rfl
@[simp] theorem modUnit_now (s : State) (u : Nat) (f : MUnit → MUnit) : (modUnit s u f).now = s.now := rfl
@[simp] theorem modUnit_fresh (s : State) (u : Nat) (f : MUnit → MUnit) : (modUnit s u f).fresh = s.fresh := rfl
@[simp] theorem modUnit_nextId (s : State) (u : Nat) (f : MUnit → MUnit) : (modUnit s u f).nextId = s.nextId := rfl
@[simp] theorem modUnit_out (s : State) (u : Nat) (f : MUnit → MUnit) : (modUnit s u f).out = s.out := rfl
@[simp] theorem modUnit_resetAt (s : State) (u : Nat) (f : MUnit → MUnit) : (modUnit s u f).resetAt = s.resetAt := rfl
@[simp] theorem modUnit_regs (s : State) (u : Nat) (f : MUnit → MUnit) : (modUnit s u f).regs = s.regs := rfl
@[simp] theorem modUnit_tb (s : State) (u : Nat) (f : MUnit → MUnit) : (modUnit s u f).tb = s.tb := rfl
@[simp] theorem modUnit_links (s : State) (u : Nat) (f : MUnit → MUnit) : (modUnit s u f).links = s.links := rfl
@[simp] theorem modUnit_rings (s : State) (u : Nat) (f : MUnit → MUnit) : (modUnit s u f).rings = s.rings := rfl
@[simp] theorem modUnit_cmds (s : State) (u : Nat) (f : MUnit → MUnit) : (modUnit s u f).cmds = s.cmds := rfl
@[simp] theorem modUnit_rrLast (s : State) (u : Nat) (f : MUnit → MUnit) : (modUnit s u f).rrLast = s.rrLast := rfl
@[simp] theorem modUnit_srvLast (s : State) (u : Nat) (f : MUnit → MUnit) : (modUnit s u f).srvLast = s.srvLast := rfl
@[simp] theorem modUnit_srvQps (s : State) (u : Nat) (f : MUnit → MUnit) : (modUnit s u f).srvQps = s.srvQps := rfl
@[simp] theorem modUnit_setCycle (s : State) (u : Nat) (f : MUnit → MUnit) : (modUnit s u f).setCycle = s.setCycle := rfl
@[simp] theorem modUnit_setBits (s : State) (u : Nat) (f : MUnit → MUnit) : (modUnit s u f).setBits = s.setBits := rfl
@[simp] theorem modUnit_mrs (s : State) (u : Nat) (f : MUnit → MUnit) : (modUnit s u f).mrs = s.mrs := rfl
@[simp] theorem modUnit_instances (s : State) (u : Nat) (f : MUnit → MUnit) : (modUnit s u f).instances = s.instances := rfl
@[simp] theorem modUnit_clusters (s : State) (u : Nat) (f : MUnit → MUnit) : (modUnit s u f).clusters = s.clusters := rfl
@[simp] theorem modUnit_units (s : State) (u : Nat) (f : MUnit → MUnit) : (modUnit s u f).units = tmod s.units u f := rfl
@[simp] theorem modUnit_replySeq (s : State) (u : Nat) (f : MUnit → MUnit) : (modUnit s u f).replySeq = s.replySeq := rfl
@[simp] theorem modUnit_bindCounters (s : State) (u : Nat) (f : MUnit → MUnit) : (modUnit s u f).bindCounters = s.bindCounters := rfl
@[simp] theorem modUnit_tables (s : State) (u : Nat) (f : MUnit → MUnit) : (modUnit s u f).tables = s.tables := rfl
@[simp] theorem modUnit_tablesOld (s : State) (u : Nat) (f : MUnit → MUnit) : (modUnit s u f).tablesOld = s.tablesOld := rfl
@[simp] theorem modUnit_msgs (s : State) (u : Nat) (f : MUnit → MUnit) : (modUnit s u f).msgs = s.msgs := rfl
@[simp] theorem modUnit_cores (s : State) (u : Nat) (f : MUnit → MUnit) : (modUnit s u f).cores = s.cores := rfl
@[simp] theorem modUnit_inqs (s : State) (u : Nat) (f : MUnit → MUnit) : (modUnit s u f).inqs = s.inqs := rfl
@[simp] theorem modUnit_xfifos (s : State) (u : Nat) (f : MUnit → MUnit) : (modUnit s u f).xfifos = s.xfifos := rfl
@[simp] theorem modUnit_coreFired (s : State) (u : Nat) (f : MUnit → MUnit) : (modUnit s u f).coreFired = s.coreFired := rfl
@[simp] theorem modUnit_exitSlots (s : State) (u : Nat) (f : MUnit → MUnit) : (modUnit s u f).exitSlots = s.exitSlots := rfl
@[simp] theorem modUnit_csram (s : State) (u : Nat) (f : MUnit → MUnit) : (modUnit s u f).csram = s.csram := rfl
@[simp] theorem modUnit_clsram (s : State) (u : Nat) (f : MUnit → MUnit) : (modUnit s u f).clsram = s.clsram := rfl
@[simp] theorem modUnit_clPend (s : State) (u : Nat) (f : MUnit → MUnit) : (modUnit s u f).clPend = s.clPend := rfl
@[simp] theorem modUnit_joinSince (s : State) (u : Nat) (f : MUnit → MUnit) : (modUnit s u f).joinSince = s.joinSince := rfl
@[simp] theorem modUnit_joinDone (s : State) (u : Nat) (f : MUnit → MUnit) : (modUnit s u f).joinDone = s.joinDone := rfl
@[simp] theorem modUnit_wdogPrev (s : State) (u : Nat) (f : MUnit → MUnit) : (modUnit s u f).wdogPrev = s.wdogPrev := rfl
@[simp] theorem modUnit_noStall (s : State) (u : Nat) (f : MUnit → MUnit) : (modUnit s u f).noStall = s.noStall := rfl
@[simp] theorem modUnit_hbm (s : State) (u : Nat) (f : MUnit → MUnit) : (modUnit s u f).hbm = s.hbm := rfl
@[simp] theorem modUnit_regions (s : State) (u : Nat) (f : MUnit → MUnit) : (modUnit s u f).regions = s.regions := rfl
@[simp] theorem modUnit_freeBlocks (s : State) (u : Nat) (f : MUnit → MUnit) : (modUnit s u f).freeBlocks = s.freeBlocks := rfl
@[simp] theorem modUnit_hbmJobs (s : State) (u : Nat) (f : MUnit → MUnit) : (modUnit s u f).hbmJobs = s.hbmJobs := rfl
@[simp] theorem modUnit_split (s : State) (u : Nat) (f : MUnit → MUnit) : (modUnit s u f).split = s.split := rfl
@[simp] theorem modUnit_splitCmd (s : State) (u : Nat) (f : MUnit → MUnit) : (modUnit s u f).splitCmd = s.splitCmd := rfl
@[simp] theorem modUnit_ports (s : State) (u : Nat) (f : MUnit → MUnit) : (modUnit s u f).ports = s.ports := rfl
@[simp] theorem modUnit_buckets (s : State) (u : Nat) (f : MUnit → MUnit) : (modUnit s u f).buckets = s.buckets := rfl
@[simp] theorem modUnit_rxBufUsed (s : State) (u : Nat) (f : MUnit → MUnit) : (modUnit s u f).rxBufUsed = s.rxBufUsed := rfl
@[simp] theorem modUnit_tlmMask (s : State) (u : Nat) (f : MUnit → MUnit) : (modUnit s u f).tlmMask = s.tlmMask := rfl
@[simp] theorem modUnit_tlmOn (s : State) (u : Nat) (f : MUnit → MUnit) : (modUnit s u f).tlmOn = s.tlmOn := rfl
@[simp] theorem modUnit_tlmGap (s : State) (u : Nat) (f : MUnit → MUnit) : (modUnit s u f).tlmGap = s.tlmGap := rfl
@[simp] theorem modUnit_lfsr (s : State) (u : Nat) (f : MUnit → MUnit) : (modUnit s u f).lfsr = s.lfsr := rfl
@[simp] theorem modUnit_filters (s : State) (u : Nat) (f : MUnit → MUnit) : (modUnit s u f).filters = s.filters := rfl
@[simp] theorem modUnit_filtersOld (s : State) (u : Nat) (f : MUnit → MUnit) : (modUnit s u f).filtersOld = s.filtersOld := rfl
@[simp] theorem modUnit_filtersLapsed (s : State) (u : Nat) (f : MUnit → MUnit) : (modUnit s u f).filtersLapsed = s.filtersLapsed := rfl
@[simp] theorem modUnit_qps (s : State) (u : Nat) (f : MUnit → MUnit) : (modUnit s u f).qps = s.qps := rfl
@[simp] theorem modUnit_peers (s : State) (u : Nat) (f : MUnit → MUnit) : (modUnit s u f).peers = s.peers := rfl
@[simp] theorem modUnit_services (s : State) (u : Nat) (f : MUnit → MUnit) : (modUnit s u f).services = s.services := rfl
@[simp] theorem modUnit_results (s : State) (u : Nat) (f : MUnit → MUnit) : (modUnit s u f).results = s.results := rfl
@[simp] theorem modUnit_arms (s : State) (u : Nat) (f : MUnit → MUnit) : (modUnit s u f).arms = s.arms := rfl
@[simp] theorem modUnit_armStops (s : State) (u : Nat) (f : MUnit → MUnit) : (modUnit s u f).armStops = s.armStops := rfl
@[simp] theorem modUnit_errors (s : State) (u : Nat) (f : MUnit → MUnit) : (modUnit s u f).errors = s.errors := rfl
@[simp] theorem modUnit_retired (s : State) (u : Nat) (f : MUnit → MUnit) : (modUnit s u f).retired = s.retired := rfl
@[simp] theorem modUnit_byHand (s : State) (u : Nat) (f : MUnit → MUnit) : (modUnit s u f).byHand = s.byHand := rfl
@[simp] theorem modUnit_shifts (s : State) (u : Nat) (f : MUnit → MUnit) : (modUnit s u f).shifts = s.shifts := rfl
@[simp] theorem modUnit_shiftPend (s : State) (u : Nat) (f : MUnit → MUnit) : (modUnit s u f).shiftPend = s.shiftPend := rfl
@[simp] theorem modUnit_history (s : State) (u : Nat) (f : MUnit → MUnit) : (modUnit s u f).history = s.history := rfl
@[simp] theorem modUnit_histLost (s : State) (u : Nat) (f : MUnit → MUnit) : (modUnit s u f).histLost = s.histLost := rfl
@[simp] theorem modUnit_witness (s : State) (u : Nat) (f : MUnit → MUnit) : (modUnit s u f).witness = s.witness := rfl
@[simp] theorem modUnit_lanesUsed (s : State) (u : Nat) (f : MUnit → MUnit) : (modUnit s u f).lanesUsed = s.lanesUsed := rfl
@[simp] theorem modUnit_correctedOnce (s : State) (u : Nat) (f : MUnit → MUnit) : (modUnit s u f).correctedOnce = s.correctedOnce := rfl
@[simp] theorem modUnit_remaps (s : State) (u : Nat) (f : MUnit → MUnit) : (modUnit s u f).remaps = s.remaps := rfl
@[simp] theorem modUnit_pllStandby (s : State) (u : Nat) (f : MUnit → MUnit) : (modUnit s u f).pllStandby = s.pllStandby := rfl
@[simp] theorem modUnit_dieUp (s : State) (u : Nat) (f : MUnit → MUnit) : (modUnit s u f).dieUp = s.dieUp := rfl
@[simp] theorem modUnit_pwren (s : State) (u : Nat) (f : MUnit → MUnit) : (modUnit s u f).pwren = s.pwren := rfl
@[simp] theorem modUnit_dieReturn (s : State) (u : Nat) (f : MUnit → MUnit) : (modUnit s u f).dieReturn = s.dieReturn := rfl
@[simp] theorem modUnit_dieRail (s : State) (u : Nat) (f : MUnit → MUnit) : (modUnit s u f).dieRail = s.dieRail := rfl
@[simp] theorem modUnit_dieLost (s : State) (u : Nat) (f : MUnit → MUnit) : (modUnit s u f).dieLost = s.dieLost := rfl
@[simp] theorem modUnit_temps (s : State) (u : Nat) (f : MUnit → MUnit) : (modUnit s u f).temps = s.temps := rfl
@[simp] theorem modUnit_hotNow (s : State) (u : Nat) (f : MUnit → MUnit) : (modUnit s u f).hotNow = s.hotNow := rfl
@[simp] theorem modUnit_hotRuns (s : State) (u : Nat) (f : MUnit → MUnit) : (modUnit s u f).hotRuns = s.hotRuns := rfl
@[simp] theorem modUnit_alert (s : State) (u : Nat) (f : MUnit → MUnit) : (modUnit s u f).alert = s.alert := rfl
@[simp] theorem modUnit_pkgShdn (s : State) (u : Nat) (f : MUnit → MUnit) : (modUnit s u f).pkgShdn = s.pkgShdn := rfl
@[simp] theorem modUnit_iodLost (s : State) (u : Nat) (f : MUnit → MUnit) : (modUnit s u f).iodLost = s.iodLost := rfl
@[simp] theorem modUnit_poweredDown (s : State) (u : Nat) (f : MUnit → MUnit) : (modUnit s u f).poweredDown = s.poweredDown := rfl
@[simp] theorem modUnit_mgmt (s : State) (u : Nat) (f : MUnit → MUnit) : (modUnit s u f).mgmt = s.mgmt := rfl

@[simp] theorem modPort_pending (s : State) (p : Nat) (f : Port → Port) : (modPort s p f).pending = s.pending := rfl
@[simp] theorem modPort_now (s : State) (p : Nat) (f : Port → Port) : (modPort s p f).now = s.now := rfl
@[simp] theorem modPort_fresh (s : State) (p : Nat) (f : Port → Port) : (modPort s p f).fresh = s.fresh := rfl
@[simp] theorem modPort_nextId (s : State) (p : Nat) (f : Port → Port) : (modPort s p f).nextId = s.nextId := rfl
@[simp] theorem modPort_out (s : State) (p : Nat) (f : Port → Port) : (modPort s p f).out = s.out := rfl
@[simp] theorem modPort_resetAt (s : State) (p : Nat) (f : Port → Port) : (modPort s p f).resetAt = s.resetAt := rfl
@[simp] theorem modPort_regs (s : State) (p : Nat) (f : Port → Port) : (modPort s p f).regs = s.regs := rfl
@[simp] theorem modPort_tb (s : State) (p : Nat) (f : Port → Port) : (modPort s p f).tb = s.tb := rfl
@[simp] theorem modPort_links (s : State) (p : Nat) (f : Port → Port) : (modPort s p f).links = s.links := rfl
@[simp] theorem modPort_rings (s : State) (p : Nat) (f : Port → Port) : (modPort s p f).rings = s.rings := rfl
@[simp] theorem modPort_cmds (s : State) (p : Nat) (f : Port → Port) : (modPort s p f).cmds = s.cmds := rfl
@[simp] theorem modPort_rrLast (s : State) (p : Nat) (f : Port → Port) : (modPort s p f).rrLast = s.rrLast := rfl
@[simp] theorem modPort_srvLast (s : State) (p : Nat) (f : Port → Port) : (modPort s p f).srvLast = s.srvLast := rfl
@[simp] theorem modPort_srvQps (s : State) (p : Nat) (f : Port → Port) : (modPort s p f).srvQps = s.srvQps := rfl
@[simp] theorem modPort_setCycle (s : State) (p : Nat) (f : Port → Port) : (modPort s p f).setCycle = s.setCycle := rfl
@[simp] theorem modPort_setBits (s : State) (p : Nat) (f : Port → Port) : (modPort s p f).setBits = s.setBits := rfl
@[simp] theorem modPort_mrs (s : State) (p : Nat) (f : Port → Port) : (modPort s p f).mrs = s.mrs := rfl
@[simp] theorem modPort_instances (s : State) (p : Nat) (f : Port → Port) : (modPort s p f).instances = s.instances := rfl
@[simp] theorem modPort_clusters (s : State) (p : Nat) (f : Port → Port) : (modPort s p f).clusters = s.clusters := rfl
@[simp] theorem modPort_units (s : State) (p : Nat) (f : Port → Port) : (modPort s p f).units = s.units := rfl
@[simp] theorem modPort_replySeq (s : State) (p : Nat) (f : Port → Port) : (modPort s p f).replySeq = s.replySeq := rfl
@[simp] theorem modPort_bindCounters (s : State) (p : Nat) (f : Port → Port) : (modPort s p f).bindCounters = s.bindCounters := rfl
@[simp] theorem modPort_tables (s : State) (p : Nat) (f : Port → Port) : (modPort s p f).tables = s.tables := rfl
@[simp] theorem modPort_tablesOld (s : State) (p : Nat) (f : Port → Port) : (modPort s p f).tablesOld = s.tablesOld := rfl
@[simp] theorem modPort_msgs (s : State) (p : Nat) (f : Port → Port) : (modPort s p f).msgs = s.msgs := rfl
@[simp] theorem modPort_cores (s : State) (p : Nat) (f : Port → Port) : (modPort s p f).cores = s.cores := rfl
@[simp] theorem modPort_inqs (s : State) (p : Nat) (f : Port → Port) : (modPort s p f).inqs = s.inqs := rfl
@[simp] theorem modPort_xfifos (s : State) (p : Nat) (f : Port → Port) : (modPort s p f).xfifos = s.xfifos := rfl
@[simp] theorem modPort_coreFired (s : State) (p : Nat) (f : Port → Port) : (modPort s p f).coreFired = s.coreFired := rfl
@[simp] theorem modPort_exitSlots (s : State) (p : Nat) (f : Port → Port) : (modPort s p f).exitSlots = s.exitSlots := rfl
@[simp] theorem modPort_csram (s : State) (p : Nat) (f : Port → Port) : (modPort s p f).csram = s.csram := rfl
@[simp] theorem modPort_clsram (s : State) (p : Nat) (f : Port → Port) : (modPort s p f).clsram = s.clsram := rfl
@[simp] theorem modPort_clPend (s : State) (p : Nat) (f : Port → Port) : (modPort s p f).clPend = s.clPend := rfl
@[simp] theorem modPort_joinSince (s : State) (p : Nat) (f : Port → Port) : (modPort s p f).joinSince = s.joinSince := rfl
@[simp] theorem modPort_joinDone (s : State) (p : Nat) (f : Port → Port) : (modPort s p f).joinDone = s.joinDone := rfl
@[simp] theorem modPort_wdogPrev (s : State) (p : Nat) (f : Port → Port) : (modPort s p f).wdogPrev = s.wdogPrev := rfl
@[simp] theorem modPort_noStall (s : State) (p : Nat) (f : Port → Port) : (modPort s p f).noStall = s.noStall := rfl
@[simp] theorem modPort_hbm (s : State) (p : Nat) (f : Port → Port) : (modPort s p f).hbm = s.hbm := rfl
@[simp] theorem modPort_regions (s : State) (p : Nat) (f : Port → Port) : (modPort s p f).regions = s.regions := rfl
@[simp] theorem modPort_freeBlocks (s : State) (p : Nat) (f : Port → Port) : (modPort s p f).freeBlocks = s.freeBlocks := rfl
@[simp] theorem modPort_hbmJobs (s : State) (p : Nat) (f : Port → Port) : (modPort s p f).hbmJobs = s.hbmJobs := rfl
@[simp] theorem modPort_split (s : State) (p : Nat) (f : Port → Port) : (modPort s p f).split = s.split := rfl
@[simp] theorem modPort_splitCmd (s : State) (p : Nat) (f : Port → Port) : (modPort s p f).splitCmd = s.splitCmd := rfl
@[simp] theorem modPort_ports (s : State) (p : Nat) (f : Port → Port) : (modPort s p f).ports = tmodD s.ports p {} f := rfl
@[simp] theorem modPort_buckets (s : State) (p : Nat) (f : Port → Port) : (modPort s p f).buckets = s.buckets := rfl
@[simp] theorem modPort_rxBufUsed (s : State) (p : Nat) (f : Port → Port) : (modPort s p f).rxBufUsed = s.rxBufUsed := rfl
@[simp] theorem modPort_tlmMask (s : State) (p : Nat) (f : Port → Port) : (modPort s p f).tlmMask = s.tlmMask := rfl
@[simp] theorem modPort_tlmOn (s : State) (p : Nat) (f : Port → Port) : (modPort s p f).tlmOn = s.tlmOn := rfl
@[simp] theorem modPort_tlmGap (s : State) (p : Nat) (f : Port → Port) : (modPort s p f).tlmGap = s.tlmGap := rfl
@[simp] theorem modPort_lfsr (s : State) (p : Nat) (f : Port → Port) : (modPort s p f).lfsr = s.lfsr := rfl
@[simp] theorem modPort_filters (s : State) (p : Nat) (f : Port → Port) : (modPort s p f).filters = s.filters := rfl
@[simp] theorem modPort_filtersOld (s : State) (p : Nat) (f : Port → Port) : (modPort s p f).filtersOld = s.filtersOld := rfl
@[simp] theorem modPort_filtersLapsed (s : State) (p : Nat) (f : Port → Port) : (modPort s p f).filtersLapsed = s.filtersLapsed := rfl
@[simp] theorem modPort_qps (s : State) (p : Nat) (f : Port → Port) : (modPort s p f).qps = s.qps := rfl
@[simp] theorem modPort_peers (s : State) (p : Nat) (f : Port → Port) : (modPort s p f).peers = s.peers := rfl
@[simp] theorem modPort_services (s : State) (p : Nat) (f : Port → Port) : (modPort s p f).services = s.services := rfl
@[simp] theorem modPort_results (s : State) (p : Nat) (f : Port → Port) : (modPort s p f).results = s.results := rfl
@[simp] theorem modPort_arms (s : State) (p : Nat) (f : Port → Port) : (modPort s p f).arms = s.arms := rfl
@[simp] theorem modPort_armStops (s : State) (p : Nat) (f : Port → Port) : (modPort s p f).armStops = s.armStops := rfl
@[simp] theorem modPort_errors (s : State) (p : Nat) (f : Port → Port) : (modPort s p f).errors = s.errors := rfl
@[simp] theorem modPort_retired (s : State) (p : Nat) (f : Port → Port) : (modPort s p f).retired = s.retired := rfl
@[simp] theorem modPort_byHand (s : State) (p : Nat) (f : Port → Port) : (modPort s p f).byHand = s.byHand := rfl
@[simp] theorem modPort_shifts (s : State) (p : Nat) (f : Port → Port) : (modPort s p f).shifts = s.shifts := rfl
@[simp] theorem modPort_shiftPend (s : State) (p : Nat) (f : Port → Port) : (modPort s p f).shiftPend = s.shiftPend := rfl
@[simp] theorem modPort_history (s : State) (p : Nat) (f : Port → Port) : (modPort s p f).history = s.history := rfl
@[simp] theorem modPort_histLost (s : State) (p : Nat) (f : Port → Port) : (modPort s p f).histLost = s.histLost := rfl
@[simp] theorem modPort_witness (s : State) (p : Nat) (f : Port → Port) : (modPort s p f).witness = s.witness := rfl
@[simp] theorem modPort_lanesUsed (s : State) (p : Nat) (f : Port → Port) : (modPort s p f).lanesUsed = s.lanesUsed := rfl
@[simp] theorem modPort_correctedOnce (s : State) (p : Nat) (f : Port → Port) : (modPort s p f).correctedOnce = s.correctedOnce := rfl
@[simp] theorem modPort_remaps (s : State) (p : Nat) (f : Port → Port) : (modPort s p f).remaps = s.remaps := rfl
@[simp] theorem modPort_pllStandby (s : State) (p : Nat) (f : Port → Port) : (modPort s p f).pllStandby = s.pllStandby := rfl
@[simp] theorem modPort_dieUp (s : State) (p : Nat) (f : Port → Port) : (modPort s p f).dieUp = s.dieUp := rfl
@[simp] theorem modPort_pwren (s : State) (p : Nat) (f : Port → Port) : (modPort s p f).pwren = s.pwren := rfl
@[simp] theorem modPort_dieReturn (s : State) (p : Nat) (f : Port → Port) : (modPort s p f).dieReturn = s.dieReturn := rfl
@[simp] theorem modPort_dieRail (s : State) (p : Nat) (f : Port → Port) : (modPort s p f).dieRail = s.dieRail := rfl
@[simp] theorem modPort_dieLost (s : State) (p : Nat) (f : Port → Port) : (modPort s p f).dieLost = s.dieLost := rfl
@[simp] theorem modPort_temps (s : State) (p : Nat) (f : Port → Port) : (modPort s p f).temps = s.temps := rfl
@[simp] theorem modPort_hotNow (s : State) (p : Nat) (f : Port → Port) : (modPort s p f).hotNow = s.hotNow := rfl
@[simp] theorem modPort_hotRuns (s : State) (p : Nat) (f : Port → Port) : (modPort s p f).hotRuns = s.hotRuns := rfl
@[simp] theorem modPort_alert (s : State) (p : Nat) (f : Port → Port) : (modPort s p f).alert = s.alert := rfl
@[simp] theorem modPort_pkgShdn (s : State) (p : Nat) (f : Port → Port) : (modPort s p f).pkgShdn = s.pkgShdn := rfl
@[simp] theorem modPort_iodLost (s : State) (p : Nat) (f : Port → Port) : (modPort s p f).iodLost = s.iodLost := rfl
@[simp] theorem modPort_poweredDown (s : State) (p : Nat) (f : Port → Port) : (modPort s p f).poweredDown = s.poweredDown := rfl
@[simp] theorem modPort_mgmt (s : State) (p : Nat) (f : Port → Port) : (modPort s p f).mgmt = s.mgmt := rfl

@[simp] theorem modMsg_pending (s : State) (m : Nat) (f : Message → Message) : (modMsg s m f).pending = s.pending := rfl
@[simp] theorem modMsg_now (s : State) (m : Nat) (f : Message → Message) : (modMsg s m f).now = s.now := rfl
@[simp] theorem modMsg_fresh (s : State) (m : Nat) (f : Message → Message) : (modMsg s m f).fresh = s.fresh := rfl
@[simp] theorem modMsg_nextId (s : State) (m : Nat) (f : Message → Message) : (modMsg s m f).nextId = s.nextId := rfl
@[simp] theorem modMsg_out (s : State) (m : Nat) (f : Message → Message) : (modMsg s m f).out = s.out := rfl
@[simp] theorem modMsg_resetAt (s : State) (m : Nat) (f : Message → Message) : (modMsg s m f).resetAt = s.resetAt := rfl
@[simp] theorem modMsg_regs (s : State) (m : Nat) (f : Message → Message) : (modMsg s m f).regs = s.regs := rfl
@[simp] theorem modMsg_tb (s : State) (m : Nat) (f : Message → Message) : (modMsg s m f).tb = s.tb := rfl
@[simp] theorem modMsg_links (s : State) (m : Nat) (f : Message → Message) : (modMsg s m f).links = s.links := rfl
@[simp] theorem modMsg_rings (s : State) (m : Nat) (f : Message → Message) : (modMsg s m f).rings = s.rings := rfl
@[simp] theorem modMsg_cmds (s : State) (m : Nat) (f : Message → Message) : (modMsg s m f).cmds = s.cmds := rfl
@[simp] theorem modMsg_rrLast (s : State) (m : Nat) (f : Message → Message) : (modMsg s m f).rrLast = s.rrLast := rfl
@[simp] theorem modMsg_srvLast (s : State) (m : Nat) (f : Message → Message) : (modMsg s m f).srvLast = s.srvLast := rfl
@[simp] theorem modMsg_srvQps (s : State) (m : Nat) (f : Message → Message) : (modMsg s m f).srvQps = s.srvQps := rfl
@[simp] theorem modMsg_setCycle (s : State) (m : Nat) (f : Message → Message) : (modMsg s m f).setCycle = s.setCycle := rfl
@[simp] theorem modMsg_setBits (s : State) (m : Nat) (f : Message → Message) : (modMsg s m f).setBits = s.setBits := rfl
@[simp] theorem modMsg_mrs (s : State) (m : Nat) (f : Message → Message) : (modMsg s m f).mrs = s.mrs := rfl
@[simp] theorem modMsg_instances (s : State) (m : Nat) (f : Message → Message) : (modMsg s m f).instances = s.instances := rfl
@[simp] theorem modMsg_clusters (s : State) (m : Nat) (f : Message → Message) : (modMsg s m f).clusters = s.clusters := rfl
@[simp] theorem modMsg_units (s : State) (m : Nat) (f : Message → Message) : (modMsg s m f).units = s.units := rfl
@[simp] theorem modMsg_replySeq (s : State) (m : Nat) (f : Message → Message) : (modMsg s m f).replySeq = s.replySeq := rfl
@[simp] theorem modMsg_bindCounters (s : State) (m : Nat) (f : Message → Message) : (modMsg s m f).bindCounters = s.bindCounters := rfl
@[simp] theorem modMsg_tables (s : State) (m : Nat) (f : Message → Message) : (modMsg s m f).tables = s.tables := rfl
@[simp] theorem modMsg_tablesOld (s : State) (m : Nat) (f : Message → Message) : (modMsg s m f).tablesOld = s.tablesOld := rfl
@[simp] theorem modMsg_msgs (s : State) (m : Nat) (f : Message → Message) : (modMsg s m f).msgs = tmod s.msgs m f := rfl
@[simp] theorem modMsg_cores (s : State) (m : Nat) (f : Message → Message) : (modMsg s m f).cores = s.cores := rfl
@[simp] theorem modMsg_inqs (s : State) (m : Nat) (f : Message → Message) : (modMsg s m f).inqs = s.inqs := rfl
@[simp] theorem modMsg_xfifos (s : State) (m : Nat) (f : Message → Message) : (modMsg s m f).xfifos = s.xfifos := rfl
@[simp] theorem modMsg_coreFired (s : State) (m : Nat) (f : Message → Message) : (modMsg s m f).coreFired = s.coreFired := rfl
@[simp] theorem modMsg_exitSlots (s : State) (m : Nat) (f : Message → Message) : (modMsg s m f).exitSlots = s.exitSlots := rfl
@[simp] theorem modMsg_csram (s : State) (m : Nat) (f : Message → Message) : (modMsg s m f).csram = s.csram := rfl
@[simp] theorem modMsg_clsram (s : State) (m : Nat) (f : Message → Message) : (modMsg s m f).clsram = s.clsram := rfl
@[simp] theorem modMsg_clPend (s : State) (m : Nat) (f : Message → Message) : (modMsg s m f).clPend = s.clPend := rfl
@[simp] theorem modMsg_joinSince (s : State) (m : Nat) (f : Message → Message) : (modMsg s m f).joinSince = s.joinSince := rfl
@[simp] theorem modMsg_joinDone (s : State) (m : Nat) (f : Message → Message) : (modMsg s m f).joinDone = s.joinDone := rfl
@[simp] theorem modMsg_wdogPrev (s : State) (m : Nat) (f : Message → Message) : (modMsg s m f).wdogPrev = s.wdogPrev := rfl
@[simp] theorem modMsg_noStall (s : State) (m : Nat) (f : Message → Message) : (modMsg s m f).noStall = s.noStall := rfl
@[simp] theorem modMsg_hbm (s : State) (m : Nat) (f : Message → Message) : (modMsg s m f).hbm = s.hbm := rfl
@[simp] theorem modMsg_regions (s : State) (m : Nat) (f : Message → Message) : (modMsg s m f).regions = s.regions := rfl
@[simp] theorem modMsg_freeBlocks (s : State) (m : Nat) (f : Message → Message) : (modMsg s m f).freeBlocks = s.freeBlocks := rfl
@[simp] theorem modMsg_hbmJobs (s : State) (m : Nat) (f : Message → Message) : (modMsg s m f).hbmJobs = s.hbmJobs := rfl
@[simp] theorem modMsg_split (s : State) (m : Nat) (f : Message → Message) : (modMsg s m f).split = s.split := rfl
@[simp] theorem modMsg_splitCmd (s : State) (m : Nat) (f : Message → Message) : (modMsg s m f).splitCmd = s.splitCmd := rfl
@[simp] theorem modMsg_ports (s : State) (m : Nat) (f : Message → Message) : (modMsg s m f).ports = s.ports := rfl
@[simp] theorem modMsg_buckets (s : State) (m : Nat) (f : Message → Message) : (modMsg s m f).buckets = s.buckets := rfl
@[simp] theorem modMsg_rxBufUsed (s : State) (m : Nat) (f : Message → Message) : (modMsg s m f).rxBufUsed = s.rxBufUsed := rfl
@[simp] theorem modMsg_tlmMask (s : State) (m : Nat) (f : Message → Message) : (modMsg s m f).tlmMask = s.tlmMask := rfl
@[simp] theorem modMsg_tlmOn (s : State) (m : Nat) (f : Message → Message) : (modMsg s m f).tlmOn = s.tlmOn := rfl
@[simp] theorem modMsg_tlmGap (s : State) (m : Nat) (f : Message → Message) : (modMsg s m f).tlmGap = s.tlmGap := rfl
@[simp] theorem modMsg_lfsr (s : State) (m : Nat) (f : Message → Message) : (modMsg s m f).lfsr = s.lfsr := rfl
@[simp] theorem modMsg_filters (s : State) (m : Nat) (f : Message → Message) : (modMsg s m f).filters = s.filters := rfl
@[simp] theorem modMsg_filtersOld (s : State) (m : Nat) (f : Message → Message) : (modMsg s m f).filtersOld = s.filtersOld := rfl
@[simp] theorem modMsg_filtersLapsed (s : State) (m : Nat) (f : Message → Message) : (modMsg s m f).filtersLapsed = s.filtersLapsed := rfl
@[simp] theorem modMsg_qps (s : State) (m : Nat) (f : Message → Message) : (modMsg s m f).qps = s.qps := rfl
@[simp] theorem modMsg_peers (s : State) (m : Nat) (f : Message → Message) : (modMsg s m f).peers = s.peers := rfl
@[simp] theorem modMsg_services (s : State) (m : Nat) (f : Message → Message) : (modMsg s m f).services = s.services := rfl
@[simp] theorem modMsg_results (s : State) (m : Nat) (f : Message → Message) : (modMsg s m f).results = s.results := rfl
@[simp] theorem modMsg_arms (s : State) (m : Nat) (f : Message → Message) : (modMsg s m f).arms = s.arms := rfl
@[simp] theorem modMsg_armStops (s : State) (m : Nat) (f : Message → Message) : (modMsg s m f).armStops = s.armStops := rfl
@[simp] theorem modMsg_errors (s : State) (m : Nat) (f : Message → Message) : (modMsg s m f).errors = s.errors := rfl
@[simp] theorem modMsg_retired (s : State) (m : Nat) (f : Message → Message) : (modMsg s m f).retired = s.retired := rfl
@[simp] theorem modMsg_byHand (s : State) (m : Nat) (f : Message → Message) : (modMsg s m f).byHand = s.byHand := rfl
@[simp] theorem modMsg_shifts (s : State) (m : Nat) (f : Message → Message) : (modMsg s m f).shifts = s.shifts := rfl
@[simp] theorem modMsg_shiftPend (s : State) (m : Nat) (f : Message → Message) : (modMsg s m f).shiftPend = s.shiftPend := rfl
@[simp] theorem modMsg_history (s : State) (m : Nat) (f : Message → Message) : (modMsg s m f).history = s.history := rfl
@[simp] theorem modMsg_histLost (s : State) (m : Nat) (f : Message → Message) : (modMsg s m f).histLost = s.histLost := rfl
@[simp] theorem modMsg_witness (s : State) (m : Nat) (f : Message → Message) : (modMsg s m f).witness = s.witness := rfl
@[simp] theorem modMsg_lanesUsed (s : State) (m : Nat) (f : Message → Message) : (modMsg s m f).lanesUsed = s.lanesUsed := rfl
@[simp] theorem modMsg_correctedOnce (s : State) (m : Nat) (f : Message → Message) : (modMsg s m f).correctedOnce = s.correctedOnce := rfl
@[simp] theorem modMsg_remaps (s : State) (m : Nat) (f : Message → Message) : (modMsg s m f).remaps = s.remaps := rfl
@[simp] theorem modMsg_pllStandby (s : State) (m : Nat) (f : Message → Message) : (modMsg s m f).pllStandby = s.pllStandby := rfl
@[simp] theorem modMsg_dieUp (s : State) (m : Nat) (f : Message → Message) : (modMsg s m f).dieUp = s.dieUp := rfl
@[simp] theorem modMsg_pwren (s : State) (m : Nat) (f : Message → Message) : (modMsg s m f).pwren = s.pwren := rfl
@[simp] theorem modMsg_dieReturn (s : State) (m : Nat) (f : Message → Message) : (modMsg s m f).dieReturn = s.dieReturn := rfl
@[simp] theorem modMsg_dieRail (s : State) (m : Nat) (f : Message → Message) : (modMsg s m f).dieRail = s.dieRail := rfl
@[simp] theorem modMsg_dieLost (s : State) (m : Nat) (f : Message → Message) : (modMsg s m f).dieLost = s.dieLost := rfl
@[simp] theorem modMsg_temps (s : State) (m : Nat) (f : Message → Message) : (modMsg s m f).temps = s.temps := rfl
@[simp] theorem modMsg_hotNow (s : State) (m : Nat) (f : Message → Message) : (modMsg s m f).hotNow = s.hotNow := rfl
@[simp] theorem modMsg_hotRuns (s : State) (m : Nat) (f : Message → Message) : (modMsg s m f).hotRuns = s.hotRuns := rfl
@[simp] theorem modMsg_alert (s : State) (m : Nat) (f : Message → Message) : (modMsg s m f).alert = s.alert := rfl
@[simp] theorem modMsg_pkgShdn (s : State) (m : Nat) (f : Message → Message) : (modMsg s m f).pkgShdn = s.pkgShdn := rfl
@[simp] theorem modMsg_iodLost (s : State) (m : Nat) (f : Message → Message) : (modMsg s m f).iodLost = s.iodLost := rfl
@[simp] theorem modMsg_poweredDown (s : State) (m : Nat) (f : Message → Message) : (modMsg s m f).poweredDown = s.poweredDown := rfl
@[simp] theorem modMsg_mgmt (s : State) (m : Nat) (f : Message → Message) : (modMsg s m f).mgmt = s.mgmt := rfl

@[simp] theorem modQp_pending (s : State) (i : Nat) (f : Qp → Qp) : (modQp s i f).pending = s.pending := rfl
@[simp] theorem modQp_now (s : State) (i : Nat) (f : Qp → Qp) : (modQp s i f).now = s.now := rfl
@[simp] theorem modQp_fresh (s : State) (i : Nat) (f : Qp → Qp) : (modQp s i f).fresh = s.fresh := rfl
@[simp] theorem modQp_nextId (s : State) (i : Nat) (f : Qp → Qp) : (modQp s i f).nextId = s.nextId := rfl
@[simp] theorem modQp_out (s : State) (i : Nat) (f : Qp → Qp) : (modQp s i f).out = s.out := rfl
@[simp] theorem modQp_resetAt (s : State) (i : Nat) (f : Qp → Qp) : (modQp s i f).resetAt = s.resetAt := rfl
@[simp] theorem modQp_regs (s : State) (i : Nat) (f : Qp → Qp) : (modQp s i f).regs = s.regs := rfl
@[simp] theorem modQp_tb (s : State) (i : Nat) (f : Qp → Qp) : (modQp s i f).tb = s.tb := rfl
@[simp] theorem modQp_links (s : State) (i : Nat) (f : Qp → Qp) : (modQp s i f).links = s.links := rfl
@[simp] theorem modQp_rings (s : State) (i : Nat) (f : Qp → Qp) : (modQp s i f).rings = s.rings := rfl
@[simp] theorem modQp_cmds (s : State) (i : Nat) (f : Qp → Qp) : (modQp s i f).cmds = s.cmds := rfl
@[simp] theorem modQp_rrLast (s : State) (i : Nat) (f : Qp → Qp) : (modQp s i f).rrLast = s.rrLast := rfl
@[simp] theorem modQp_srvLast (s : State) (i : Nat) (f : Qp → Qp) : (modQp s i f).srvLast = s.srvLast := rfl
@[simp] theorem modQp_srvQps (s : State) (i : Nat) (f : Qp → Qp) : (modQp s i f).srvQps = s.srvQps := rfl
@[simp] theorem modQp_setCycle (s : State) (i : Nat) (f : Qp → Qp) : (modQp s i f).setCycle = s.setCycle := rfl
@[simp] theorem modQp_setBits (s : State) (i : Nat) (f : Qp → Qp) : (modQp s i f).setBits = s.setBits := rfl
@[simp] theorem modQp_mrs (s : State) (i : Nat) (f : Qp → Qp) : (modQp s i f).mrs = s.mrs := rfl
@[simp] theorem modQp_instances (s : State) (i : Nat) (f : Qp → Qp) : (modQp s i f).instances = s.instances := rfl
@[simp] theorem modQp_clusters (s : State) (i : Nat) (f : Qp → Qp) : (modQp s i f).clusters = s.clusters := rfl
@[simp] theorem modQp_units (s : State) (i : Nat) (f : Qp → Qp) : (modQp s i f).units = s.units := rfl
@[simp] theorem modQp_replySeq (s : State) (i : Nat) (f : Qp → Qp) : (modQp s i f).replySeq = s.replySeq := rfl
@[simp] theorem modQp_bindCounters (s : State) (i : Nat) (f : Qp → Qp) : (modQp s i f).bindCounters = s.bindCounters := rfl
@[simp] theorem modQp_tables (s : State) (i : Nat) (f : Qp → Qp) : (modQp s i f).tables = s.tables := rfl
@[simp] theorem modQp_tablesOld (s : State) (i : Nat) (f : Qp → Qp) : (modQp s i f).tablesOld = s.tablesOld := rfl
@[simp] theorem modQp_msgs (s : State) (i : Nat) (f : Qp → Qp) : (modQp s i f).msgs = s.msgs := rfl
@[simp] theorem modQp_cores (s : State) (i : Nat) (f : Qp → Qp) : (modQp s i f).cores = s.cores := rfl
@[simp] theorem modQp_inqs (s : State) (i : Nat) (f : Qp → Qp) : (modQp s i f).inqs = s.inqs := rfl
@[simp] theorem modQp_xfifos (s : State) (i : Nat) (f : Qp → Qp) : (modQp s i f).xfifos = s.xfifos := rfl
@[simp] theorem modQp_coreFired (s : State) (i : Nat) (f : Qp → Qp) : (modQp s i f).coreFired = s.coreFired := rfl
@[simp] theorem modQp_exitSlots (s : State) (i : Nat) (f : Qp → Qp) : (modQp s i f).exitSlots = s.exitSlots := rfl
@[simp] theorem modQp_csram (s : State) (i : Nat) (f : Qp → Qp) : (modQp s i f).csram = s.csram := rfl
@[simp] theorem modQp_clsram (s : State) (i : Nat) (f : Qp → Qp) : (modQp s i f).clsram = s.clsram := rfl
@[simp] theorem modQp_clPend (s : State) (i : Nat) (f : Qp → Qp) : (modQp s i f).clPend = s.clPend := rfl
@[simp] theorem modQp_joinSince (s : State) (i : Nat) (f : Qp → Qp) : (modQp s i f).joinSince = s.joinSince := rfl
@[simp] theorem modQp_joinDone (s : State) (i : Nat) (f : Qp → Qp) : (modQp s i f).joinDone = s.joinDone := rfl
@[simp] theorem modQp_wdogPrev (s : State) (i : Nat) (f : Qp → Qp) : (modQp s i f).wdogPrev = s.wdogPrev := rfl
@[simp] theorem modQp_noStall (s : State) (i : Nat) (f : Qp → Qp) : (modQp s i f).noStall = s.noStall := rfl
@[simp] theorem modQp_hbm (s : State) (i : Nat) (f : Qp → Qp) : (modQp s i f).hbm = s.hbm := rfl
@[simp] theorem modQp_regions (s : State) (i : Nat) (f : Qp → Qp) : (modQp s i f).regions = s.regions := rfl
@[simp] theorem modQp_freeBlocks (s : State) (i : Nat) (f : Qp → Qp) : (modQp s i f).freeBlocks = s.freeBlocks := rfl
@[simp] theorem modQp_hbmJobs (s : State) (i : Nat) (f : Qp → Qp) : (modQp s i f).hbmJobs = s.hbmJobs := rfl
@[simp] theorem modQp_split (s : State) (i : Nat) (f : Qp → Qp) : (modQp s i f).split = s.split := rfl
@[simp] theorem modQp_splitCmd (s : State) (i : Nat) (f : Qp → Qp) : (modQp s i f).splitCmd = s.splitCmd := rfl
@[simp] theorem modQp_ports (s : State) (i : Nat) (f : Qp → Qp) : (modQp s i f).ports = s.ports := rfl
@[simp] theorem modQp_buckets (s : State) (i : Nat) (f : Qp → Qp) : (modQp s i f).buckets = s.buckets := rfl
@[simp] theorem modQp_rxBufUsed (s : State) (i : Nat) (f : Qp → Qp) : (modQp s i f).rxBufUsed = s.rxBufUsed := rfl
@[simp] theorem modQp_tlmMask (s : State) (i : Nat) (f : Qp → Qp) : (modQp s i f).tlmMask = s.tlmMask := rfl
@[simp] theorem modQp_tlmOn (s : State) (i : Nat) (f : Qp → Qp) : (modQp s i f).tlmOn = s.tlmOn := rfl
@[simp] theorem modQp_tlmGap (s : State) (i : Nat) (f : Qp → Qp) : (modQp s i f).tlmGap = s.tlmGap := rfl
@[simp] theorem modQp_lfsr (s : State) (i : Nat) (f : Qp → Qp) : (modQp s i f).lfsr = s.lfsr := rfl
@[simp] theorem modQp_filters (s : State) (i : Nat) (f : Qp → Qp) : (modQp s i f).filters = s.filters := rfl
@[simp] theorem modQp_filtersOld (s : State) (i : Nat) (f : Qp → Qp) : (modQp s i f).filtersOld = s.filtersOld := rfl
@[simp] theorem modQp_filtersLapsed (s : State) (i : Nat) (f : Qp → Qp) : (modQp s i f).filtersLapsed = s.filtersLapsed := rfl
@[simp] theorem modQp_qps (s : State) (i : Nat) (f : Qp → Qp) : (modQp s i f).qps = tmod s.qps i f := rfl
@[simp] theorem modQp_peers (s : State) (i : Nat) (f : Qp → Qp) : (modQp s i f).peers = s.peers := rfl
@[simp] theorem modQp_services (s : State) (i : Nat) (f : Qp → Qp) : (modQp s i f).services = s.services := rfl
@[simp] theorem modQp_results (s : State) (i : Nat) (f : Qp → Qp) : (modQp s i f).results = s.results := rfl
@[simp] theorem modQp_arms (s : State) (i : Nat) (f : Qp → Qp) : (modQp s i f).arms = s.arms := rfl
@[simp] theorem modQp_armStops (s : State) (i : Nat) (f : Qp → Qp) : (modQp s i f).armStops = s.armStops := rfl
@[simp] theorem modQp_errors (s : State) (i : Nat) (f : Qp → Qp) : (modQp s i f).errors = s.errors := rfl
@[simp] theorem modQp_retired (s : State) (i : Nat) (f : Qp → Qp) : (modQp s i f).retired = s.retired := rfl
@[simp] theorem modQp_byHand (s : State) (i : Nat) (f : Qp → Qp) : (modQp s i f).byHand = s.byHand := rfl
@[simp] theorem modQp_shifts (s : State) (i : Nat) (f : Qp → Qp) : (modQp s i f).shifts = s.shifts := rfl
@[simp] theorem modQp_shiftPend (s : State) (i : Nat) (f : Qp → Qp) : (modQp s i f).shiftPend = s.shiftPend := rfl
@[simp] theorem modQp_history (s : State) (i : Nat) (f : Qp → Qp) : (modQp s i f).history = s.history := rfl
@[simp] theorem modQp_histLost (s : State) (i : Nat) (f : Qp → Qp) : (modQp s i f).histLost = s.histLost := rfl
@[simp] theorem modQp_witness (s : State) (i : Nat) (f : Qp → Qp) : (modQp s i f).witness = s.witness := rfl
@[simp] theorem modQp_lanesUsed (s : State) (i : Nat) (f : Qp → Qp) : (modQp s i f).lanesUsed = s.lanesUsed := rfl
@[simp] theorem modQp_correctedOnce (s : State) (i : Nat) (f : Qp → Qp) : (modQp s i f).correctedOnce = s.correctedOnce := rfl
@[simp] theorem modQp_remaps (s : State) (i : Nat) (f : Qp → Qp) : (modQp s i f).remaps = s.remaps := rfl
@[simp] theorem modQp_pllStandby (s : State) (i : Nat) (f : Qp → Qp) : (modQp s i f).pllStandby = s.pllStandby := rfl
@[simp] theorem modQp_dieUp (s : State) (i : Nat) (f : Qp → Qp) : (modQp s i f).dieUp = s.dieUp := rfl
@[simp] theorem modQp_pwren (s : State) (i : Nat) (f : Qp → Qp) : (modQp s i f).pwren = s.pwren := rfl
@[simp] theorem modQp_dieReturn (s : State) (i : Nat) (f : Qp → Qp) : (modQp s i f).dieReturn = s.dieReturn := rfl
@[simp] theorem modQp_dieRail (s : State) (i : Nat) (f : Qp → Qp) : (modQp s i f).dieRail = s.dieRail := rfl
@[simp] theorem modQp_dieLost (s : State) (i : Nat) (f : Qp → Qp) : (modQp s i f).dieLost = s.dieLost := rfl
@[simp] theorem modQp_temps (s : State) (i : Nat) (f : Qp → Qp) : (modQp s i f).temps = s.temps := rfl
@[simp] theorem modQp_hotNow (s : State) (i : Nat) (f : Qp → Qp) : (modQp s i f).hotNow = s.hotNow := rfl
@[simp] theorem modQp_hotRuns (s : State) (i : Nat) (f : Qp → Qp) : (modQp s i f).hotRuns = s.hotRuns := rfl
@[simp] theorem modQp_alert (s : State) (i : Nat) (f : Qp → Qp) : (modQp s i f).alert = s.alert := rfl
@[simp] theorem modQp_pkgShdn (s : State) (i : Nat) (f : Qp → Qp) : (modQp s i f).pkgShdn = s.pkgShdn := rfl
@[simp] theorem modQp_iodLost (s : State) (i : Nat) (f : Qp → Qp) : (modQp s i f).iodLost = s.iodLost := rfl
@[simp] theorem modQp_poweredDown (s : State) (i : Nat) (f : Qp → Qp) : (modQp s i f).poweredDown = s.poweredDown := rfl
@[simp] theorem modQp_mgmt (s : State) (i : Nat) (f : Qp → Qp) : (modQp s i f).mgmt = s.mgmt := rfl

@[simp] theorem modRing_pending (s : State) (k : Nat) (f : Ring → Ring) : (modRing s k f).pending = s.pending := rfl
@[simp] theorem modRing_now (s : State) (k : Nat) (f : Ring → Ring) : (modRing s k f).now = s.now := rfl
@[simp] theorem modRing_fresh (s : State) (k : Nat) (f : Ring → Ring) : (modRing s k f).fresh = s.fresh := rfl
@[simp] theorem modRing_nextId (s : State) (k : Nat) (f : Ring → Ring) : (modRing s k f).nextId = s.nextId := rfl
@[simp] theorem modRing_out (s : State) (k : Nat) (f : Ring → Ring) : (modRing s k f).out = s.out := rfl
@[simp] theorem modRing_resetAt (s : State) (k : Nat) (f : Ring → Ring) : (modRing s k f).resetAt = s.resetAt := rfl
@[simp] theorem modRing_regs (s : State) (k : Nat) (f : Ring → Ring) : (modRing s k f).regs = s.regs := rfl
@[simp] theorem modRing_tb (s : State) (k : Nat) (f : Ring → Ring) : (modRing s k f).tb = s.tb := rfl
@[simp] theorem modRing_links (s : State) (k : Nat) (f : Ring → Ring) : (modRing s k f).links = s.links := rfl
@[simp] theorem modRing_rings (s : State) (k : Nat) (f : Ring → Ring) : (modRing s k f).rings = tmod s.rings k f := rfl
@[simp] theorem modRing_cmds (s : State) (k : Nat) (f : Ring → Ring) : (modRing s k f).cmds = s.cmds := rfl
@[simp] theorem modRing_rrLast (s : State) (k : Nat) (f : Ring → Ring) : (modRing s k f).rrLast = s.rrLast := rfl
@[simp] theorem modRing_srvLast (s : State) (k : Nat) (f : Ring → Ring) : (modRing s k f).srvLast = s.srvLast := rfl
@[simp] theorem modRing_srvQps (s : State) (k : Nat) (f : Ring → Ring) : (modRing s k f).srvQps = s.srvQps := rfl
@[simp] theorem modRing_setCycle (s : State) (k : Nat) (f : Ring → Ring) : (modRing s k f).setCycle = s.setCycle := rfl
@[simp] theorem modRing_setBits (s : State) (k : Nat) (f : Ring → Ring) : (modRing s k f).setBits = s.setBits := rfl
@[simp] theorem modRing_mrs (s : State) (k : Nat) (f : Ring → Ring) : (modRing s k f).mrs = s.mrs := rfl
@[simp] theorem modRing_instances (s : State) (k : Nat) (f : Ring → Ring) : (modRing s k f).instances = s.instances := rfl
@[simp] theorem modRing_clusters (s : State) (k : Nat) (f : Ring → Ring) : (modRing s k f).clusters = s.clusters := rfl
@[simp] theorem modRing_units (s : State) (k : Nat) (f : Ring → Ring) : (modRing s k f).units = s.units := rfl
@[simp] theorem modRing_replySeq (s : State) (k : Nat) (f : Ring → Ring) : (modRing s k f).replySeq = s.replySeq := rfl
@[simp] theorem modRing_bindCounters (s : State) (k : Nat) (f : Ring → Ring) : (modRing s k f).bindCounters = s.bindCounters := rfl
@[simp] theorem modRing_tables (s : State) (k : Nat) (f : Ring → Ring) : (modRing s k f).tables = s.tables := rfl
@[simp] theorem modRing_tablesOld (s : State) (k : Nat) (f : Ring → Ring) : (modRing s k f).tablesOld = s.tablesOld := rfl
@[simp] theorem modRing_msgs (s : State) (k : Nat) (f : Ring → Ring) : (modRing s k f).msgs = s.msgs := rfl
@[simp] theorem modRing_cores (s : State) (k : Nat) (f : Ring → Ring) : (modRing s k f).cores = s.cores := rfl
@[simp] theorem modRing_inqs (s : State) (k : Nat) (f : Ring → Ring) : (modRing s k f).inqs = s.inqs := rfl
@[simp] theorem modRing_xfifos (s : State) (k : Nat) (f : Ring → Ring) : (modRing s k f).xfifos = s.xfifos := rfl
@[simp] theorem modRing_coreFired (s : State) (k : Nat) (f : Ring → Ring) : (modRing s k f).coreFired = s.coreFired := rfl
@[simp] theorem modRing_exitSlots (s : State) (k : Nat) (f : Ring → Ring) : (modRing s k f).exitSlots = s.exitSlots := rfl
@[simp] theorem modRing_csram (s : State) (k : Nat) (f : Ring → Ring) : (modRing s k f).csram = s.csram := rfl
@[simp] theorem modRing_clsram (s : State) (k : Nat) (f : Ring → Ring) : (modRing s k f).clsram = s.clsram := rfl
@[simp] theorem modRing_clPend (s : State) (k : Nat) (f : Ring → Ring) : (modRing s k f).clPend = s.clPend := rfl
@[simp] theorem modRing_joinSince (s : State) (k : Nat) (f : Ring → Ring) : (modRing s k f).joinSince = s.joinSince := rfl
@[simp] theorem modRing_joinDone (s : State) (k : Nat) (f : Ring → Ring) : (modRing s k f).joinDone = s.joinDone := rfl
@[simp] theorem modRing_wdogPrev (s : State) (k : Nat) (f : Ring → Ring) : (modRing s k f).wdogPrev = s.wdogPrev := rfl
@[simp] theorem modRing_noStall (s : State) (k : Nat) (f : Ring → Ring) : (modRing s k f).noStall = s.noStall := rfl
@[simp] theorem modRing_hbm (s : State) (k : Nat) (f : Ring → Ring) : (modRing s k f).hbm = s.hbm := rfl
@[simp] theorem modRing_regions (s : State) (k : Nat) (f : Ring → Ring) : (modRing s k f).regions = s.regions := rfl
@[simp] theorem modRing_freeBlocks (s : State) (k : Nat) (f : Ring → Ring) : (modRing s k f).freeBlocks = s.freeBlocks := rfl
@[simp] theorem modRing_hbmJobs (s : State) (k : Nat) (f : Ring → Ring) : (modRing s k f).hbmJobs = s.hbmJobs := rfl
@[simp] theorem modRing_split (s : State) (k : Nat) (f : Ring → Ring) : (modRing s k f).split = s.split := rfl
@[simp] theorem modRing_splitCmd (s : State) (k : Nat) (f : Ring → Ring) : (modRing s k f).splitCmd = s.splitCmd := rfl
@[simp] theorem modRing_ports (s : State) (k : Nat) (f : Ring → Ring) : (modRing s k f).ports = s.ports := rfl
@[simp] theorem modRing_buckets (s : State) (k : Nat) (f : Ring → Ring) : (modRing s k f).buckets = s.buckets := rfl
@[simp] theorem modRing_rxBufUsed (s : State) (k : Nat) (f : Ring → Ring) : (modRing s k f).rxBufUsed = s.rxBufUsed := rfl
@[simp] theorem modRing_tlmMask (s : State) (k : Nat) (f : Ring → Ring) : (modRing s k f).tlmMask = s.tlmMask := rfl
@[simp] theorem modRing_tlmOn (s : State) (k : Nat) (f : Ring → Ring) : (modRing s k f).tlmOn = s.tlmOn := rfl
@[simp] theorem modRing_tlmGap (s : State) (k : Nat) (f : Ring → Ring) : (modRing s k f).tlmGap = s.tlmGap := rfl
@[simp] theorem modRing_lfsr (s : State) (k : Nat) (f : Ring → Ring) : (modRing s k f).lfsr = s.lfsr := rfl
@[simp] theorem modRing_filters (s : State) (k : Nat) (f : Ring → Ring) : (modRing s k f).filters = s.filters := rfl
@[simp] theorem modRing_filtersOld (s : State) (k : Nat) (f : Ring → Ring) : (modRing s k f).filtersOld = s.filtersOld := rfl
@[simp] theorem modRing_filtersLapsed (s : State) (k : Nat) (f : Ring → Ring) : (modRing s k f).filtersLapsed = s.filtersLapsed := rfl
@[simp] theorem modRing_qps (s : State) (k : Nat) (f : Ring → Ring) : (modRing s k f).qps = s.qps := rfl
@[simp] theorem modRing_peers (s : State) (k : Nat) (f : Ring → Ring) : (modRing s k f).peers = s.peers := rfl
@[simp] theorem modRing_services (s : State) (k : Nat) (f : Ring → Ring) : (modRing s k f).services = s.services := rfl
@[simp] theorem modRing_results (s : State) (k : Nat) (f : Ring → Ring) : (modRing s k f).results = s.results := rfl
@[simp] theorem modRing_arms (s : State) (k : Nat) (f : Ring → Ring) : (modRing s k f).arms = s.arms := rfl
@[simp] theorem modRing_armStops (s : State) (k : Nat) (f : Ring → Ring) : (modRing s k f).armStops = s.armStops := rfl
@[simp] theorem modRing_errors (s : State) (k : Nat) (f : Ring → Ring) : (modRing s k f).errors = s.errors := rfl
@[simp] theorem modRing_retired (s : State) (k : Nat) (f : Ring → Ring) : (modRing s k f).retired = s.retired := rfl
@[simp] theorem modRing_byHand (s : State) (k : Nat) (f : Ring → Ring) : (modRing s k f).byHand = s.byHand := rfl
@[simp] theorem modRing_shifts (s : State) (k : Nat) (f : Ring → Ring) : (modRing s k f).shifts = s.shifts := rfl
@[simp] theorem modRing_shiftPend (s : State) (k : Nat) (f : Ring → Ring) : (modRing s k f).shiftPend = s.shiftPend := rfl
@[simp] theorem modRing_history (s : State) (k : Nat) (f : Ring → Ring) : (modRing s k f).history = s.history := rfl
@[simp] theorem modRing_histLost (s : State) (k : Nat) (f : Ring → Ring) : (modRing s k f).histLost = s.histLost := rfl
@[simp] theorem modRing_witness (s : State) (k : Nat) (f : Ring → Ring) : (modRing s k f).witness = s.witness := rfl
@[simp] theorem modRing_lanesUsed (s : State) (k : Nat) (f : Ring → Ring) : (modRing s k f).lanesUsed = s.lanesUsed := rfl
@[simp] theorem modRing_correctedOnce (s : State) (k : Nat) (f : Ring → Ring) : (modRing s k f).correctedOnce = s.correctedOnce := rfl
@[simp] theorem modRing_remaps (s : State) (k : Nat) (f : Ring → Ring) : (modRing s k f).remaps = s.remaps := rfl
@[simp] theorem modRing_pllStandby (s : State) (k : Nat) (f : Ring → Ring) : (modRing s k f).pllStandby = s.pllStandby := rfl
@[simp] theorem modRing_dieUp (s : State) (k : Nat) (f : Ring → Ring) : (modRing s k f).dieUp = s.dieUp := rfl
@[simp] theorem modRing_pwren (s : State) (k : Nat) (f : Ring → Ring) : (modRing s k f).pwren = s.pwren := rfl
@[simp] theorem modRing_dieReturn (s : State) (k : Nat) (f : Ring → Ring) : (modRing s k f).dieReturn = s.dieReturn := rfl
@[simp] theorem modRing_dieRail (s : State) (k : Nat) (f : Ring → Ring) : (modRing s k f).dieRail = s.dieRail := rfl
@[simp] theorem modRing_dieLost (s : State) (k : Nat) (f : Ring → Ring) : (modRing s k f).dieLost = s.dieLost := rfl
@[simp] theorem modRing_temps (s : State) (k : Nat) (f : Ring → Ring) : (modRing s k f).temps = s.temps := rfl
@[simp] theorem modRing_hotNow (s : State) (k : Nat) (f : Ring → Ring) : (modRing s k f).hotNow = s.hotNow := rfl
@[simp] theorem modRing_hotRuns (s : State) (k : Nat) (f : Ring → Ring) : (modRing s k f).hotRuns = s.hotRuns := rfl
@[simp] theorem modRing_alert (s : State) (k : Nat) (f : Ring → Ring) : (modRing s k f).alert = s.alert := rfl
@[simp] theorem modRing_pkgShdn (s : State) (k : Nat) (f : Ring → Ring) : (modRing s k f).pkgShdn = s.pkgShdn := rfl
@[simp] theorem modRing_iodLost (s : State) (k : Nat) (f : Ring → Ring) : (modRing s k f).iodLost = s.iodLost := rfl
@[simp] theorem modRing_poweredDown (s : State) (k : Nat) (f : Ring → Ring) : (modRing s k f).poweredDown = s.poweredDown := rfl
@[simp] theorem modRing_mgmt (s : State) (k : Nat) (f : Ring → Ring) : (modRing s k f).mgmt = s.mgmt := rfl

@[simp] theorem modCluster_pending (s : State) (c : Nat) (f : Cluster → Cluster) : (modCluster s c f).pending = s.pending := rfl
@[simp] theorem modCluster_now (s : State) (c : Nat) (f : Cluster → Cluster) : (modCluster s c f).now = s.now := rfl
@[simp] theorem modCluster_fresh (s : State) (c : Nat) (f : Cluster → Cluster) : (modCluster s c f).fresh = s.fresh := rfl
@[simp] theorem modCluster_nextId (s : State) (c : Nat) (f : Cluster → Cluster) : (modCluster s c f).nextId = s.nextId := rfl
@[simp] theorem modCluster_out (s : State) (c : Nat) (f : Cluster → Cluster) : (modCluster s c f).out = s.out := rfl
@[simp] theorem modCluster_resetAt (s : State) (c : Nat) (f : Cluster → Cluster) : (modCluster s c f).resetAt = s.resetAt := rfl
@[simp] theorem modCluster_regs (s : State) (c : Nat) (f : Cluster → Cluster) : (modCluster s c f).regs = s.regs := rfl
@[simp] theorem modCluster_tb (s : State) (c : Nat) (f : Cluster → Cluster) : (modCluster s c f).tb = s.tb := rfl
@[simp] theorem modCluster_links (s : State) (c : Nat) (f : Cluster → Cluster) : (modCluster s c f).links = s.links := rfl
@[simp] theorem modCluster_rings (s : State) (c : Nat) (f : Cluster → Cluster) : (modCluster s c f).rings = s.rings := rfl
@[simp] theorem modCluster_cmds (s : State) (c : Nat) (f : Cluster → Cluster) : (modCluster s c f).cmds = s.cmds := rfl
@[simp] theorem modCluster_rrLast (s : State) (c : Nat) (f : Cluster → Cluster) : (modCluster s c f).rrLast = s.rrLast := rfl
@[simp] theorem modCluster_srvLast (s : State) (c : Nat) (f : Cluster → Cluster) : (modCluster s c f).srvLast = s.srvLast := rfl
@[simp] theorem modCluster_srvQps (s : State) (c : Nat) (f : Cluster → Cluster) : (modCluster s c f).srvQps = s.srvQps := rfl
@[simp] theorem modCluster_setCycle (s : State) (c : Nat) (f : Cluster → Cluster) : (modCluster s c f).setCycle = s.setCycle := rfl
@[simp] theorem modCluster_setBits (s : State) (c : Nat) (f : Cluster → Cluster) : (modCluster s c f).setBits = s.setBits := rfl
@[simp] theorem modCluster_mrs (s : State) (c : Nat) (f : Cluster → Cluster) : (modCluster s c f).mrs = s.mrs := rfl
@[simp] theorem modCluster_instances (s : State) (c : Nat) (f : Cluster → Cluster) : (modCluster s c f).instances = s.instances := rfl
@[simp] theorem modCluster_clusters (s : State) (c : Nat) (f : Cluster → Cluster) : (modCluster s c f).clusters = tmodD s.clusters c {} f := rfl
@[simp] theorem modCluster_units (s : State) (c : Nat) (f : Cluster → Cluster) : (modCluster s c f).units = s.units := rfl
@[simp] theorem modCluster_replySeq (s : State) (c : Nat) (f : Cluster → Cluster) : (modCluster s c f).replySeq = s.replySeq := rfl
@[simp] theorem modCluster_bindCounters (s : State) (c : Nat) (f : Cluster → Cluster) : (modCluster s c f).bindCounters = s.bindCounters := rfl
@[simp] theorem modCluster_tables (s : State) (c : Nat) (f : Cluster → Cluster) : (modCluster s c f).tables = s.tables := rfl
@[simp] theorem modCluster_tablesOld (s : State) (c : Nat) (f : Cluster → Cluster) : (modCluster s c f).tablesOld = s.tablesOld := rfl
@[simp] theorem modCluster_msgs (s : State) (c : Nat) (f : Cluster → Cluster) : (modCluster s c f).msgs = s.msgs := rfl
@[simp] theorem modCluster_cores (s : State) (c : Nat) (f : Cluster → Cluster) : (modCluster s c f).cores = s.cores := rfl
@[simp] theorem modCluster_inqs (s : State) (c : Nat) (f : Cluster → Cluster) : (modCluster s c f).inqs = s.inqs := rfl
@[simp] theorem modCluster_xfifos (s : State) (c : Nat) (f : Cluster → Cluster) : (modCluster s c f).xfifos = s.xfifos := rfl
@[simp] theorem modCluster_coreFired (s : State) (c : Nat) (f : Cluster → Cluster) : (modCluster s c f).coreFired = s.coreFired := rfl
@[simp] theorem modCluster_exitSlots (s : State) (c : Nat) (f : Cluster → Cluster) : (modCluster s c f).exitSlots = s.exitSlots := rfl
@[simp] theorem modCluster_csram (s : State) (c : Nat) (f : Cluster → Cluster) : (modCluster s c f).csram = s.csram := rfl
@[simp] theorem modCluster_clsram (s : State) (c : Nat) (f : Cluster → Cluster) : (modCluster s c f).clsram = s.clsram := rfl
@[simp] theorem modCluster_clPend (s : State) (c : Nat) (f : Cluster → Cluster) : (modCluster s c f).clPend = s.clPend := rfl
@[simp] theorem modCluster_joinSince (s : State) (c : Nat) (f : Cluster → Cluster) : (modCluster s c f).joinSince = s.joinSince := rfl
@[simp] theorem modCluster_joinDone (s : State) (c : Nat) (f : Cluster → Cluster) : (modCluster s c f).joinDone = s.joinDone := rfl
@[simp] theorem modCluster_wdogPrev (s : State) (c : Nat) (f : Cluster → Cluster) : (modCluster s c f).wdogPrev = s.wdogPrev := rfl
@[simp] theorem modCluster_noStall (s : State) (c : Nat) (f : Cluster → Cluster) : (modCluster s c f).noStall = s.noStall := rfl
@[simp] theorem modCluster_hbm (s : State) (c : Nat) (f : Cluster → Cluster) : (modCluster s c f).hbm = s.hbm := rfl
@[simp] theorem modCluster_regions (s : State) (c : Nat) (f : Cluster → Cluster) : (modCluster s c f).regions = s.regions := rfl
@[simp] theorem modCluster_freeBlocks (s : State) (c : Nat) (f : Cluster → Cluster) : (modCluster s c f).freeBlocks = s.freeBlocks := rfl
@[simp] theorem modCluster_hbmJobs (s : State) (c : Nat) (f : Cluster → Cluster) : (modCluster s c f).hbmJobs = s.hbmJobs := rfl
@[simp] theorem modCluster_split (s : State) (c : Nat) (f : Cluster → Cluster) : (modCluster s c f).split = s.split := rfl
@[simp] theorem modCluster_splitCmd (s : State) (c : Nat) (f : Cluster → Cluster) : (modCluster s c f).splitCmd = s.splitCmd := rfl
@[simp] theorem modCluster_ports (s : State) (c : Nat) (f : Cluster → Cluster) : (modCluster s c f).ports = s.ports := rfl
@[simp] theorem modCluster_buckets (s : State) (c : Nat) (f : Cluster → Cluster) : (modCluster s c f).buckets = s.buckets := rfl
@[simp] theorem modCluster_rxBufUsed (s : State) (c : Nat) (f : Cluster → Cluster) : (modCluster s c f).rxBufUsed = s.rxBufUsed := rfl
@[simp] theorem modCluster_tlmMask (s : State) (c : Nat) (f : Cluster → Cluster) : (modCluster s c f).tlmMask = s.tlmMask := rfl
@[simp] theorem modCluster_tlmOn (s : State) (c : Nat) (f : Cluster → Cluster) : (modCluster s c f).tlmOn = s.tlmOn := rfl
@[simp] theorem modCluster_tlmGap (s : State) (c : Nat) (f : Cluster → Cluster) : (modCluster s c f).tlmGap = s.tlmGap := rfl
@[simp] theorem modCluster_lfsr (s : State) (c : Nat) (f : Cluster → Cluster) : (modCluster s c f).lfsr = s.lfsr := rfl
@[simp] theorem modCluster_filters (s : State) (c : Nat) (f : Cluster → Cluster) : (modCluster s c f).filters = s.filters := rfl
@[simp] theorem modCluster_filtersOld (s : State) (c : Nat) (f : Cluster → Cluster) : (modCluster s c f).filtersOld = s.filtersOld := rfl
@[simp] theorem modCluster_filtersLapsed (s : State) (c : Nat) (f : Cluster → Cluster) : (modCluster s c f).filtersLapsed = s.filtersLapsed := rfl
@[simp] theorem modCluster_qps (s : State) (c : Nat) (f : Cluster → Cluster) : (modCluster s c f).qps = s.qps := rfl
@[simp] theorem modCluster_peers (s : State) (c : Nat) (f : Cluster → Cluster) : (modCluster s c f).peers = s.peers := rfl
@[simp] theorem modCluster_services (s : State) (c : Nat) (f : Cluster → Cluster) : (modCluster s c f).services = s.services := rfl
@[simp] theorem modCluster_results (s : State) (c : Nat) (f : Cluster → Cluster) : (modCluster s c f).results = s.results := rfl
@[simp] theorem modCluster_arms (s : State) (c : Nat) (f : Cluster → Cluster) : (modCluster s c f).arms = s.arms := rfl
@[simp] theorem modCluster_armStops (s : State) (c : Nat) (f : Cluster → Cluster) : (modCluster s c f).armStops = s.armStops := rfl
@[simp] theorem modCluster_errors (s : State) (c : Nat) (f : Cluster → Cluster) : (modCluster s c f).errors = s.errors := rfl
@[simp] theorem modCluster_retired (s : State) (c : Nat) (f : Cluster → Cluster) : (modCluster s c f).retired = s.retired := rfl
@[simp] theorem modCluster_byHand (s : State) (c : Nat) (f : Cluster → Cluster) : (modCluster s c f).byHand = s.byHand := rfl
@[simp] theorem modCluster_shifts (s : State) (c : Nat) (f : Cluster → Cluster) : (modCluster s c f).shifts = s.shifts := rfl
@[simp] theorem modCluster_shiftPend (s : State) (c : Nat) (f : Cluster → Cluster) : (modCluster s c f).shiftPend = s.shiftPend := rfl
@[simp] theorem modCluster_history (s : State) (c : Nat) (f : Cluster → Cluster) : (modCluster s c f).history = s.history := rfl
@[simp] theorem modCluster_histLost (s : State) (c : Nat) (f : Cluster → Cluster) : (modCluster s c f).histLost = s.histLost := rfl
@[simp] theorem modCluster_witness (s : State) (c : Nat) (f : Cluster → Cluster) : (modCluster s c f).witness = s.witness := rfl
@[simp] theorem modCluster_lanesUsed (s : State) (c : Nat) (f : Cluster → Cluster) : (modCluster s c f).lanesUsed = s.lanesUsed := rfl
@[simp] theorem modCluster_correctedOnce (s : State) (c : Nat) (f : Cluster → Cluster) : (modCluster s c f).correctedOnce = s.correctedOnce := rfl
@[simp] theorem modCluster_remaps (s : State) (c : Nat) (f : Cluster → Cluster) : (modCluster s c f).remaps = s.remaps := rfl
@[simp] theorem modCluster_pllStandby (s : State) (c : Nat) (f : Cluster → Cluster) : (modCluster s c f).pllStandby = s.pllStandby := rfl
@[simp] theorem modCluster_dieUp (s : State) (c : Nat) (f : Cluster → Cluster) : (modCluster s c f).dieUp = s.dieUp := rfl
@[simp] theorem modCluster_pwren (s : State) (c : Nat) (f : Cluster → Cluster) : (modCluster s c f).pwren = s.pwren := rfl
@[simp] theorem modCluster_dieReturn (s : State) (c : Nat) (f : Cluster → Cluster) : (modCluster s c f).dieReturn = s.dieReturn := rfl
@[simp] theorem modCluster_dieRail (s : State) (c : Nat) (f : Cluster → Cluster) : (modCluster s c f).dieRail = s.dieRail := rfl
@[simp] theorem modCluster_dieLost (s : State) (c : Nat) (f : Cluster → Cluster) : (modCluster s c f).dieLost = s.dieLost := rfl
@[simp] theorem modCluster_temps (s : State) (c : Nat) (f : Cluster → Cluster) : (modCluster s c f).temps = s.temps := rfl
@[simp] theorem modCluster_hotNow (s : State) (c : Nat) (f : Cluster → Cluster) : (modCluster s c f).hotNow = s.hotNow := rfl
@[simp] theorem modCluster_hotRuns (s : State) (c : Nat) (f : Cluster → Cluster) : (modCluster s c f).hotRuns = s.hotRuns := rfl
@[simp] theorem modCluster_alert (s : State) (c : Nat) (f : Cluster → Cluster) : (modCluster s c f).alert = s.alert := rfl
@[simp] theorem modCluster_pkgShdn (s : State) (c : Nat) (f : Cluster → Cluster) : (modCluster s c f).pkgShdn = s.pkgShdn := rfl
@[simp] theorem modCluster_iodLost (s : State) (c : Nat) (f : Cluster → Cluster) : (modCluster s c f).iodLost = s.iodLost := rfl
@[simp] theorem modCluster_poweredDown (s : State) (c : Nat) (f : Cluster → Cluster) : (modCluster s c f).poweredDown = s.poweredDown := rfl
@[simp] theorem modCluster_mgmt (s : State) (c : Nat) (f : Cluster → Cluster) : (modCluster s c f).mgmt = s.mgmt := rfl

@[simp] theorem modArm_pending (s : State) (a : Nat) (f : Armature → Armature) : (modArm s a f).pending = s.pending := rfl
@[simp] theorem modArm_now (s : State) (a : Nat) (f : Armature → Armature) : (modArm s a f).now = s.now := rfl
@[simp] theorem modArm_fresh (s : State) (a : Nat) (f : Armature → Armature) : (modArm s a f).fresh = s.fresh := rfl
@[simp] theorem modArm_nextId (s : State) (a : Nat) (f : Armature → Armature) : (modArm s a f).nextId = s.nextId := rfl
@[simp] theorem modArm_out (s : State) (a : Nat) (f : Armature → Armature) : (modArm s a f).out = s.out := rfl
@[simp] theorem modArm_resetAt (s : State) (a : Nat) (f : Armature → Armature) : (modArm s a f).resetAt = s.resetAt := rfl
@[simp] theorem modArm_regs (s : State) (a : Nat) (f : Armature → Armature) : (modArm s a f).regs = s.regs := rfl
@[simp] theorem modArm_tb (s : State) (a : Nat) (f : Armature → Armature) : (modArm s a f).tb = s.tb := rfl
@[simp] theorem modArm_links (s : State) (a : Nat) (f : Armature → Armature) : (modArm s a f).links = s.links := rfl
@[simp] theorem modArm_rings (s : State) (a : Nat) (f : Armature → Armature) : (modArm s a f).rings = s.rings := rfl
@[simp] theorem modArm_cmds (s : State) (a : Nat) (f : Armature → Armature) : (modArm s a f).cmds = s.cmds := rfl
@[simp] theorem modArm_rrLast (s : State) (a : Nat) (f : Armature → Armature) : (modArm s a f).rrLast = s.rrLast := rfl
@[simp] theorem modArm_srvLast (s : State) (a : Nat) (f : Armature → Armature) : (modArm s a f).srvLast = s.srvLast := rfl
@[simp] theorem modArm_srvQps (s : State) (a : Nat) (f : Armature → Armature) : (modArm s a f).srvQps = s.srvQps := rfl
@[simp] theorem modArm_setCycle (s : State) (a : Nat) (f : Armature → Armature) : (modArm s a f).setCycle = s.setCycle := rfl
@[simp] theorem modArm_setBits (s : State) (a : Nat) (f : Armature → Armature) : (modArm s a f).setBits = s.setBits := rfl
@[simp] theorem modArm_mrs (s : State) (a : Nat) (f : Armature → Armature) : (modArm s a f).mrs = s.mrs := rfl
@[simp] theorem modArm_instances (s : State) (a : Nat) (f : Armature → Armature) : (modArm s a f).instances = s.instances := rfl
@[simp] theorem modArm_clusters (s : State) (a : Nat) (f : Armature → Armature) : (modArm s a f).clusters = s.clusters := rfl
@[simp] theorem modArm_units (s : State) (a : Nat) (f : Armature → Armature) : (modArm s a f).units = s.units := rfl
@[simp] theorem modArm_replySeq (s : State) (a : Nat) (f : Armature → Armature) : (modArm s a f).replySeq = s.replySeq := rfl
@[simp] theorem modArm_bindCounters (s : State) (a : Nat) (f : Armature → Armature) : (modArm s a f).bindCounters = s.bindCounters := rfl
@[simp] theorem modArm_tables (s : State) (a : Nat) (f : Armature → Armature) : (modArm s a f).tables = s.tables := rfl
@[simp] theorem modArm_tablesOld (s : State) (a : Nat) (f : Armature → Armature) : (modArm s a f).tablesOld = s.tablesOld := rfl
@[simp] theorem modArm_msgs (s : State) (a : Nat) (f : Armature → Armature) : (modArm s a f).msgs = s.msgs := rfl
@[simp] theorem modArm_cores (s : State) (a : Nat) (f : Armature → Armature) : (modArm s a f).cores = s.cores := rfl
@[simp] theorem modArm_inqs (s : State) (a : Nat) (f : Armature → Armature) : (modArm s a f).inqs = s.inqs := rfl
@[simp] theorem modArm_xfifos (s : State) (a : Nat) (f : Armature → Armature) : (modArm s a f).xfifos = s.xfifos := rfl
@[simp] theorem modArm_coreFired (s : State) (a : Nat) (f : Armature → Armature) : (modArm s a f).coreFired = s.coreFired := rfl
@[simp] theorem modArm_exitSlots (s : State) (a : Nat) (f : Armature → Armature) : (modArm s a f).exitSlots = s.exitSlots := rfl
@[simp] theorem modArm_csram (s : State) (a : Nat) (f : Armature → Armature) : (modArm s a f).csram = s.csram := rfl
@[simp] theorem modArm_clsram (s : State) (a : Nat) (f : Armature → Armature) : (modArm s a f).clsram = s.clsram := rfl
@[simp] theorem modArm_clPend (s : State) (a : Nat) (f : Armature → Armature) : (modArm s a f).clPend = s.clPend := rfl
@[simp] theorem modArm_joinSince (s : State) (a : Nat) (f : Armature → Armature) : (modArm s a f).joinSince = s.joinSince := rfl
@[simp] theorem modArm_joinDone (s : State) (a : Nat) (f : Armature → Armature) : (modArm s a f).joinDone = s.joinDone := rfl
@[simp] theorem modArm_wdogPrev (s : State) (a : Nat) (f : Armature → Armature) : (modArm s a f).wdogPrev = s.wdogPrev := rfl
@[simp] theorem modArm_noStall (s : State) (a : Nat) (f : Armature → Armature) : (modArm s a f).noStall = s.noStall := rfl
@[simp] theorem modArm_hbm (s : State) (a : Nat) (f : Armature → Armature) : (modArm s a f).hbm = s.hbm := rfl
@[simp] theorem modArm_regions (s : State) (a : Nat) (f : Armature → Armature) : (modArm s a f).regions = s.regions := rfl
@[simp] theorem modArm_freeBlocks (s : State) (a : Nat) (f : Armature → Armature) : (modArm s a f).freeBlocks = s.freeBlocks := rfl
@[simp] theorem modArm_hbmJobs (s : State) (a : Nat) (f : Armature → Armature) : (modArm s a f).hbmJobs = s.hbmJobs := rfl
@[simp] theorem modArm_split (s : State) (a : Nat) (f : Armature → Armature) : (modArm s a f).split = s.split := rfl
@[simp] theorem modArm_splitCmd (s : State) (a : Nat) (f : Armature → Armature) : (modArm s a f).splitCmd = s.splitCmd := rfl
@[simp] theorem modArm_ports (s : State) (a : Nat) (f : Armature → Armature) : (modArm s a f).ports = s.ports := rfl
@[simp] theorem modArm_buckets (s : State) (a : Nat) (f : Armature → Armature) : (modArm s a f).buckets = s.buckets := rfl
@[simp] theorem modArm_rxBufUsed (s : State) (a : Nat) (f : Armature → Armature) : (modArm s a f).rxBufUsed = s.rxBufUsed := rfl
@[simp] theorem modArm_tlmMask (s : State) (a : Nat) (f : Armature → Armature) : (modArm s a f).tlmMask = s.tlmMask := rfl
@[simp] theorem modArm_tlmOn (s : State) (a : Nat) (f : Armature → Armature) : (modArm s a f).tlmOn = s.tlmOn := rfl
@[simp] theorem modArm_tlmGap (s : State) (a : Nat) (f : Armature → Armature) : (modArm s a f).tlmGap = s.tlmGap := rfl
@[simp] theorem modArm_lfsr (s : State) (a : Nat) (f : Armature → Armature) : (modArm s a f).lfsr = s.lfsr := rfl
@[simp] theorem modArm_filters (s : State) (a : Nat) (f : Armature → Armature) : (modArm s a f).filters = s.filters := rfl
@[simp] theorem modArm_filtersOld (s : State) (a : Nat) (f : Armature → Armature) : (modArm s a f).filtersOld = s.filtersOld := rfl
@[simp] theorem modArm_filtersLapsed (s : State) (a : Nat) (f : Armature → Armature) : (modArm s a f).filtersLapsed = s.filtersLapsed := rfl
@[simp] theorem modArm_qps (s : State) (a : Nat) (f : Armature → Armature) : (modArm s a f).qps = s.qps := rfl
@[simp] theorem modArm_peers (s : State) (a : Nat) (f : Armature → Armature) : (modArm s a f).peers = s.peers := rfl
@[simp] theorem modArm_services (s : State) (a : Nat) (f : Armature → Armature) : (modArm s a f).services = s.services := rfl
@[simp] theorem modArm_results (s : State) (a : Nat) (f : Armature → Armature) : (modArm s a f).results = s.results := rfl
@[simp] theorem modArm_arms (s : State) (a : Nat) (f : Armature → Armature) : (modArm s a f).arms = tmod s.arms a f := rfl
@[simp] theorem modArm_armStops (s : State) (a : Nat) (f : Armature → Armature) : (modArm s a f).armStops = s.armStops := rfl
@[simp] theorem modArm_errors (s : State) (a : Nat) (f : Armature → Armature) : (modArm s a f).errors = s.errors := rfl
@[simp] theorem modArm_retired (s : State) (a : Nat) (f : Armature → Armature) : (modArm s a f).retired = s.retired := rfl
@[simp] theorem modArm_byHand (s : State) (a : Nat) (f : Armature → Armature) : (modArm s a f).byHand = s.byHand := rfl
@[simp] theorem modArm_shifts (s : State) (a : Nat) (f : Armature → Armature) : (modArm s a f).shifts = s.shifts := rfl
@[simp] theorem modArm_shiftPend (s : State) (a : Nat) (f : Armature → Armature) : (modArm s a f).shiftPend = s.shiftPend := rfl
@[simp] theorem modArm_history (s : State) (a : Nat) (f : Armature → Armature) : (modArm s a f).history = s.history := rfl
@[simp] theorem modArm_histLost (s : State) (a : Nat) (f : Armature → Armature) : (modArm s a f).histLost = s.histLost := rfl
@[simp] theorem modArm_witness (s : State) (a : Nat) (f : Armature → Armature) : (modArm s a f).witness = s.witness := rfl
@[simp] theorem modArm_lanesUsed (s : State) (a : Nat) (f : Armature → Armature) : (modArm s a f).lanesUsed = s.lanesUsed := rfl
@[simp] theorem modArm_correctedOnce (s : State) (a : Nat) (f : Armature → Armature) : (modArm s a f).correctedOnce = s.correctedOnce := rfl
@[simp] theorem modArm_remaps (s : State) (a : Nat) (f : Armature → Armature) : (modArm s a f).remaps = s.remaps := rfl
@[simp] theorem modArm_pllStandby (s : State) (a : Nat) (f : Armature → Armature) : (modArm s a f).pllStandby = s.pllStandby := rfl
@[simp] theorem modArm_dieUp (s : State) (a : Nat) (f : Armature → Armature) : (modArm s a f).dieUp = s.dieUp := rfl
@[simp] theorem modArm_pwren (s : State) (a : Nat) (f : Armature → Armature) : (modArm s a f).pwren = s.pwren := rfl
@[simp] theorem modArm_dieReturn (s : State) (a : Nat) (f : Armature → Armature) : (modArm s a f).dieReturn = s.dieReturn := rfl
@[simp] theorem modArm_dieRail (s : State) (a : Nat) (f : Armature → Armature) : (modArm s a f).dieRail = s.dieRail := rfl
@[simp] theorem modArm_dieLost (s : State) (a : Nat) (f : Armature → Armature) : (modArm s a f).dieLost = s.dieLost := rfl
@[simp] theorem modArm_temps (s : State) (a : Nat) (f : Armature → Armature) : (modArm s a f).temps = s.temps := rfl
@[simp] theorem modArm_hotNow (s : State) (a : Nat) (f : Armature → Armature) : (modArm s a f).hotNow = s.hotNow := rfl
@[simp] theorem modArm_hotRuns (s : State) (a : Nat) (f : Armature → Armature) : (modArm s a f).hotRuns = s.hotRuns := rfl
@[simp] theorem modArm_alert (s : State) (a : Nat) (f : Armature → Armature) : (modArm s a f).alert = s.alert := rfl
@[simp] theorem modArm_pkgShdn (s : State) (a : Nat) (f : Armature → Armature) : (modArm s a f).pkgShdn = s.pkgShdn := rfl
@[simp] theorem modArm_iodLost (s : State) (a : Nat) (f : Armature → Armature) : (modArm s a f).iodLost = s.iodLost := rfl
@[simp] theorem modArm_poweredDown (s : State) (a : Nat) (f : Armature → Armature) : (modArm s a f).poweredDown = s.poweredDown := rfl
@[simp] theorem modArm_mgmt (s : State) (a : Nat) (f : Armature → Armature) : (modArm s a f).mgmt = s.mgmt := rfl

@[simp] theorem countInst_pending (s : State) (n k add : Nat) : (countInst s n k add).pending = s.pending := rfl
@[simp] theorem countInst_now (s : State) (n k add : Nat) : (countInst s n k add).now = s.now := rfl
@[simp] theorem countInst_fresh (s : State) (n k add : Nat) : (countInst s n k add).fresh = s.fresh := rfl
@[simp] theorem countInst_nextId (s : State) (n k add : Nat) : (countInst s n k add).nextId = s.nextId := rfl
@[simp] theorem countInst_out (s : State) (n k add : Nat) : (countInst s n k add).out = s.out := rfl
@[simp] theorem countInst_resetAt (s : State) (n k add : Nat) : (countInst s n k add).resetAt = s.resetAt := rfl
@[simp] theorem countInst_regs (s : State) (n k add : Nat) : (countInst s n k add).regs = s.regs := rfl
@[simp] theorem countInst_tb (s : State) (n k add : Nat) : (countInst s n k add).tb = s.tb := rfl
@[simp] theorem countInst_links (s : State) (n k add : Nat) : (countInst s n k add).links = s.links := rfl
@[simp] theorem countInst_rings (s : State) (n k add : Nat) : (countInst s n k add).rings = s.rings := rfl
@[simp] theorem countInst_cmds (s : State) (n k add : Nat) : (countInst s n k add).cmds = s.cmds := rfl
@[simp] theorem countInst_rrLast (s : State) (n k add : Nat) : (countInst s n k add).rrLast = s.rrLast := rfl
@[simp] theorem countInst_srvLast (s : State) (n k add : Nat) : (countInst s n k add).srvLast = s.srvLast := rfl
@[simp] theorem countInst_srvQps (s : State) (n k add : Nat) : (countInst s n k add).srvQps = s.srvQps := rfl
@[simp] theorem countInst_setCycle (s : State) (n k add : Nat) : (countInst s n k add).setCycle = s.setCycle := rfl
@[simp] theorem countInst_setBits (s : State) (n k add : Nat) : (countInst s n k add).setBits = s.setBits := rfl
@[simp] theorem countInst_mrs (s : State) (n k add : Nat) : (countInst s n k add).mrs = s.mrs := rfl
@[simp] theorem countInst_clusters (s : State) (n k add : Nat) : (countInst s n k add).clusters = s.clusters := rfl
@[simp] theorem countInst_units (s : State) (n k add : Nat) : (countInst s n k add).units = s.units := rfl
@[simp] theorem countInst_replySeq (s : State) (n k add : Nat) : (countInst s n k add).replySeq = s.replySeq := rfl
@[simp] theorem countInst_bindCounters (s : State) (n k add : Nat) : (countInst s n k add).bindCounters = s.bindCounters := rfl
@[simp] theorem countInst_tables (s : State) (n k add : Nat) : (countInst s n k add).tables = s.tables := rfl
@[simp] theorem countInst_tablesOld (s : State) (n k add : Nat) : (countInst s n k add).tablesOld = s.tablesOld := rfl
@[simp] theorem countInst_msgs (s : State) (n k add : Nat) : (countInst s n k add).msgs = s.msgs := rfl
@[simp] theorem countInst_cores (s : State) (n k add : Nat) : (countInst s n k add).cores = s.cores := rfl
@[simp] theorem countInst_inqs (s : State) (n k add : Nat) : (countInst s n k add).inqs = s.inqs := rfl
@[simp] theorem countInst_xfifos (s : State) (n k add : Nat) : (countInst s n k add).xfifos = s.xfifos := rfl
@[simp] theorem countInst_coreFired (s : State) (n k add : Nat) : (countInst s n k add).coreFired = s.coreFired := rfl
@[simp] theorem countInst_exitSlots (s : State) (n k add : Nat) : (countInst s n k add).exitSlots = s.exitSlots := rfl
@[simp] theorem countInst_csram (s : State) (n k add : Nat) : (countInst s n k add).csram = s.csram := rfl
@[simp] theorem countInst_clsram (s : State) (n k add : Nat) : (countInst s n k add).clsram = s.clsram := rfl
@[simp] theorem countInst_clPend (s : State) (n k add : Nat) : (countInst s n k add).clPend = s.clPend := rfl
@[simp] theorem countInst_joinSince (s : State) (n k add : Nat) : (countInst s n k add).joinSince = s.joinSince := rfl
@[simp] theorem countInst_joinDone (s : State) (n k add : Nat) : (countInst s n k add).joinDone = s.joinDone := rfl
@[simp] theorem countInst_wdogPrev (s : State) (n k add : Nat) : (countInst s n k add).wdogPrev = s.wdogPrev := rfl
@[simp] theorem countInst_noStall (s : State) (n k add : Nat) : (countInst s n k add).noStall = s.noStall := rfl
@[simp] theorem countInst_hbm (s : State) (n k add : Nat) : (countInst s n k add).hbm = s.hbm := rfl
@[simp] theorem countInst_regions (s : State) (n k add : Nat) : (countInst s n k add).regions = s.regions := rfl
@[simp] theorem countInst_freeBlocks (s : State) (n k add : Nat) : (countInst s n k add).freeBlocks = s.freeBlocks := rfl
@[simp] theorem countInst_hbmJobs (s : State) (n k add : Nat) : (countInst s n k add).hbmJobs = s.hbmJobs := rfl
@[simp] theorem countInst_split (s : State) (n k add : Nat) : (countInst s n k add).split = s.split := rfl
@[simp] theorem countInst_splitCmd (s : State) (n k add : Nat) : (countInst s n k add).splitCmd = s.splitCmd := rfl
@[simp] theorem countInst_ports (s : State) (n k add : Nat) : (countInst s n k add).ports = s.ports := rfl
@[simp] theorem countInst_buckets (s : State) (n k add : Nat) : (countInst s n k add).buckets = s.buckets := rfl
@[simp] theorem countInst_rxBufUsed (s : State) (n k add : Nat) : (countInst s n k add).rxBufUsed = s.rxBufUsed := rfl
@[simp] theorem countInst_tlmMask (s : State) (n k add : Nat) : (countInst s n k add).tlmMask = s.tlmMask := rfl
@[simp] theorem countInst_tlmOn (s : State) (n k add : Nat) : (countInst s n k add).tlmOn = s.tlmOn := rfl
@[simp] theorem countInst_tlmGap (s : State) (n k add : Nat) : (countInst s n k add).tlmGap = s.tlmGap := rfl
@[simp] theorem countInst_lfsr (s : State) (n k add : Nat) : (countInst s n k add).lfsr = s.lfsr := rfl
@[simp] theorem countInst_filters (s : State) (n k add : Nat) : (countInst s n k add).filters = s.filters := rfl
@[simp] theorem countInst_filtersOld (s : State) (n k add : Nat) : (countInst s n k add).filtersOld = s.filtersOld := rfl
@[simp] theorem countInst_filtersLapsed (s : State) (n k add : Nat) : (countInst s n k add).filtersLapsed = s.filtersLapsed := rfl
@[simp] theorem countInst_qps (s : State) (n k add : Nat) : (countInst s n k add).qps = s.qps := rfl
@[simp] theorem countInst_peers (s : State) (n k add : Nat) : (countInst s n k add).peers = s.peers := rfl
@[simp] theorem countInst_services (s : State) (n k add : Nat) : (countInst s n k add).services = s.services := rfl
@[simp] theorem countInst_results (s : State) (n k add : Nat) : (countInst s n k add).results = s.results := rfl
@[simp] theorem countInst_arms (s : State) (n k add : Nat) : (countInst s n k add).arms = s.arms := rfl
@[simp] theorem countInst_armStops (s : State) (n k add : Nat) : (countInst s n k add).armStops = s.armStops := rfl
@[simp] theorem countInst_errors (s : State) (n k add : Nat) : (countInst s n k add).errors = s.errors := rfl
@[simp] theorem countInst_retired (s : State) (n k add : Nat) : (countInst s n k add).retired = s.retired := rfl
@[simp] theorem countInst_byHand (s : State) (n k add : Nat) : (countInst s n k add).byHand = s.byHand := rfl
@[simp] theorem countInst_shifts (s : State) (n k add : Nat) : (countInst s n k add).shifts = s.shifts := rfl
@[simp] theorem countInst_shiftPend (s : State) (n k add : Nat) : (countInst s n k add).shiftPend = s.shiftPend := rfl
@[simp] theorem countInst_history (s : State) (n k add : Nat) : (countInst s n k add).history = s.history := rfl
@[simp] theorem countInst_histLost (s : State) (n k add : Nat) : (countInst s n k add).histLost = s.histLost := rfl
@[simp] theorem countInst_witness (s : State) (n k add : Nat) : (countInst s n k add).witness = s.witness := rfl
@[simp] theorem countInst_lanesUsed (s : State) (n k add : Nat) : (countInst s n k add).lanesUsed = s.lanesUsed := rfl
@[simp] theorem countInst_correctedOnce (s : State) (n k add : Nat) : (countInst s n k add).correctedOnce = s.correctedOnce := rfl
@[simp] theorem countInst_remaps (s : State) (n k add : Nat) : (countInst s n k add).remaps = s.remaps := rfl
@[simp] theorem countInst_pllStandby (s : State) (n k add : Nat) : (countInst s n k add).pllStandby = s.pllStandby := rfl
@[simp] theorem countInst_dieUp (s : State) (n k add : Nat) : (countInst s n k add).dieUp = s.dieUp := rfl
@[simp] theorem countInst_pwren (s : State) (n k add : Nat) : (countInst s n k add).pwren = s.pwren := rfl
@[simp] theorem countInst_dieReturn (s : State) (n k add : Nat) : (countInst s n k add).dieReturn = s.dieReturn := rfl
@[simp] theorem countInst_dieRail (s : State) (n k add : Nat) : (countInst s n k add).dieRail = s.dieRail := rfl
@[simp] theorem countInst_dieLost (s : State) (n k add : Nat) : (countInst s n k add).dieLost = s.dieLost := rfl
@[simp] theorem countInst_temps (s : State) (n k add : Nat) : (countInst s n k add).temps = s.temps := rfl
@[simp] theorem countInst_hotNow (s : State) (n k add : Nat) : (countInst s n k add).hotNow = s.hotNow := rfl
@[simp] theorem countInst_hotRuns (s : State) (n k add : Nat) : (countInst s n k add).hotRuns = s.hotRuns := rfl
@[simp] theorem countInst_alert (s : State) (n k add : Nat) : (countInst s n k add).alert = s.alert := rfl
@[simp] theorem countInst_pkgShdn (s : State) (n k add : Nat) : (countInst s n k add).pkgShdn = s.pkgShdn := rfl
@[simp] theorem countInst_iodLost (s : State) (n k add : Nat) : (countInst s n k add).iodLost = s.iodLost := rfl
@[simp] theorem countInst_poweredDown (s : State) (n k add : Nat) : (countInst s n k add).poweredDown = s.poweredDown := rfl
@[simp] theorem countInst_mgmt (s : State) (n k add : Nat) : (countInst s n k add).mgmt = s.mgmt := rfl

@[simp] theorem countBinding_pending (s : State) (inst b k add : Nat) : (countBinding s inst b k add).pending = s.pending := rfl
@[simp] theorem countBinding_now (s : State) (inst b k add : Nat) : (countBinding s inst b k add).now = s.now := rfl
@[simp] theorem countBinding_fresh (s : State) (inst b k add : Nat) : (countBinding s inst b k add).fresh = s.fresh := rfl
@[simp] theorem countBinding_nextId (s : State) (inst b k add : Nat) : (countBinding s inst b k add).nextId = s.nextId := rfl
@[simp] theorem countBinding_out (s : State) (inst b k add : Nat) : (countBinding s inst b k add).out = s.out := rfl
@[simp] theorem countBinding_resetAt (s : State) (inst b k add : Nat) : (countBinding s inst b k add).resetAt = s.resetAt := rfl
@[simp] theorem countBinding_regs (s : State) (inst b k add : Nat) : (countBinding s inst b k add).regs = s.regs := rfl
@[simp] theorem countBinding_tb (s : State) (inst b k add : Nat) : (countBinding s inst b k add).tb = s.tb := rfl
@[simp] theorem countBinding_links (s : State) (inst b k add : Nat) : (countBinding s inst b k add).links = s.links := rfl
@[simp] theorem countBinding_rings (s : State) (inst b k add : Nat) : (countBinding s inst b k add).rings = s.rings := rfl
@[simp] theorem countBinding_cmds (s : State) (inst b k add : Nat) : (countBinding s inst b k add).cmds = s.cmds := rfl
@[simp] theorem countBinding_rrLast (s : State) (inst b k add : Nat) : (countBinding s inst b k add).rrLast = s.rrLast := rfl
@[simp] theorem countBinding_srvLast (s : State) (inst b k add : Nat) : (countBinding s inst b k add).srvLast = s.srvLast := rfl
@[simp] theorem countBinding_srvQps (s : State) (inst b k add : Nat) : (countBinding s inst b k add).srvQps = s.srvQps := rfl
@[simp] theorem countBinding_setCycle (s : State) (inst b k add : Nat) : (countBinding s inst b k add).setCycle = s.setCycle := rfl
@[simp] theorem countBinding_setBits (s : State) (inst b k add : Nat) : (countBinding s inst b k add).setBits = s.setBits := rfl
@[simp] theorem countBinding_mrs (s : State) (inst b k add : Nat) : (countBinding s inst b k add).mrs = s.mrs := rfl
@[simp] theorem countBinding_instances (s : State) (inst b k add : Nat) : (countBinding s inst b k add).instances = s.instances := rfl
@[simp] theorem countBinding_clusters (s : State) (inst b k add : Nat) : (countBinding s inst b k add).clusters = s.clusters := rfl
@[simp] theorem countBinding_units (s : State) (inst b k add : Nat) : (countBinding s inst b k add).units = s.units := rfl
@[simp] theorem countBinding_replySeq (s : State) (inst b k add : Nat) : (countBinding s inst b k add).replySeq = s.replySeq := rfl
@[simp] theorem countBinding_tables (s : State) (inst b k add : Nat) : (countBinding s inst b k add).tables = s.tables := rfl
@[simp] theorem countBinding_tablesOld (s : State) (inst b k add : Nat) : (countBinding s inst b k add).tablesOld = s.tablesOld := rfl
@[simp] theorem countBinding_msgs (s : State) (inst b k add : Nat) : (countBinding s inst b k add).msgs = s.msgs := rfl
@[simp] theorem countBinding_cores (s : State) (inst b k add : Nat) : (countBinding s inst b k add).cores = s.cores := rfl
@[simp] theorem countBinding_inqs (s : State) (inst b k add : Nat) : (countBinding s inst b k add).inqs = s.inqs := rfl
@[simp] theorem countBinding_xfifos (s : State) (inst b k add : Nat) : (countBinding s inst b k add).xfifos = s.xfifos := rfl
@[simp] theorem countBinding_coreFired (s : State) (inst b k add : Nat) : (countBinding s inst b k add).coreFired = s.coreFired := rfl
@[simp] theorem countBinding_exitSlots (s : State) (inst b k add : Nat) : (countBinding s inst b k add).exitSlots = s.exitSlots := rfl
@[simp] theorem countBinding_csram (s : State) (inst b k add : Nat) : (countBinding s inst b k add).csram = s.csram := rfl
@[simp] theorem countBinding_clsram (s : State) (inst b k add : Nat) : (countBinding s inst b k add).clsram = s.clsram := rfl
@[simp] theorem countBinding_clPend (s : State) (inst b k add : Nat) : (countBinding s inst b k add).clPend = s.clPend := rfl
@[simp] theorem countBinding_joinSince (s : State) (inst b k add : Nat) : (countBinding s inst b k add).joinSince = s.joinSince := rfl
@[simp] theorem countBinding_joinDone (s : State) (inst b k add : Nat) : (countBinding s inst b k add).joinDone = s.joinDone := rfl
@[simp] theorem countBinding_wdogPrev (s : State) (inst b k add : Nat) : (countBinding s inst b k add).wdogPrev = s.wdogPrev := rfl
@[simp] theorem countBinding_noStall (s : State) (inst b k add : Nat) : (countBinding s inst b k add).noStall = s.noStall := rfl
@[simp] theorem countBinding_hbm (s : State) (inst b k add : Nat) : (countBinding s inst b k add).hbm = s.hbm := rfl
@[simp] theorem countBinding_regions (s : State) (inst b k add : Nat) : (countBinding s inst b k add).regions = s.regions := rfl
@[simp] theorem countBinding_freeBlocks (s : State) (inst b k add : Nat) : (countBinding s inst b k add).freeBlocks = s.freeBlocks := rfl
@[simp] theorem countBinding_hbmJobs (s : State) (inst b k add : Nat) : (countBinding s inst b k add).hbmJobs = s.hbmJobs := rfl
@[simp] theorem countBinding_split (s : State) (inst b k add : Nat) : (countBinding s inst b k add).split = s.split := rfl
@[simp] theorem countBinding_splitCmd (s : State) (inst b k add : Nat) : (countBinding s inst b k add).splitCmd = s.splitCmd := rfl
@[simp] theorem countBinding_ports (s : State) (inst b k add : Nat) : (countBinding s inst b k add).ports = s.ports := rfl
@[simp] theorem countBinding_buckets (s : State) (inst b k add : Nat) : (countBinding s inst b k add).buckets = s.buckets := rfl
@[simp] theorem countBinding_rxBufUsed (s : State) (inst b k add : Nat) : (countBinding s inst b k add).rxBufUsed = s.rxBufUsed := rfl
@[simp] theorem countBinding_tlmMask (s : State) (inst b k add : Nat) : (countBinding s inst b k add).tlmMask = s.tlmMask := rfl
@[simp] theorem countBinding_tlmOn (s : State) (inst b k add : Nat) : (countBinding s inst b k add).tlmOn = s.tlmOn := rfl
@[simp] theorem countBinding_tlmGap (s : State) (inst b k add : Nat) : (countBinding s inst b k add).tlmGap = s.tlmGap := rfl
@[simp] theorem countBinding_lfsr (s : State) (inst b k add : Nat) : (countBinding s inst b k add).lfsr = s.lfsr := rfl
@[simp] theorem countBinding_filters (s : State) (inst b k add : Nat) : (countBinding s inst b k add).filters = s.filters := rfl
@[simp] theorem countBinding_filtersOld (s : State) (inst b k add : Nat) : (countBinding s inst b k add).filtersOld = s.filtersOld := rfl
@[simp] theorem countBinding_filtersLapsed (s : State) (inst b k add : Nat) : (countBinding s inst b k add).filtersLapsed = s.filtersLapsed := rfl
@[simp] theorem countBinding_qps (s : State) (inst b k add : Nat) : (countBinding s inst b k add).qps = s.qps := rfl
@[simp] theorem countBinding_peers (s : State) (inst b k add : Nat) : (countBinding s inst b k add).peers = s.peers := rfl
@[simp] theorem countBinding_services (s : State) (inst b k add : Nat) : (countBinding s inst b k add).services = s.services := rfl
@[simp] theorem countBinding_results (s : State) (inst b k add : Nat) : (countBinding s inst b k add).results = s.results := rfl
@[simp] theorem countBinding_arms (s : State) (inst b k add : Nat) : (countBinding s inst b k add).arms = s.arms := rfl
@[simp] theorem countBinding_armStops (s : State) (inst b k add : Nat) : (countBinding s inst b k add).armStops = s.armStops := rfl
@[simp] theorem countBinding_errors (s : State) (inst b k add : Nat) : (countBinding s inst b k add).errors = s.errors := rfl
@[simp] theorem countBinding_retired (s : State) (inst b k add : Nat) : (countBinding s inst b k add).retired = s.retired := rfl
@[simp] theorem countBinding_byHand (s : State) (inst b k add : Nat) : (countBinding s inst b k add).byHand = s.byHand := rfl
@[simp] theorem countBinding_shifts (s : State) (inst b k add : Nat) : (countBinding s inst b k add).shifts = s.shifts := rfl
@[simp] theorem countBinding_shiftPend (s : State) (inst b k add : Nat) : (countBinding s inst b k add).shiftPend = s.shiftPend := rfl
@[simp] theorem countBinding_history (s : State) (inst b k add : Nat) : (countBinding s inst b k add).history = s.history := rfl
@[simp] theorem countBinding_histLost (s : State) (inst b k add : Nat) : (countBinding s inst b k add).histLost = s.histLost := rfl
@[simp] theorem countBinding_witness (s : State) (inst b k add : Nat) : (countBinding s inst b k add).witness = s.witness := rfl
@[simp] theorem countBinding_lanesUsed (s : State) (inst b k add : Nat) : (countBinding s inst b k add).lanesUsed = s.lanesUsed := rfl
@[simp] theorem countBinding_correctedOnce (s : State) (inst b k add : Nat) : (countBinding s inst b k add).correctedOnce = s.correctedOnce := rfl
@[simp] theorem countBinding_remaps (s : State) (inst b k add : Nat) : (countBinding s inst b k add).remaps = s.remaps := rfl
@[simp] theorem countBinding_pllStandby (s : State) (inst b k add : Nat) : (countBinding s inst b k add).pllStandby = s.pllStandby := rfl
@[simp] theorem countBinding_dieUp (s : State) (inst b k add : Nat) : (countBinding s inst b k add).dieUp = s.dieUp := rfl
@[simp] theorem countBinding_pwren (s : State) (inst b k add : Nat) : (countBinding s inst b k add).pwren = s.pwren := rfl
@[simp] theorem countBinding_dieReturn (s : State) (inst b k add : Nat) : (countBinding s inst b k add).dieReturn = s.dieReturn := rfl
@[simp] theorem countBinding_dieRail (s : State) (inst b k add : Nat) : (countBinding s inst b k add).dieRail = s.dieRail := rfl
@[simp] theorem countBinding_dieLost (s : State) (inst b k add : Nat) : (countBinding s inst b k add).dieLost = s.dieLost := rfl
@[simp] theorem countBinding_temps (s : State) (inst b k add : Nat) : (countBinding s inst b k add).temps = s.temps := rfl
@[simp] theorem countBinding_hotNow (s : State) (inst b k add : Nat) : (countBinding s inst b k add).hotNow = s.hotNow := rfl
@[simp] theorem countBinding_hotRuns (s : State) (inst b k add : Nat) : (countBinding s inst b k add).hotRuns = s.hotRuns := rfl
@[simp] theorem countBinding_alert (s : State) (inst b k add : Nat) : (countBinding s inst b k add).alert = s.alert := rfl
@[simp] theorem countBinding_pkgShdn (s : State) (inst b k add : Nat) : (countBinding s inst b k add).pkgShdn = s.pkgShdn := rfl
@[simp] theorem countBinding_iodLost (s : State) (inst b k add : Nat) : (countBinding s inst b k add).iodLost = s.iodLost := rfl
@[simp] theorem countBinding_poweredDown (s : State) (inst b k add : Nat) : (countBinding s inst b k add).poweredDown = s.poweredDown := rfl
@[simp] theorem countBinding_mgmt (s : State) (inst b k add : Nat) : (countBinding s inst b k add).mgmt = s.mgmt := rfl

@[simp] theorem countPort_pending (s : State) (p k add : Nat) : (countPort s p k add).pending = s.pending := rfl
@[simp] theorem countPort_now (s : State) (p k add : Nat) : (countPort s p k add).now = s.now := rfl
@[simp] theorem countPort_fresh (s : State) (p k add : Nat) : (countPort s p k add).fresh = s.fresh := rfl
@[simp] theorem countPort_nextId (s : State) (p k add : Nat) : (countPort s p k add).nextId = s.nextId := rfl
@[simp] theorem countPort_out (s : State) (p k add : Nat) : (countPort s p k add).out = s.out := rfl
@[simp] theorem countPort_resetAt (s : State) (p k add : Nat) : (countPort s p k add).resetAt = s.resetAt := rfl
@[simp] theorem countPort_regs (s : State) (p k add : Nat) : (countPort s p k add).regs = s.regs := rfl
@[simp] theorem countPort_tb (s : State) (p k add : Nat) : (countPort s p k add).tb = s.tb := rfl
@[simp] theorem countPort_links (s : State) (p k add : Nat) : (countPort s p k add).links = s.links := rfl
@[simp] theorem countPort_rings (s : State) (p k add : Nat) : (countPort s p k add).rings = s.rings := rfl
@[simp] theorem countPort_cmds (s : State) (p k add : Nat) : (countPort s p k add).cmds = s.cmds := rfl
@[simp] theorem countPort_rrLast (s : State) (p k add : Nat) : (countPort s p k add).rrLast = s.rrLast := rfl
@[simp] theorem countPort_srvLast (s : State) (p k add : Nat) : (countPort s p k add).srvLast = s.srvLast := rfl
@[simp] theorem countPort_srvQps (s : State) (p k add : Nat) : (countPort s p k add).srvQps = s.srvQps := rfl
@[simp] theorem countPort_setCycle (s : State) (p k add : Nat) : (countPort s p k add).setCycle = s.setCycle := rfl
@[simp] theorem countPort_setBits (s : State) (p k add : Nat) : (countPort s p k add).setBits = s.setBits := rfl
@[simp] theorem countPort_mrs (s : State) (p k add : Nat) : (countPort s p k add).mrs = s.mrs := rfl
@[simp] theorem countPort_instances (s : State) (p k add : Nat) : (countPort s p k add).instances = s.instances := rfl
@[simp] theorem countPort_clusters (s : State) (p k add : Nat) : (countPort s p k add).clusters = s.clusters := rfl
@[simp] theorem countPort_units (s : State) (p k add : Nat) : (countPort s p k add).units = s.units := rfl
@[simp] theorem countPort_replySeq (s : State) (p k add : Nat) : (countPort s p k add).replySeq = s.replySeq := rfl
@[simp] theorem countPort_bindCounters (s : State) (p k add : Nat) : (countPort s p k add).bindCounters = s.bindCounters := rfl
@[simp] theorem countPort_tables (s : State) (p k add : Nat) : (countPort s p k add).tables = s.tables := rfl
@[simp] theorem countPort_tablesOld (s : State) (p k add : Nat) : (countPort s p k add).tablesOld = s.tablesOld := rfl
@[simp] theorem countPort_msgs (s : State) (p k add : Nat) : (countPort s p k add).msgs = s.msgs := rfl
@[simp] theorem countPort_cores (s : State) (p k add : Nat) : (countPort s p k add).cores = s.cores := rfl
@[simp] theorem countPort_inqs (s : State) (p k add : Nat) : (countPort s p k add).inqs = s.inqs := rfl
@[simp] theorem countPort_xfifos (s : State) (p k add : Nat) : (countPort s p k add).xfifos = s.xfifos := rfl
@[simp] theorem countPort_coreFired (s : State) (p k add : Nat) : (countPort s p k add).coreFired = s.coreFired := rfl
@[simp] theorem countPort_exitSlots (s : State) (p k add : Nat) : (countPort s p k add).exitSlots = s.exitSlots := rfl
@[simp] theorem countPort_csram (s : State) (p k add : Nat) : (countPort s p k add).csram = s.csram := rfl
@[simp] theorem countPort_clsram (s : State) (p k add : Nat) : (countPort s p k add).clsram = s.clsram := rfl
@[simp] theorem countPort_clPend (s : State) (p k add : Nat) : (countPort s p k add).clPend = s.clPend := rfl
@[simp] theorem countPort_joinSince (s : State) (p k add : Nat) : (countPort s p k add).joinSince = s.joinSince := rfl
@[simp] theorem countPort_joinDone (s : State) (p k add : Nat) : (countPort s p k add).joinDone = s.joinDone := rfl
@[simp] theorem countPort_wdogPrev (s : State) (p k add : Nat) : (countPort s p k add).wdogPrev = s.wdogPrev := rfl
@[simp] theorem countPort_noStall (s : State) (p k add : Nat) : (countPort s p k add).noStall = s.noStall := rfl
@[simp] theorem countPort_hbm (s : State) (p k add : Nat) : (countPort s p k add).hbm = s.hbm := rfl
@[simp] theorem countPort_regions (s : State) (p k add : Nat) : (countPort s p k add).regions = s.regions := rfl
@[simp] theorem countPort_freeBlocks (s : State) (p k add : Nat) : (countPort s p k add).freeBlocks = s.freeBlocks := rfl
@[simp] theorem countPort_hbmJobs (s : State) (p k add : Nat) : (countPort s p k add).hbmJobs = s.hbmJobs := rfl
@[simp] theorem countPort_split (s : State) (p k add : Nat) : (countPort s p k add).split = s.split := rfl
@[simp] theorem countPort_splitCmd (s : State) (p k add : Nat) : (countPort s p k add).splitCmd = s.splitCmd := rfl
@[simp] theorem countPort_buckets (s : State) (p k add : Nat) : (countPort s p k add).buckets = s.buckets := rfl
@[simp] theorem countPort_rxBufUsed (s : State) (p k add : Nat) : (countPort s p k add).rxBufUsed = s.rxBufUsed := rfl
@[simp] theorem countPort_tlmMask (s : State) (p k add : Nat) : (countPort s p k add).tlmMask = s.tlmMask := rfl
@[simp] theorem countPort_tlmOn (s : State) (p k add : Nat) : (countPort s p k add).tlmOn = s.tlmOn := rfl
@[simp] theorem countPort_tlmGap (s : State) (p k add : Nat) : (countPort s p k add).tlmGap = s.tlmGap := rfl
@[simp] theorem countPort_lfsr (s : State) (p k add : Nat) : (countPort s p k add).lfsr = s.lfsr := rfl
@[simp] theorem countPort_filters (s : State) (p k add : Nat) : (countPort s p k add).filters = s.filters := rfl
@[simp] theorem countPort_filtersOld (s : State) (p k add : Nat) : (countPort s p k add).filtersOld = s.filtersOld := rfl
@[simp] theorem countPort_filtersLapsed (s : State) (p k add : Nat) : (countPort s p k add).filtersLapsed = s.filtersLapsed := rfl
@[simp] theorem countPort_qps (s : State) (p k add : Nat) : (countPort s p k add).qps = s.qps := rfl
@[simp] theorem countPort_peers (s : State) (p k add : Nat) : (countPort s p k add).peers = s.peers := rfl
@[simp] theorem countPort_services (s : State) (p k add : Nat) : (countPort s p k add).services = s.services := rfl
@[simp] theorem countPort_results (s : State) (p k add : Nat) : (countPort s p k add).results = s.results := rfl
@[simp] theorem countPort_arms (s : State) (p k add : Nat) : (countPort s p k add).arms = s.arms := rfl
@[simp] theorem countPort_armStops (s : State) (p k add : Nat) : (countPort s p k add).armStops = s.armStops := rfl
@[simp] theorem countPort_errors (s : State) (p k add : Nat) : (countPort s p k add).errors = s.errors := rfl
@[simp] theorem countPort_retired (s : State) (p k add : Nat) : (countPort s p k add).retired = s.retired := rfl
@[simp] theorem countPort_byHand (s : State) (p k add : Nat) : (countPort s p k add).byHand = s.byHand := rfl
@[simp] theorem countPort_shifts (s : State) (p k add : Nat) : (countPort s p k add).shifts = s.shifts := rfl
@[simp] theorem countPort_shiftPend (s : State) (p k add : Nat) : (countPort s p k add).shiftPend = s.shiftPend := rfl
@[simp] theorem countPort_history (s : State) (p k add : Nat) : (countPort s p k add).history = s.history := rfl
@[simp] theorem countPort_histLost (s : State) (p k add : Nat) : (countPort s p k add).histLost = s.histLost := rfl
@[simp] theorem countPort_witness (s : State) (p k add : Nat) : (countPort s p k add).witness = s.witness := rfl
@[simp] theorem countPort_lanesUsed (s : State) (p k add : Nat) : (countPort s p k add).lanesUsed = s.lanesUsed := rfl
@[simp] theorem countPort_correctedOnce (s : State) (p k add : Nat) : (countPort s p k add).correctedOnce = s.correctedOnce := rfl
@[simp] theorem countPort_remaps (s : State) (p k add : Nat) : (countPort s p k add).remaps = s.remaps := rfl
@[simp] theorem countPort_pllStandby (s : State) (p k add : Nat) : (countPort s p k add).pllStandby = s.pllStandby := rfl
@[simp] theorem countPort_dieUp (s : State) (p k add : Nat) : (countPort s p k add).dieUp = s.dieUp := rfl
@[simp] theorem countPort_pwren (s : State) (p k add : Nat) : (countPort s p k add).pwren = s.pwren := rfl
@[simp] theorem countPort_dieReturn (s : State) (p k add : Nat) : (countPort s p k add).dieReturn = s.dieReturn := rfl
@[simp] theorem countPort_dieRail (s : State) (p k add : Nat) : (countPort s p k add).dieRail = s.dieRail := rfl
@[simp] theorem countPort_dieLost (s : State) (p k add : Nat) : (countPort s p k add).dieLost = s.dieLost := rfl
@[simp] theorem countPort_temps (s : State) (p k add : Nat) : (countPort s p k add).temps = s.temps := rfl
@[simp] theorem countPort_hotNow (s : State) (p k add : Nat) : (countPort s p k add).hotNow = s.hotNow := rfl
@[simp] theorem countPort_hotRuns (s : State) (p k add : Nat) : (countPort s p k add).hotRuns = s.hotRuns := rfl
@[simp] theorem countPort_alert (s : State) (p k add : Nat) : (countPort s p k add).alert = s.alert := rfl
@[simp] theorem countPort_pkgShdn (s : State) (p k add : Nat) : (countPort s p k add).pkgShdn = s.pkgShdn := rfl
@[simp] theorem countPort_iodLost (s : State) (p k add : Nat) : (countPort s p k add).iodLost = s.iodLost := rfl
@[simp] theorem countPort_poweredDown (s : State) (p k add : Nat) : (countPort s p k add).poweredDown = s.poweredDown := rfl
@[simp] theorem countPort_mgmt (s : State) (p k add : Nat) : (countPort s p k add).mgmt = s.mgmt := rfl

@[simp] theorem regPut_pending (s : State) (off v : Nat) : (regPut s off v).pending = s.pending := rfl
@[simp] theorem regPut_now (s : State) (off v : Nat) : (regPut s off v).now = s.now := rfl
@[simp] theorem regPut_fresh (s : State) (off v : Nat) : (regPut s off v).fresh = s.fresh := rfl
@[simp] theorem regPut_nextId (s : State) (off v : Nat) : (regPut s off v).nextId = s.nextId := rfl
@[simp] theorem regPut_out (s : State) (off v : Nat) : (regPut s off v).out = s.out := rfl
@[simp] theorem regPut_resetAt (s : State) (off v : Nat) : (regPut s off v).resetAt = s.resetAt := rfl
@[simp] theorem regPut_regs (s : State) (off v : Nat) : (regPut s off v).regs = tsetD s.regs off (BitVec.ofNat 32 (regReset off)) (BitVec.ofNat 32 v) := rfl
@[simp] theorem regPut_tb (s : State) (off v : Nat) : (regPut s off v).tb = s.tb := rfl
@[simp] theorem regPut_links (s : State) (off v : Nat) : (regPut s off v).links = s.links := rfl
@[simp] theorem regPut_rings (s : State) (off v : Nat) : (regPut s off v).rings = s.rings := rfl
@[simp] theorem regPut_cmds (s : State) (off v : Nat) : (regPut s off v).cmds = s.cmds := rfl
@[simp] theorem regPut_rrLast (s : State) (off v : Nat) : (regPut s off v).rrLast = s.rrLast := rfl
@[simp] theorem regPut_srvLast (s : State) (off v : Nat) : (regPut s off v).srvLast = s.srvLast := rfl
@[simp] theorem regPut_srvQps (s : State) (off v : Nat) : (regPut s off v).srvQps = s.srvQps := rfl
@[simp] theorem regPut_setCycle (s : State) (off v : Nat) : (regPut s off v).setCycle = s.setCycle := rfl
@[simp] theorem regPut_setBits (s : State) (off v : Nat) : (regPut s off v).setBits = s.setBits := rfl
@[simp] theorem regPut_mrs (s : State) (off v : Nat) : (regPut s off v).mrs = s.mrs := rfl
@[simp] theorem regPut_instances (s : State) (off v : Nat) : (regPut s off v).instances = s.instances := rfl
@[simp] theorem regPut_clusters (s : State) (off v : Nat) : (regPut s off v).clusters = s.clusters := rfl
@[simp] theorem regPut_units (s : State) (off v : Nat) : (regPut s off v).units = s.units := rfl
@[simp] theorem regPut_replySeq (s : State) (off v : Nat) : (regPut s off v).replySeq = s.replySeq := rfl
@[simp] theorem regPut_bindCounters (s : State) (off v : Nat) : (regPut s off v).bindCounters = s.bindCounters := rfl
@[simp] theorem regPut_tables (s : State) (off v : Nat) : (regPut s off v).tables = s.tables := rfl
@[simp] theorem regPut_tablesOld (s : State) (off v : Nat) : (regPut s off v).tablesOld = s.tablesOld := rfl
@[simp] theorem regPut_msgs (s : State) (off v : Nat) : (regPut s off v).msgs = s.msgs := rfl
@[simp] theorem regPut_cores (s : State) (off v : Nat) : (regPut s off v).cores = s.cores := rfl
@[simp] theorem regPut_inqs (s : State) (off v : Nat) : (regPut s off v).inqs = s.inqs := rfl
@[simp] theorem regPut_xfifos (s : State) (off v : Nat) : (regPut s off v).xfifos = s.xfifos := rfl
@[simp] theorem regPut_coreFired (s : State) (off v : Nat) : (regPut s off v).coreFired = s.coreFired := rfl
@[simp] theorem regPut_exitSlots (s : State) (off v : Nat) : (regPut s off v).exitSlots = s.exitSlots := rfl
@[simp] theorem regPut_csram (s : State) (off v : Nat) : (regPut s off v).csram = s.csram := rfl
@[simp] theorem regPut_clsram (s : State) (off v : Nat) : (regPut s off v).clsram = s.clsram := rfl
@[simp] theorem regPut_clPend (s : State) (off v : Nat) : (regPut s off v).clPend = s.clPend := rfl
@[simp] theorem regPut_joinSince (s : State) (off v : Nat) : (regPut s off v).joinSince = s.joinSince := rfl
@[simp] theorem regPut_joinDone (s : State) (off v : Nat) : (regPut s off v).joinDone = s.joinDone := rfl
@[simp] theorem regPut_wdogPrev (s : State) (off v : Nat) : (regPut s off v).wdogPrev = s.wdogPrev := rfl
@[simp] theorem regPut_noStall (s : State) (off v : Nat) : (regPut s off v).noStall = s.noStall := rfl
@[simp] theorem regPut_hbm (s : State) (off v : Nat) : (regPut s off v).hbm = s.hbm := rfl
@[simp] theorem regPut_regions (s : State) (off v : Nat) : (regPut s off v).regions = s.regions := rfl
@[simp] theorem regPut_freeBlocks (s : State) (off v : Nat) : (regPut s off v).freeBlocks = s.freeBlocks := rfl
@[simp] theorem regPut_hbmJobs (s : State) (off v : Nat) : (regPut s off v).hbmJobs = s.hbmJobs := rfl
@[simp] theorem regPut_split (s : State) (off v : Nat) : (regPut s off v).split = s.split := rfl
@[simp] theorem regPut_splitCmd (s : State) (off v : Nat) : (regPut s off v).splitCmd = s.splitCmd := rfl
@[simp] theorem regPut_ports (s : State) (off v : Nat) : (regPut s off v).ports = s.ports := rfl
@[simp] theorem regPut_buckets (s : State) (off v : Nat) : (regPut s off v).buckets = s.buckets := rfl
@[simp] theorem regPut_rxBufUsed (s : State) (off v : Nat) : (regPut s off v).rxBufUsed = s.rxBufUsed := rfl
@[simp] theorem regPut_tlmMask (s : State) (off v : Nat) : (regPut s off v).tlmMask = s.tlmMask := rfl
@[simp] theorem regPut_tlmOn (s : State) (off v : Nat) : (regPut s off v).tlmOn = s.tlmOn := rfl
@[simp] theorem regPut_tlmGap (s : State) (off v : Nat) : (regPut s off v).tlmGap = s.tlmGap := rfl
@[simp] theorem regPut_lfsr (s : State) (off v : Nat) : (regPut s off v).lfsr = s.lfsr := rfl
@[simp] theorem regPut_filters (s : State) (off v : Nat) : (regPut s off v).filters = s.filters := rfl
@[simp] theorem regPut_filtersOld (s : State) (off v : Nat) : (regPut s off v).filtersOld = s.filtersOld := rfl
@[simp] theorem regPut_filtersLapsed (s : State) (off v : Nat) : (regPut s off v).filtersLapsed = s.filtersLapsed := rfl
@[simp] theorem regPut_qps (s : State) (off v : Nat) : (regPut s off v).qps = s.qps := rfl
@[simp] theorem regPut_peers (s : State) (off v : Nat) : (regPut s off v).peers = s.peers := rfl
@[simp] theorem regPut_services (s : State) (off v : Nat) : (regPut s off v).services = s.services := rfl
@[simp] theorem regPut_results (s : State) (off v : Nat) : (regPut s off v).results = s.results := rfl
@[simp] theorem regPut_arms (s : State) (off v : Nat) : (regPut s off v).arms = s.arms := rfl
@[simp] theorem regPut_armStops (s : State) (off v : Nat) : (regPut s off v).armStops = s.armStops := rfl
@[simp] theorem regPut_errors (s : State) (off v : Nat) : (regPut s off v).errors = s.errors := rfl
@[simp] theorem regPut_retired (s : State) (off v : Nat) : (regPut s off v).retired = s.retired := rfl
@[simp] theorem regPut_byHand (s : State) (off v : Nat) : (regPut s off v).byHand = s.byHand := rfl
@[simp] theorem regPut_shifts (s : State) (off v : Nat) : (regPut s off v).shifts = s.shifts := rfl
@[simp] theorem regPut_shiftPend (s : State) (off v : Nat) : (regPut s off v).shiftPend = s.shiftPend := rfl
@[simp] theorem regPut_history (s : State) (off v : Nat) : (regPut s off v).history = s.history := rfl
@[simp] theorem regPut_histLost (s : State) (off v : Nat) : (regPut s off v).histLost = s.histLost := rfl
@[simp] theorem regPut_witness (s : State) (off v : Nat) : (regPut s off v).witness = s.witness := rfl
@[simp] theorem regPut_lanesUsed (s : State) (off v : Nat) : (regPut s off v).lanesUsed = s.lanesUsed := rfl
@[simp] theorem regPut_correctedOnce (s : State) (off v : Nat) : (regPut s off v).correctedOnce = s.correctedOnce := rfl
@[simp] theorem regPut_remaps (s : State) (off v : Nat) : (regPut s off v).remaps = s.remaps := rfl
@[simp] theorem regPut_pllStandby (s : State) (off v : Nat) : (regPut s off v).pllStandby = s.pllStandby := rfl
@[simp] theorem regPut_dieUp (s : State) (off v : Nat) : (regPut s off v).dieUp = s.dieUp := rfl
@[simp] theorem regPut_pwren (s : State) (off v : Nat) : (regPut s off v).pwren = s.pwren := rfl
@[simp] theorem regPut_dieReturn (s : State) (off v : Nat) : (regPut s off v).dieReturn = s.dieReturn := rfl
@[simp] theorem regPut_dieRail (s : State) (off v : Nat) : (regPut s off v).dieRail = s.dieRail := rfl
@[simp] theorem regPut_dieLost (s : State) (off v : Nat) : (regPut s off v).dieLost = s.dieLost := rfl
@[simp] theorem regPut_temps (s : State) (off v : Nat) : (regPut s off v).temps = s.temps := rfl
@[simp] theorem regPut_hotNow (s : State) (off v : Nat) : (regPut s off v).hotNow = s.hotNow := rfl
@[simp] theorem regPut_hotRuns (s : State) (off v : Nat) : (regPut s off v).hotRuns = s.hotRuns := rfl
@[simp] theorem regPut_alert (s : State) (off v : Nat) : (regPut s off v).alert = s.alert := rfl
@[simp] theorem regPut_pkgShdn (s : State) (off v : Nat) : (regPut s off v).pkgShdn = s.pkgShdn := rfl
@[simp] theorem regPut_iodLost (s : State) (off v : Nat) : (regPut s off v).iodLost = s.iodLost := rfl
@[simp] theorem regPut_poweredDown (s : State) (off v : Nat) : (regPut s off v).poweredDown = s.poweredDown := rfl
@[simp] theorem regPut_mgmt (s : State) (off v : Nat) : (regPut s off v).mgmt = s.mgmt := rfl

@[simp] theorem regOr_pending (s : State) (off mask : Nat) : (regOr s off mask).pending = s.pending := rfl
@[simp] theorem regOr_now (s : State) (off mask : Nat) : (regOr s off mask).now = s.now := rfl
@[simp] theorem regOr_fresh (s : State) (off mask : Nat) : (regOr s off mask).fresh = s.fresh := rfl
@[simp] theorem regOr_nextId (s : State) (off mask : Nat) : (regOr s off mask).nextId = s.nextId := rfl
@[simp] theorem regOr_out (s : State) (off mask : Nat) : (regOr s off mask).out = s.out := rfl
@[simp] theorem regOr_resetAt (s : State) (off mask : Nat) : (regOr s off mask).resetAt = s.resetAt := rfl
@[simp] theorem regOr_tb (s : State) (off mask : Nat) : (regOr s off mask).tb = s.tb := rfl
@[simp] theorem regOr_links (s : State) (off mask : Nat) : (regOr s off mask).links = s.links := rfl
@[simp] theorem regOr_rings (s : State) (off mask : Nat) : (regOr s off mask).rings = s.rings := rfl
@[simp] theorem regOr_cmds (s : State) (off mask : Nat) : (regOr s off mask).cmds = s.cmds := rfl
@[simp] theorem regOr_rrLast (s : State) (off mask : Nat) : (regOr s off mask).rrLast = s.rrLast := rfl
@[simp] theorem regOr_srvLast (s : State) (off mask : Nat) : (regOr s off mask).srvLast = s.srvLast := rfl
@[simp] theorem regOr_srvQps (s : State) (off mask : Nat) : (regOr s off mask).srvQps = s.srvQps := rfl
@[simp] theorem regOr_mrs (s : State) (off mask : Nat) : (regOr s off mask).mrs = s.mrs := rfl
@[simp] theorem regOr_instances (s : State) (off mask : Nat) : (regOr s off mask).instances = s.instances := rfl
@[simp] theorem regOr_clusters (s : State) (off mask : Nat) : (regOr s off mask).clusters = s.clusters := rfl
@[simp] theorem regOr_units (s : State) (off mask : Nat) : (regOr s off mask).units = s.units := rfl
@[simp] theorem regOr_replySeq (s : State) (off mask : Nat) : (regOr s off mask).replySeq = s.replySeq := rfl
@[simp] theorem regOr_bindCounters (s : State) (off mask : Nat) : (regOr s off mask).bindCounters = s.bindCounters := rfl
@[simp] theorem regOr_tables (s : State) (off mask : Nat) : (regOr s off mask).tables = s.tables := rfl
@[simp] theorem regOr_tablesOld (s : State) (off mask : Nat) : (regOr s off mask).tablesOld = s.tablesOld := rfl
@[simp] theorem regOr_msgs (s : State) (off mask : Nat) : (regOr s off mask).msgs = s.msgs := rfl
@[simp] theorem regOr_cores (s : State) (off mask : Nat) : (regOr s off mask).cores = s.cores := rfl
@[simp] theorem regOr_inqs (s : State) (off mask : Nat) : (regOr s off mask).inqs = s.inqs := rfl
@[simp] theorem regOr_xfifos (s : State) (off mask : Nat) : (regOr s off mask).xfifos = s.xfifos := rfl
@[simp] theorem regOr_coreFired (s : State) (off mask : Nat) : (regOr s off mask).coreFired = s.coreFired := rfl
@[simp] theorem regOr_exitSlots (s : State) (off mask : Nat) : (regOr s off mask).exitSlots = s.exitSlots := rfl
@[simp] theorem regOr_csram (s : State) (off mask : Nat) : (regOr s off mask).csram = s.csram := rfl
@[simp] theorem regOr_clsram (s : State) (off mask : Nat) : (regOr s off mask).clsram = s.clsram := rfl
@[simp] theorem regOr_clPend (s : State) (off mask : Nat) : (regOr s off mask).clPend = s.clPend := rfl
@[simp] theorem regOr_joinSince (s : State) (off mask : Nat) : (regOr s off mask).joinSince = s.joinSince := rfl
@[simp] theorem regOr_joinDone (s : State) (off mask : Nat) : (regOr s off mask).joinDone = s.joinDone := rfl
@[simp] theorem regOr_wdogPrev (s : State) (off mask : Nat) : (regOr s off mask).wdogPrev = s.wdogPrev := rfl
@[simp] theorem regOr_noStall (s : State) (off mask : Nat) : (regOr s off mask).noStall = s.noStall := rfl
@[simp] theorem regOr_hbm (s : State) (off mask : Nat) : (regOr s off mask).hbm = s.hbm := rfl
@[simp] theorem regOr_regions (s : State) (off mask : Nat) : (regOr s off mask).regions = s.regions := rfl
@[simp] theorem regOr_freeBlocks (s : State) (off mask : Nat) : (regOr s off mask).freeBlocks = s.freeBlocks := rfl
@[simp] theorem regOr_hbmJobs (s : State) (off mask : Nat) : (regOr s off mask).hbmJobs = s.hbmJobs := rfl
@[simp] theorem regOr_split (s : State) (off mask : Nat) : (regOr s off mask).split = s.split := rfl
@[simp] theorem regOr_splitCmd (s : State) (off mask : Nat) : (regOr s off mask).splitCmd = s.splitCmd := rfl
@[simp] theorem regOr_ports (s : State) (off mask : Nat) : (regOr s off mask).ports = s.ports := rfl
@[simp] theorem regOr_buckets (s : State) (off mask : Nat) : (regOr s off mask).buckets = s.buckets := rfl
@[simp] theorem regOr_rxBufUsed (s : State) (off mask : Nat) : (regOr s off mask).rxBufUsed = s.rxBufUsed := rfl
@[simp] theorem regOr_tlmMask (s : State) (off mask : Nat) : (regOr s off mask).tlmMask = s.tlmMask := rfl
@[simp] theorem regOr_tlmOn (s : State) (off mask : Nat) : (regOr s off mask).tlmOn = s.tlmOn := rfl
@[simp] theorem regOr_tlmGap (s : State) (off mask : Nat) : (regOr s off mask).tlmGap = s.tlmGap := rfl
@[simp] theorem regOr_lfsr (s : State) (off mask : Nat) : (regOr s off mask).lfsr = s.lfsr := rfl
@[simp] theorem regOr_filters (s : State) (off mask : Nat) : (regOr s off mask).filters = s.filters := rfl
@[simp] theorem regOr_filtersOld (s : State) (off mask : Nat) : (regOr s off mask).filtersOld = s.filtersOld := rfl
@[simp] theorem regOr_filtersLapsed (s : State) (off mask : Nat) : (regOr s off mask).filtersLapsed = s.filtersLapsed := rfl
@[simp] theorem regOr_qps (s : State) (off mask : Nat) : (regOr s off mask).qps = s.qps := rfl
@[simp] theorem regOr_peers (s : State) (off mask : Nat) : (regOr s off mask).peers = s.peers := rfl
@[simp] theorem regOr_services (s : State) (off mask : Nat) : (regOr s off mask).services = s.services := rfl
@[simp] theorem regOr_results (s : State) (off mask : Nat) : (regOr s off mask).results = s.results := rfl
@[simp] theorem regOr_arms (s : State) (off mask : Nat) : (regOr s off mask).arms = s.arms := rfl
@[simp] theorem regOr_armStops (s : State) (off mask : Nat) : (regOr s off mask).armStops = s.armStops := rfl
@[simp] theorem regOr_errors (s : State) (off mask : Nat) : (regOr s off mask).errors = s.errors := rfl
@[simp] theorem regOr_retired (s : State) (off mask : Nat) : (regOr s off mask).retired = s.retired := rfl
@[simp] theorem regOr_byHand (s : State) (off mask : Nat) : (regOr s off mask).byHand = s.byHand := rfl
@[simp] theorem regOr_shifts (s : State) (off mask : Nat) : (regOr s off mask).shifts = s.shifts := rfl
@[simp] theorem regOr_shiftPend (s : State) (off mask : Nat) : (regOr s off mask).shiftPend = s.shiftPend := rfl
@[simp] theorem regOr_history (s : State) (off mask : Nat) : (regOr s off mask).history = s.history := rfl
@[simp] theorem regOr_histLost (s : State) (off mask : Nat) : (regOr s off mask).histLost = s.histLost := rfl
@[simp] theorem regOr_witness (s : State) (off mask : Nat) : (regOr s off mask).witness = s.witness := rfl
@[simp] theorem regOr_lanesUsed (s : State) (off mask : Nat) : (regOr s off mask).lanesUsed = s.lanesUsed := rfl
@[simp] theorem regOr_correctedOnce (s : State) (off mask : Nat) : (regOr s off mask).correctedOnce = s.correctedOnce := rfl
@[simp] theorem regOr_remaps (s : State) (off mask : Nat) : (regOr s off mask).remaps = s.remaps := rfl
@[simp] theorem regOr_pllStandby (s : State) (off mask : Nat) : (regOr s off mask).pllStandby = s.pllStandby := rfl
@[simp] theorem regOr_dieUp (s : State) (off mask : Nat) : (regOr s off mask).dieUp = s.dieUp := rfl
@[simp] theorem regOr_pwren (s : State) (off mask : Nat) : (regOr s off mask).pwren = s.pwren := rfl
@[simp] theorem regOr_dieReturn (s : State) (off mask : Nat) : (regOr s off mask).dieReturn = s.dieReturn := rfl
@[simp] theorem regOr_dieRail (s : State) (off mask : Nat) : (regOr s off mask).dieRail = s.dieRail := rfl
@[simp] theorem regOr_dieLost (s : State) (off mask : Nat) : (regOr s off mask).dieLost = s.dieLost := rfl
@[simp] theorem regOr_temps (s : State) (off mask : Nat) : (regOr s off mask).temps = s.temps := rfl
@[simp] theorem regOr_hotNow (s : State) (off mask : Nat) : (regOr s off mask).hotNow = s.hotNow := rfl
@[simp] theorem regOr_hotRuns (s : State) (off mask : Nat) : (regOr s off mask).hotRuns = s.hotRuns := rfl
@[simp] theorem regOr_alert (s : State) (off mask : Nat) : (regOr s off mask).alert = s.alert := rfl
@[simp] theorem regOr_pkgShdn (s : State) (off mask : Nat) : (regOr s off mask).pkgShdn = s.pkgShdn := rfl
@[simp] theorem regOr_iodLost (s : State) (off mask : Nat) : (regOr s off mask).iodLost = s.iodLost := rfl
@[simp] theorem regOr_poweredDown (s : State) (off mask : Nat) : (regOr s off mask).poweredDown = s.poweredDown := rfl
@[simp] theorem regOr_mgmt (s : State) (off mask : Nat) : (regOr s off mask).mgmt = s.mgmt := rfl

@[simp] theorem regClr_pending (s : State) (off mask : Nat) : (regClr s off mask).pending = s.pending := rfl
@[simp] theorem regClr_now (s : State) (off mask : Nat) : (regClr s off mask).now = s.now := rfl
@[simp] theorem regClr_fresh (s : State) (off mask : Nat) : (regClr s off mask).fresh = s.fresh := rfl
@[simp] theorem regClr_nextId (s : State) (off mask : Nat) : (regClr s off mask).nextId = s.nextId := rfl
@[simp] theorem regClr_out (s : State) (off mask : Nat) : (regClr s off mask).out = s.out := rfl
@[simp] theorem regClr_resetAt (s : State) (off mask : Nat) : (regClr s off mask).resetAt = s.resetAt := rfl
@[simp] theorem regClr_tb (s : State) (off mask : Nat) : (regClr s off mask).tb = s.tb := rfl
@[simp] theorem regClr_links (s : State) (off mask : Nat) : (regClr s off mask).links = s.links := rfl
@[simp] theorem regClr_rings (s : State) (off mask : Nat) : (regClr s off mask).rings = s.rings := rfl
@[simp] theorem regClr_cmds (s : State) (off mask : Nat) : (regClr s off mask).cmds = s.cmds := rfl
@[simp] theorem regClr_rrLast (s : State) (off mask : Nat) : (regClr s off mask).rrLast = s.rrLast := rfl
@[simp] theorem regClr_srvLast (s : State) (off mask : Nat) : (regClr s off mask).srvLast = s.srvLast := rfl
@[simp] theorem regClr_srvQps (s : State) (off mask : Nat) : (regClr s off mask).srvQps = s.srvQps := rfl
@[simp] theorem regClr_setCycle (s : State) (off mask : Nat) : (regClr s off mask).setCycle = s.setCycle := rfl
@[simp] theorem regClr_setBits (s : State) (off mask : Nat) : (regClr s off mask).setBits = s.setBits := rfl
@[simp] theorem regClr_mrs (s : State) (off mask : Nat) : (regClr s off mask).mrs = s.mrs := rfl
@[simp] theorem regClr_instances (s : State) (off mask : Nat) : (regClr s off mask).instances = s.instances := rfl
@[simp] theorem regClr_clusters (s : State) (off mask : Nat) : (regClr s off mask).clusters = s.clusters := rfl
@[simp] theorem regClr_units (s : State) (off mask : Nat) : (regClr s off mask).units = s.units := rfl
@[simp] theorem regClr_replySeq (s : State) (off mask : Nat) : (regClr s off mask).replySeq = s.replySeq := rfl
@[simp] theorem regClr_bindCounters (s : State) (off mask : Nat) : (regClr s off mask).bindCounters = s.bindCounters := rfl
@[simp] theorem regClr_tables (s : State) (off mask : Nat) : (regClr s off mask).tables = s.tables := rfl
@[simp] theorem regClr_tablesOld (s : State) (off mask : Nat) : (regClr s off mask).tablesOld = s.tablesOld := rfl
@[simp] theorem regClr_msgs (s : State) (off mask : Nat) : (regClr s off mask).msgs = s.msgs := rfl
@[simp] theorem regClr_cores (s : State) (off mask : Nat) : (regClr s off mask).cores = s.cores := rfl
@[simp] theorem regClr_inqs (s : State) (off mask : Nat) : (regClr s off mask).inqs = s.inqs := rfl
@[simp] theorem regClr_xfifos (s : State) (off mask : Nat) : (regClr s off mask).xfifos = s.xfifos := rfl
@[simp] theorem regClr_coreFired (s : State) (off mask : Nat) : (regClr s off mask).coreFired = s.coreFired := rfl
@[simp] theorem regClr_exitSlots (s : State) (off mask : Nat) : (regClr s off mask).exitSlots = s.exitSlots := rfl
@[simp] theorem regClr_csram (s : State) (off mask : Nat) : (regClr s off mask).csram = s.csram := rfl
@[simp] theorem regClr_clsram (s : State) (off mask : Nat) : (regClr s off mask).clsram = s.clsram := rfl
@[simp] theorem regClr_clPend (s : State) (off mask : Nat) : (regClr s off mask).clPend = s.clPend := rfl
@[simp] theorem regClr_joinSince (s : State) (off mask : Nat) : (regClr s off mask).joinSince = s.joinSince := rfl
@[simp] theorem regClr_joinDone (s : State) (off mask : Nat) : (regClr s off mask).joinDone = s.joinDone := rfl
@[simp] theorem regClr_wdogPrev (s : State) (off mask : Nat) : (regClr s off mask).wdogPrev = s.wdogPrev := rfl
@[simp] theorem regClr_noStall (s : State) (off mask : Nat) : (regClr s off mask).noStall = s.noStall := rfl
@[simp] theorem regClr_hbm (s : State) (off mask : Nat) : (regClr s off mask).hbm = s.hbm := rfl
@[simp] theorem regClr_regions (s : State) (off mask : Nat) : (regClr s off mask).regions = s.regions := rfl
@[simp] theorem regClr_freeBlocks (s : State) (off mask : Nat) : (regClr s off mask).freeBlocks = s.freeBlocks := rfl
@[simp] theorem regClr_hbmJobs (s : State) (off mask : Nat) : (regClr s off mask).hbmJobs = s.hbmJobs := rfl
@[simp] theorem regClr_split (s : State) (off mask : Nat) : (regClr s off mask).split = s.split := rfl
@[simp] theorem regClr_splitCmd (s : State) (off mask : Nat) : (regClr s off mask).splitCmd = s.splitCmd := rfl
@[simp] theorem regClr_ports (s : State) (off mask : Nat) : (regClr s off mask).ports = s.ports := rfl
@[simp] theorem regClr_buckets (s : State) (off mask : Nat) : (regClr s off mask).buckets = s.buckets := rfl
@[simp] theorem regClr_rxBufUsed (s : State) (off mask : Nat) : (regClr s off mask).rxBufUsed = s.rxBufUsed := rfl
@[simp] theorem regClr_tlmMask (s : State) (off mask : Nat) : (regClr s off mask).tlmMask = s.tlmMask := rfl
@[simp] theorem regClr_tlmOn (s : State) (off mask : Nat) : (regClr s off mask).tlmOn = s.tlmOn := rfl
@[simp] theorem regClr_tlmGap (s : State) (off mask : Nat) : (regClr s off mask).tlmGap = s.tlmGap := rfl
@[simp] theorem regClr_lfsr (s : State) (off mask : Nat) : (regClr s off mask).lfsr = s.lfsr := rfl
@[simp] theorem regClr_filters (s : State) (off mask : Nat) : (regClr s off mask).filters = s.filters := rfl
@[simp] theorem regClr_filtersOld (s : State) (off mask : Nat) : (regClr s off mask).filtersOld = s.filtersOld := rfl
@[simp] theorem regClr_filtersLapsed (s : State) (off mask : Nat) : (regClr s off mask).filtersLapsed = s.filtersLapsed := rfl
@[simp] theorem regClr_qps (s : State) (off mask : Nat) : (regClr s off mask).qps = s.qps := rfl
@[simp] theorem regClr_peers (s : State) (off mask : Nat) : (regClr s off mask).peers = s.peers := rfl
@[simp] theorem regClr_services (s : State) (off mask : Nat) : (regClr s off mask).services = s.services := rfl
@[simp] theorem regClr_results (s : State) (off mask : Nat) : (regClr s off mask).results = s.results := rfl
@[simp] theorem regClr_arms (s : State) (off mask : Nat) : (regClr s off mask).arms = s.arms := rfl
@[simp] theorem regClr_armStops (s : State) (off mask : Nat) : (regClr s off mask).armStops = s.armStops := rfl
@[simp] theorem regClr_errors (s : State) (off mask : Nat) : (regClr s off mask).errors = s.errors := rfl
@[simp] theorem regClr_retired (s : State) (off mask : Nat) : (regClr s off mask).retired = s.retired := rfl
@[simp] theorem regClr_byHand (s : State) (off mask : Nat) : (regClr s off mask).byHand = s.byHand := rfl
@[simp] theorem regClr_shifts (s : State) (off mask : Nat) : (regClr s off mask).shifts = s.shifts := rfl
@[simp] theorem regClr_shiftPend (s : State) (off mask : Nat) : (regClr s off mask).shiftPend = s.shiftPend := rfl
@[simp] theorem regClr_history (s : State) (off mask : Nat) : (regClr s off mask).history = s.history := rfl
@[simp] theorem regClr_histLost (s : State) (off mask : Nat) : (regClr s off mask).histLost = s.histLost := rfl
@[simp] theorem regClr_witness (s : State) (off mask : Nat) : (regClr s off mask).witness = s.witness := rfl
@[simp] theorem regClr_lanesUsed (s : State) (off mask : Nat) : (regClr s off mask).lanesUsed = s.lanesUsed := rfl
@[simp] theorem regClr_correctedOnce (s : State) (off mask : Nat) : (regClr s off mask).correctedOnce = s.correctedOnce := rfl
@[simp] theorem regClr_remaps (s : State) (off mask : Nat) : (regClr s off mask).remaps = s.remaps := rfl
@[simp] theorem regClr_pllStandby (s : State) (off mask : Nat) : (regClr s off mask).pllStandby = s.pllStandby := rfl
@[simp] theorem regClr_dieUp (s : State) (off mask : Nat) : (regClr s off mask).dieUp = s.dieUp := rfl
@[simp] theorem regClr_pwren (s : State) (off mask : Nat) : (regClr s off mask).pwren = s.pwren := rfl
@[simp] theorem regClr_dieReturn (s : State) (off mask : Nat) : (regClr s off mask).dieReturn = s.dieReturn := rfl
@[simp] theorem regClr_dieRail (s : State) (off mask : Nat) : (regClr s off mask).dieRail = s.dieRail := rfl
@[simp] theorem regClr_dieLost (s : State) (off mask : Nat) : (regClr s off mask).dieLost = s.dieLost := rfl
@[simp] theorem regClr_temps (s : State) (off mask : Nat) : (regClr s off mask).temps = s.temps := rfl
@[simp] theorem regClr_hotNow (s : State) (off mask : Nat) : (regClr s off mask).hotNow = s.hotNow := rfl
@[simp] theorem regClr_hotRuns (s : State) (off mask : Nat) : (regClr s off mask).hotRuns = s.hotRuns := rfl
@[simp] theorem regClr_alert (s : State) (off mask : Nat) : (regClr s off mask).alert = s.alert := rfl
@[simp] theorem regClr_pkgShdn (s : State) (off mask : Nat) : (regClr s off mask).pkgShdn = s.pkgShdn := rfl
@[simp] theorem regClr_iodLost (s : State) (off mask : Nat) : (regClr s off mask).iodLost = s.iodLost := rfl
@[simp] theorem regClr_poweredDown (s : State) (off mask : Nat) : (regClr s off mask).poweredDown = s.poweredDown := rfl
@[simp] theorem regClr_mgmt (s : State) (off mask : Nat) : (regClr s off mask).mgmt = s.mgmt := rfl

@[simp] theorem regAdd_pending (s : State) (off n : Nat) : (regAdd s off n).pending = s.pending := rfl
@[simp] theorem regAdd_now (s : State) (off n : Nat) : (regAdd s off n).now = s.now := rfl
@[simp] theorem regAdd_fresh (s : State) (off n : Nat) : (regAdd s off n).fresh = s.fresh := rfl
@[simp] theorem regAdd_nextId (s : State) (off n : Nat) : (regAdd s off n).nextId = s.nextId := rfl
@[simp] theorem regAdd_out (s : State) (off n : Nat) : (regAdd s off n).out = s.out := rfl
@[simp] theorem regAdd_resetAt (s : State) (off n : Nat) : (regAdd s off n).resetAt = s.resetAt := rfl
@[simp] theorem regAdd_tb (s : State) (off n : Nat) : (regAdd s off n).tb = s.tb := rfl
@[simp] theorem regAdd_links (s : State) (off n : Nat) : (regAdd s off n).links = s.links := rfl
@[simp] theorem regAdd_rings (s : State) (off n : Nat) : (regAdd s off n).rings = s.rings := rfl
@[simp] theorem regAdd_cmds (s : State) (off n : Nat) : (regAdd s off n).cmds = s.cmds := rfl
@[simp] theorem regAdd_rrLast (s : State) (off n : Nat) : (regAdd s off n).rrLast = s.rrLast := rfl
@[simp] theorem regAdd_srvLast (s : State) (off n : Nat) : (regAdd s off n).srvLast = s.srvLast := rfl
@[simp] theorem regAdd_srvQps (s : State) (off n : Nat) : (regAdd s off n).srvQps = s.srvQps := rfl
@[simp] theorem regAdd_setCycle (s : State) (off n : Nat) : (regAdd s off n).setCycle = s.setCycle := rfl
@[simp] theorem regAdd_setBits (s : State) (off n : Nat) : (regAdd s off n).setBits = s.setBits := rfl
@[simp] theorem regAdd_mrs (s : State) (off n : Nat) : (regAdd s off n).mrs = s.mrs := rfl
@[simp] theorem regAdd_instances (s : State) (off n : Nat) : (regAdd s off n).instances = s.instances := rfl
@[simp] theorem regAdd_clusters (s : State) (off n : Nat) : (regAdd s off n).clusters = s.clusters := rfl
@[simp] theorem regAdd_units (s : State) (off n : Nat) : (regAdd s off n).units = s.units := rfl
@[simp] theorem regAdd_replySeq (s : State) (off n : Nat) : (regAdd s off n).replySeq = s.replySeq := rfl
@[simp] theorem regAdd_bindCounters (s : State) (off n : Nat) : (regAdd s off n).bindCounters = s.bindCounters := rfl
@[simp] theorem regAdd_tables (s : State) (off n : Nat) : (regAdd s off n).tables = s.tables := rfl
@[simp] theorem regAdd_tablesOld (s : State) (off n : Nat) : (regAdd s off n).tablesOld = s.tablesOld := rfl
@[simp] theorem regAdd_msgs (s : State) (off n : Nat) : (regAdd s off n).msgs = s.msgs := rfl
@[simp] theorem regAdd_cores (s : State) (off n : Nat) : (regAdd s off n).cores = s.cores := rfl
@[simp] theorem regAdd_inqs (s : State) (off n : Nat) : (regAdd s off n).inqs = s.inqs := rfl
@[simp] theorem regAdd_xfifos (s : State) (off n : Nat) : (regAdd s off n).xfifos = s.xfifos := rfl
@[simp] theorem regAdd_coreFired (s : State) (off n : Nat) : (regAdd s off n).coreFired = s.coreFired := rfl
@[simp] theorem regAdd_exitSlots (s : State) (off n : Nat) : (regAdd s off n).exitSlots = s.exitSlots := rfl
@[simp] theorem regAdd_csram (s : State) (off n : Nat) : (regAdd s off n).csram = s.csram := rfl
@[simp] theorem regAdd_clsram (s : State) (off n : Nat) : (regAdd s off n).clsram = s.clsram := rfl
@[simp] theorem regAdd_clPend (s : State) (off n : Nat) : (regAdd s off n).clPend = s.clPend := rfl
@[simp] theorem regAdd_joinSince (s : State) (off n : Nat) : (regAdd s off n).joinSince = s.joinSince := rfl
@[simp] theorem regAdd_joinDone (s : State) (off n : Nat) : (regAdd s off n).joinDone = s.joinDone := rfl
@[simp] theorem regAdd_wdogPrev (s : State) (off n : Nat) : (regAdd s off n).wdogPrev = s.wdogPrev := rfl
@[simp] theorem regAdd_noStall (s : State) (off n : Nat) : (regAdd s off n).noStall = s.noStall := rfl
@[simp] theorem regAdd_hbm (s : State) (off n : Nat) : (regAdd s off n).hbm = s.hbm := rfl
@[simp] theorem regAdd_regions (s : State) (off n : Nat) : (regAdd s off n).regions = s.regions := rfl
@[simp] theorem regAdd_freeBlocks (s : State) (off n : Nat) : (regAdd s off n).freeBlocks = s.freeBlocks := rfl
@[simp] theorem regAdd_hbmJobs (s : State) (off n : Nat) : (regAdd s off n).hbmJobs = s.hbmJobs := rfl
@[simp] theorem regAdd_split (s : State) (off n : Nat) : (regAdd s off n).split = s.split := rfl
@[simp] theorem regAdd_splitCmd (s : State) (off n : Nat) : (regAdd s off n).splitCmd = s.splitCmd := rfl
@[simp] theorem regAdd_ports (s : State) (off n : Nat) : (regAdd s off n).ports = s.ports := rfl
@[simp] theorem regAdd_buckets (s : State) (off n : Nat) : (regAdd s off n).buckets = s.buckets := rfl
@[simp] theorem regAdd_rxBufUsed (s : State) (off n : Nat) : (regAdd s off n).rxBufUsed = s.rxBufUsed := rfl
@[simp] theorem regAdd_tlmMask (s : State) (off n : Nat) : (regAdd s off n).tlmMask = s.tlmMask := rfl
@[simp] theorem regAdd_tlmOn (s : State) (off n : Nat) : (regAdd s off n).tlmOn = s.tlmOn := rfl
@[simp] theorem regAdd_tlmGap (s : State) (off n : Nat) : (regAdd s off n).tlmGap = s.tlmGap := rfl
@[simp] theorem regAdd_lfsr (s : State) (off n : Nat) : (regAdd s off n).lfsr = s.lfsr := rfl
@[simp] theorem regAdd_filters (s : State) (off n : Nat) : (regAdd s off n).filters = s.filters := rfl
@[simp] theorem regAdd_filtersOld (s : State) (off n : Nat) : (regAdd s off n).filtersOld = s.filtersOld := rfl
@[simp] theorem regAdd_filtersLapsed (s : State) (off n : Nat) : (regAdd s off n).filtersLapsed = s.filtersLapsed := rfl
@[simp] theorem regAdd_qps (s : State) (off n : Nat) : (regAdd s off n).qps = s.qps := rfl
@[simp] theorem regAdd_peers (s : State) (off n : Nat) : (regAdd s off n).peers = s.peers := rfl
@[simp] theorem regAdd_services (s : State) (off n : Nat) : (regAdd s off n).services = s.services := rfl
@[simp] theorem regAdd_results (s : State) (off n : Nat) : (regAdd s off n).results = s.results := rfl
@[simp] theorem regAdd_arms (s : State) (off n : Nat) : (regAdd s off n).arms = s.arms := rfl
@[simp] theorem regAdd_armStops (s : State) (off n : Nat) : (regAdd s off n).armStops = s.armStops := rfl
@[simp] theorem regAdd_errors (s : State) (off n : Nat) : (regAdd s off n).errors = s.errors := rfl
@[simp] theorem regAdd_retired (s : State) (off n : Nat) : (regAdd s off n).retired = s.retired := rfl
@[simp] theorem regAdd_byHand (s : State) (off n : Nat) : (regAdd s off n).byHand = s.byHand := rfl
@[simp] theorem regAdd_shifts (s : State) (off n : Nat) : (regAdd s off n).shifts = s.shifts := rfl
@[simp] theorem regAdd_shiftPend (s : State) (off n : Nat) : (regAdd s off n).shiftPend = s.shiftPend := rfl
@[simp] theorem regAdd_history (s : State) (off n : Nat) : (regAdd s off n).history = s.history := rfl
@[simp] theorem regAdd_histLost (s : State) (off n : Nat) : (regAdd s off n).histLost = s.histLost := rfl
@[simp] theorem regAdd_witness (s : State) (off n : Nat) : (regAdd s off n).witness = s.witness := rfl
@[simp] theorem regAdd_lanesUsed (s : State) (off n : Nat) : (regAdd s off n).lanesUsed = s.lanesUsed := rfl
@[simp] theorem regAdd_correctedOnce (s : State) (off n : Nat) : (regAdd s off n).correctedOnce = s.correctedOnce := rfl
@[simp] theorem regAdd_remaps (s : State) (off n : Nat) : (regAdd s off n).remaps = s.remaps := rfl
@[simp] theorem regAdd_pllStandby (s : State) (off n : Nat) : (regAdd s off n).pllStandby = s.pllStandby := rfl
@[simp] theorem regAdd_dieUp (s : State) (off n : Nat) : (regAdd s off n).dieUp = s.dieUp := rfl
@[simp] theorem regAdd_pwren (s : State) (off n : Nat) : (regAdd s off n).pwren = s.pwren := rfl
@[simp] theorem regAdd_dieReturn (s : State) (off n : Nat) : (regAdd s off n).dieReturn = s.dieReturn := rfl
@[simp] theorem regAdd_dieRail (s : State) (off n : Nat) : (regAdd s off n).dieRail = s.dieRail := rfl
@[simp] theorem regAdd_dieLost (s : State) (off n : Nat) : (regAdd s off n).dieLost = s.dieLost := rfl
@[simp] theorem regAdd_temps (s : State) (off n : Nat) : (regAdd s off n).temps = s.temps := rfl
@[simp] theorem regAdd_hotNow (s : State) (off n : Nat) : (regAdd s off n).hotNow = s.hotNow := rfl
@[simp] theorem regAdd_hotRuns (s : State) (off n : Nat) : (regAdd s off n).hotRuns = s.hotRuns := rfl
@[simp] theorem regAdd_alert (s : State) (off n : Nat) : (regAdd s off n).alert = s.alert := rfl
@[simp] theorem regAdd_pkgShdn (s : State) (off n : Nat) : (regAdd s off n).pkgShdn = s.pkgShdn := rfl
@[simp] theorem regAdd_iodLost (s : State) (off n : Nat) : (regAdd s off n).iodLost = s.iodLost := rfl
@[simp] theorem regAdd_poweredDown (s : State) (off n : Nat) : (regAdd s off n).poweredDown = s.poweredDown := rfl
@[simp] theorem regAdd_mgmt (s : State) (off n : Nat) : (regAdd s off n).mgmt = s.mgmt := rfl

end Sys2Proof.Machine
end

