-- ==== Sys2Proof/WellFormed.lean ====
section
/-! DEFINITION. Which commands name things that the adapter has: ports, dies, links, cores, rings in their ranges. A meaning does
not need it: a command that names nothing has no effect. -/

namespace Sys2Proof

def CmdRing.wf : CmdRing → Bool
  | .admin => true
  | .inst n => n < 1024

/-- The opcodes that R461, R476 and the fault management, live service and firmware commands list. -/
def listedOpcodes : List Nat :=
  [0x01, 0x02, 0x03, 0x04, 0x05, 0x08, 0x09, 0x0C, 0x0D, 0x10, 0x11, 0x12, 0x13, 0x14, 0x18, 0x19, 0x20, 0x21, 0x22, 0x23, 0x28,
   0x30, 0x31, 0x32, 0x33, 0x34, 0x35, 0x36, 0x40, 0x41, 0x42, 0x43] ++ [0x60, 0x61, 0x62, 0x63, 0x64, 0x65, 0x66, 0x67, 0x68, 0x69, 0x6A,
   0x70, 0x71, 0x72, 0x73, 0x74, 0x75, 0x76]

/-- ARGS has 40 bytes (R458), BUF_LEN 4 and OPCODE one; an unlisted OPCODE is not a listed one. -/
def Cmd.wf (d : Cmd) : Bool :=
  d.args.length ≤ 40 && d.bufLen < 2 ^ 32 && d.unlisted.all fun n => n < 256 && !listedOpcodes.contains n

def MemLoc.wf : MemLoc → Bool
  | .coreSram c s a => c < 20480 && s < 4 && a < 65536
  | .clusterSram c s a => c < 1280 && s < 4 && a < 1048576
  | .hbm st pc r _ _ => st < 2 && pc < 64 && r < 1024
  | .buffer p => p < 16

def PllDomain.wf : PllDomain → Bool
  | .core d => d < 4
  | _ => true

def Func.wf : Func → Bool
  | .port p => p < 16
  | .arr cs => cs.all (· < 1280)
  | _ => true

def ReadFor.wf : ReadFor → Bool
  | .workRequest q => q < 262144
  | .command r _ op => r.wf && op < 256
  | .message _ => true
  | .rawTransmit n q => n < 1024 && q < 16
  | .readData q => q < 262144

/-- A doorbell page and a ring of descriptors of 64 bytes each (R430, R433). -/
def pageWf (page : Nat) : Bool := page < 1024
def descsWf (ds : List Bytes) : Bool := ds.all fun b => b.length = 64

/-- Every operand lies in its range. -/
def Instr.wf : Instr → Bool
  | .load r d | .fire r d | .cool r d | .swap r d | .query r d | .bindTable r d | .stats r d | .seqAttach r d
  | .seqDetach r d | .cqCreate r d | .cqModify r d | .cqDestroy r d | .ringCreate r d | .ringDestroy r d | .mrReg r d
  | .mrDereg r d | .qpCreate r d | .qpModifyRtr r d | .qpModifyRts r d | .qpModifyInRts r d | .qpModifyError r d
  | .qpModifyReset r d | .qpQuery r d | .qpDestroy r d | .shape r d | .armCreate r d | .armStart r d | .armStop r d
  | .armDestroy r d | .armPromote r d | .armDemote r d | .armQuery r d | .portSplit r d | .gateCommit r d
  | .gateCommitCancel r d | .timeStep r d | .tlmSet r d | .insCreate r d | .insDestroy r d | .insReset r d | .insShare r d
  | .insClustersAdd r d | .insClustersRemove r d | .hbmRegionCreate r d | .hbmRegionRelease r d | .insLogStart r d
  | .insLogSync r d | .insLogStop r d | .insQuery r d | .fltLog r d | .fltRetire r d | .fltReturn r d | .fltShift r d
  | .fltDieReturn r d | .fwWrite r d | .fwActivate r d => r.wf && d.wf
  | .loadVerifyDone u _ | .swapEntryPoint u | .drainComplete u | .drainBoundExpire u | .scrubComplete u | .genRoundStart u
  | .genResultSend u => u < 1024
  | .shelfPatternSwitch c | .clusterScrubDone c => c < 1280
  | .seqDetachDone q | .seqOpen q | .seqAppend q | .seqDraft q | .seqClose q | .ackCoalExpire q | .wgtPacketSend q
  | .retxTimerExpire q | .rnrDelayExpire q | .creditResume q => q < 262144
  | .insDrainBoundExpire n | .insResetComplete n => n < 1024
  | .hbmScrubDone | .fltShiftBoundExpire | .fwStartTimeout | .mboxComplete | .telemetrySample | .masterLoss | .holdErrUpdate
  | .ppsInEdge | .ppsOut | .iodLoss | .mgmtWatchdog | .mgmtRestartDone | .witnessHoldExpire | .powerDown | .fwFlashWritten
  | .splitConfigInForce | .timRoleApply => true
  | .logSyncDone n l | .dirtyPageMark n l => n < 1024 && l < 2
  | .spareShiftApply d c => d < 4 && c < 16
  | .dieReturnDone d _ cs => d < 4 && cs.all (· < 1280)
  | .fwInfo _ _ | .uptime _ _ | .linkInfo _ _ | .lldpPeer _ _ => true
  | .funcReset _ | .adminEnable _ | .timCapture _ | .pwrLimitWrite _ | .joinWdogWrite _ | .streamPoolWrite _
  | .slewBoundWrite _ | .tsSeedWrite _ => true
  | .tsUserOffsetWrite p _ _ | .loopbackWrite p _ | .pathModeApply p _ => p < 16
  | .calOffsetWrite off _ => 0x2000 ≤ off && off < 0x3000
  | .filterWrite p n _ => p < 16 && n < 512
  | .shaperRateWrite b _ _ => b < 128
  | .registerWrite _ _ _ _ => true
  | .sqDoorbell pg _ ds | .rqDoorbell pg _ ds | .rawTxDoorbell pg _ ds | .rawRxDoorbell pg _ ds => pageWf pg && descsWf ds
  | .cqDoorbell pg _ | .cmdRingDoorbell pg _ | .cmdCplDoorbell pg _ | .eventRingDoorbell pg _ | .tsRingDoorbell pg _
  | .steerRingDoorbell pg _ | .adminRingDoorbell pg _ | .adminCplDoorbell pg _ | .tlmRingDoorbell pg _ => pageWf pg
  | .wrSend q _ | .wrWrite q _ => q < 262144
  | .wrRead q => q < 262144
  | .rawTransmit n q _ => n < 1024 && q < 16
  | .msixModExpire _ => true
  | .frameStart p f _ _ => p < 16 && f.length < 16384
  | .runtDiscard p | .frameClassify p | .frameEnd p | .armBundleReceive p | .wgtDataReceive p | .ackReceive p | .nakReceive p
  | .readRespReceive p | .probeReceive p | .probeReplyReceive p | .pauseReceive p | .transmitSelect p | .gateEntryChange p
  | .gateTakeover p | .linkDown p | .linkUp p | .tsRecordDrain p | .ptpMessageReceive p
  | .lldpReceive p => p < 16
  | .readReqReceive p _ => p < 16
  | .wedgeTokenEmit _ | .windowEnter _ | .entryLate _ | .verdictRelease _ | .guardArbitrate _ | .pTimeoutExpire _
  | .steerHoldExpire _ | .fullResult _ => true
  | .checkResult _ _ _ => true
  | .operationFire c | .routerPass c => c < 20480
  | .crossingTransfer c d l => c < 20480 && d < 4 && 12 ≤ l && l ≤ 14
  | .lpiEnter p | .lpiWake p => p.port < 16
  | .linkParityFail c d s => c < 20480 && d < 4 && s.queue < 4 && s.tag < 4
  | .ucieRetry l _ => l < 4
  | .joinStarved c s e => c < 20480 && s < 4 && e < 256
  | .genTurnStart u k | .genTurnComplete u k => u < 1024 && k < 64
  | .armPeriodStart a | .armTimeLost a => a < 4
  | .armFeedRead a _ _ | .armBundleSend a _ | .armDeadline a _ | .armCollect a _ => a < 4
  | .reorderExpire q p => q < 262144 && p < 16777216
  | .peerSilentExpire _ | .probeIntervalExpire _ => true
  | .pauseExpire p c | .pfcRefresh p c | .xonSend p c | .fcWdogExpire p c => p < 16 && c < 8
  | .ptpMessageSend p _ => p < 16
  | .thermalSample raw => raw.length = 40
  | .domainLoss d => d < 4
  | .pllLoss d => d.wf
  | .coreCheckFail c s => c < 20480 && s < 4
  | .memCorrected m | .memUncorrectable m => m.wf
  | .codewordTest m _ | .patrolRead m _ => m.wf
  | .d2dLaneFail l m n => l < 8 && m < 10 && n < 64
  | .serdesLaneFail l => l < 16
  | .pcRemap st pc => st < 2 && pc < 64
  | .witnessReport rep => rep.status ≤ 0x0E
  | .bpDutyTick l => l < 4
  | .powerOnReset _ => true
  | .functionReady f _ => f.wf
  | .pwrenRaise d _ => d < 4
  | .perstAssertOne l | .pcieLinkDown l => l < 2
  | .smbusRead _ => true
  | .pcieLinkUp l g => l < 2 && 6 ≤ g && g ≤ 7
  | .pcieReadCompletion f | .pcieCompletionTimeout f => f.wf

end Sys2Proof
end

