-- ==== Sys2Proof/Tests/Slice0.lean ====
section
/-! SUPPORT. The model's own tests: ill-formed commands that WellFormed refuses, single steps with results computed by hand from spec/, and for
every statement of Obligations.lean that has hypotheses a concrete state and operands that meet them together (test_met_<statement>, one part for
each clause). -/

namespace Sys2Proof.Tests

open Sys2Proof Machine Claims

-- one theorem after the other: each kernel evaluation in a thread of its own would fill the memory
set_option Elab.async false

-- ------------------------------------------------------------------ small states

/-- ARGS from (offset, size, value) fields. -/
def args (fs : List (Nat × Nat × Nat)) : Bytes := record 40 fs

/-- A command descriptor. -/
def cmd (fs : List (Nat × Nat × Nat)) (buf : Bytes := []) : Cmd := { tag := 7, args := args fs, buf := buf, bufLen := buf.length }

def inst (n : Nat) : Instance :=
  { st := .active, home := 0, pasid0 := some (100 + n),
    shares := { qps := 8, cqs := 8, mrs := 8, units := 8, regions := 8, blocks := 8, gateShare := 100, txRate := 0x1FFFFF, txBurst := 65536,
                rxRate := 0x1FFFFF, rxBurst := 65536 }, key := some 0 }

def cmdRing (n : Nat) : Ring := { kind := rkCmd, owner := n, base := 4096, prod := 1 }
def cplRing (n : Nat) : Ring := { kind := rkCpl, owner := n, base := 8192 }
def cqRing : Ring := { kind := rkCq, owner := 1, number := 5, base := 65536 }

/-- Every function READY, ports 0 and 8 with their links up, instances 0 and 1 with a command waiting on each of their command rings. -/
def up : State :=
  { State.reset with
    now := 6000000000
    regs := [(glbReady, 0x7FF#32), (macStatus 0, 1#32), (macStatus 8, 1#32)]
    links := [(0, { up := true, gen := 6 }), (1, { up := true, gen := 6 })]
    instances := [(0, inst 0), (1, inst 1)]
    rings := [(ringKey rkCq 5, cqRing), (ringKey rkCmd 1, cmdRing 1), (ringKey rkCpl 1, cplRing 1),
      (ringKey rkAdmin 0, { cmdRing 0 with kind := rkAdmin }), (ringKey rkAdminCpl 0, { cplRing 0 with kind := rkAdminCpl })]
    ports := [(0, { linkUp := true, lanes := 8 }), (8, { linkUp := true, lanes := 8 })]
    dieUp := 0xF, dieRail := 0xF, pwren := 0xF }

/-- The same with nothing on the administration ring, so that instance 1's command ring has the turn. -/
def up1 : State := { up with rings := tset up.rings (ringKey rkAdmin 0) { cmdRing 0 with kind := rkAdmin, prod := 0 } }

-- ------------------------------------------------------------------ an image, a plan and an armature

/-- The smallest generation image: one cluster, one entry link, no core record. -/
def genImage : Bytes :=
  record 128 [(0, 4, 0x41565354), (4, 2, 1), (8, 8, 400), (0x10, 1, 1), (0x12, 2, 4)]
  ++ record 32 [(0, 2, 1), (4, 4, 1), (8, 8, 256), (16, 8, 80)] ++ record 32 [(0, 2, 2), (8, 8, 336)] ++ record 32 [(0, 2, 4), (8, 8, 336)]
  ++ record 32 [(0, 2, 0x20), (2, 1, 255), (4, 4, 1), (8, 8, 336), (16, 8, 64)]
  ++ record 80 [(1, 1, 1), (2, 1, 1), (4, 2, 1), (6, 2, 1), (8, 2, 16), (0xA, 2, 1), (0xE, 2, 1), (76, 2, 0), (78, 1, 3)]
  ++ record 64 [(1, 1, 1), (2, 1, 1), (4, 4, 2), (8, 2, 16), (0xA, 2, 16), (0xC, 4, 1), (0x10, 4, 16)]

def loadCmd : Cmd :=
  { tag := 1, args := args [(8, 8, 400), (16, 1, 1), (17, 1, 1)], buf := record 160 [(0, 1, 1)], bufLen := 160, ext := genImage }

/-- Instance 1 owns cluster 0 and has unit 2 on shelf 0 of it. -/
def unit (st : UnitState) : MUnit := { owner := 1, st := st, shelves := [0], clusters := [0] }
def withUnit (u : MUnit) : State := { up1 with clusters := [(0, { owner := some 1 }), (1, { owner := some 1 })], units := [(2, u)] }

/-- A plan of two members, one shard and one feed. -/
def planBytes : Bytes :=
  record 64 [(0, 4, 0x504D5241), (4, 2, 1), (6, 2, 2), (8, 2, 9), (0xA, 2, 1), (0xC, 4, 1), (0x10, 2, 64), (0x14, 4, 16), (0x20, 4, 1000),
    (0x28, 8, 136)]
  ++ record 16 [(0, 2, 1), (8, 2, 2)] ++ record 16 [(2, 2, 1), (4, 2, 2), (6, 2, 2), (8, 4, 16), (12, 4, 1)]
  ++ record 40 [(2, 1, 1), (4, 2, 1), (6, 2, 0xFFFF)]

def armCmd : Cmd :=
  { tag := 1, args := args [], ext := planBytes, bufLen := 80,
    buf := record 80 [(8, 8, 136), (0x10, 2, 1), (0x12, 2, 1), (0x44, 4, 2)] }

/-- Stream 0 is a bundle from shard 0 to itself, stream 1 a feed. -/
def plan : Plan :=
  { armId := 9, periodBeats := 16, timeBound := 1000, members := [(1, 0), (2, 0)],
    shards := [{ num := 0, primary := 1, standby := 2, unit := 2, firing := 16, collectBeat := 1 }],
    streams := [{ num := 0, kind := 0, groups := 1, src := 0, dst := 0, srcLane := 0, srcChan := 0, dstLane := 0, dstChan := 0, windowNs := 100,
                  sendBeat := 2, consumeBeat := 8, pathMax := 0, sendOff := 0, priPort := 0, stbPort := 8, groupMac := 0x010000000000 },
                { num := 1, kind := 1, groups := 1, src := 0xFFFF, dst := 0, srcLane := 0, srcChan := 0, dstLane := 0, dstChan := 1, windowNs := 0,
                  sendBeat := 0, consumeBeat := 0, pathMax := 0, sendOff := 0, priPort := 0, stbPort := 0, groupMac := 0 }] }

def arm (st : ArmState) : Armature := { st := st, owner := 1, plan := plan, member := 1 }
def withArm (a : Armature) : State := { up1 with arms := [(0, a)], tb := { st := .grandmaster } }

/-- One ring and nothing waiting on it. -/
def withRing (k : Nat) (r : Ring) : State := { up with rings := [(k, r)] }
/-- A ring of a kind and owner whose indexes are about to wrap. -/
def wrapRing (kind owner : Nat) (prod : BitVec 32) : Ring := { kind := kind, owner := owner, prod := prod, cons := 0xFFFFFFF0 }
/-- A raw receive buffer of 64 bytes whose reserved bytes hold v. -/
def rawBuf (v : Nat) : Bytes := record 64 [(0, 1, 17), (1, 1, v), (0x18, 4, 64)]
def bell (n index : Nat) : Doorbell := { number := BitVec.ofNat 18 n, index := BitVec.ofNat 32 index }

/-- A generation unit with slot 0 open to QP 9. -/
def genp : GenParams :=
  { service := 15, slots := 64, ingestMax := 64, vocab := 256, maxCtx := 4096, onCtx := 4096, kvBytes := 1024, latBase := 100, ctxCost := 1,
    spillCost := 1, spillBw := [], spillBytes := 0 }
def genSlot : GenSlot := { opened := true, qp := 9, len := 5 }
def genUnit (l : GenSlot) : MUnit := { unit .fired with kind := 1, gen := some genp, slots := [(0, l)] }
def seqMsg (n op : Nat) (fs : List (Nat × Nat × Nat)) : Bytes := record n ([(0, 2, 0x536C), (2, 1, 1), (3, 1, op)] ++ fs)
def seqQp (d : Bytes) : Qp := { owner := 1, st := .rts, service := some (serviceKey 1 15), seqIn := [(0, d)] }
def seqState (d : Bytes) (l : GenSlot) : State := { withUnit (genUnit l) with qps := [(9, seqQp d)], results := [(2, { at_ := 0, qp := 9, data := [] })] }

/-- Cluster 0 runs shelf 0, whose core 0 holds one operation, without queue sources or with N and E. -/
def opW : OpWord := BitVec.ofNat 128 (2 ^ 120)
def joinW : OpWord := BitVec.ofNat 128 (2 ^ 120 + 1024 * 2 ^ 100 + 1040 * 2 ^ 88)
def arr (w : OpWord) : State :=
  { withUnit (unit .fired) with
    clusters := [(0, { owner := some 1, pattern := .single 0 })]
    cores := [(csKey 0 0, { ops := [(0, w)] })]
    inqs := [(qKey 0 0 0, { toks := List.replicate 8 {} })]
    joinSince := [(joinKey 0 0 0, 5)] }

/-- QP 9 of instance 1 in RTS with a request at the head of its send queue, and a memory region. -/
def sendDesc (op : Nat) : Bytes := record 64 [(0, 1, op), (4, 4, 769), (0x10, 8, 4096), (0x18, 4, 512)]
def rtsQp : Qp := { owner := 1, st := .rts, credit := 8 }
def wrState (d : Bytes) : State :=
  { up with
    qps := [(9, rtsQp)], mrs := [(3, { owner := 1, variant := 1, access := 7, addr := 4096, length := 512 })]
    rings := [(ringKey rkSq 9, { kind := rkSq, owner := 1, number := 9, prod := 1, posted := [d] }),
      (rawKey rkRawTx 1 15, { kind := rkRawTx, owner := 1, prod := 1, posted := [d] })] }

/-- A running armature at a network time, with unit 2 FIRED; port 8 has a frame waiting. -/
def armAt (a : Armature) (ns : Nat) : State :=
  { withUnit { unit .fired with arm := some 0 } with arms := [(0, a)], tb := { st := .grandmaster, clock := ns * 2 ^ 48 } }
def rxFrame (data : Bytes) (d : Dest) : RxFrame := { data := data, fcsOk := true, capture := 0, t0 := 0, perByte := 12, dest := some d }
def withFrame (s : State) (f : RxFrame) : State := { s with ports := [(0, { linkUp := true, lanes := 8 }), (8, { linkUp := true, lanes := 8, inbox := [f] })] }
/-- A stream of the plan. -/
def theStream (i : Nat) : Stream :=
  (findStream plan i).getD
    { num := 99, kind := 2, groups := 0, src := 0, dst := 0, srcLane := 0, srcChan := 0, dstLane := 0, dstChan := 0, windowNs := 0, sendBeat := 0,
      consumeBeat := 0, pathMax := 0, sendOff := 0, priPort := 0, stbPort := 0, groupMac := 0 }
/-- The bundle of stream 0 for period 1, its addresses zero and with a CRC32C. -/
def bundleBody : Bytes := ((bundleFrame up (arm .running) (theStream 0) 8 1 false false []).drop 18).take 98
def bundle : Bytes := List.replicate 18 0 ++ bundleBody ++ toBe 4 1477400109

/-- A CRC32C in two stages, so that the kernel's evaluation stays shallow. -/
theorem crc_two (n : Nat) (w : Bytes) (x y : BitVec 32) (h : (w.take n).foldl crcByte 0xFFFFFFFF#32 = x) (h2 : (w.drop n).foldl crcByte x = y) :
    crc32c w = y ^^^ 0xFFFFFFFF#32 := by
  rw [crc32c, ← h2, ← h, ← List.foldl_append, List.take_append_drop]

theorem bundle_check : bundleCheck (arm .running) (theStream 0) bundle = some (List.replicate 8 (.void, 0)) := by
  have h : crc32c (slice bundle 18 (32 + 66 * (theStream 0).groups)) = 1477400109#32 :=
    crc_two 48 _ 2220215#32 (1477400109#32 ^^^ 0xFFFFFFFF#32) (by decide +kernel) (by decide +kernel)
  unfold bundleCheck
  simp only [h]
  decide +kernel
/-- A WGT packet from 10.0.0.2 to a QP, and the QP that accepts it. -/
def packet (op dst src psn crc : Nat) (ext body : Bytes) : Bytes :=
  let w := wgtHeader op (if op < 16 then 3 else 0) (ext.length / 8) dst src psn 0 0 ++ ext ++ body
  List.replicate 12 0 ++ toBe 2 0x0800 ++ toBe 4 (0x45000000 + w.length + 32) ++ toBe 4 0 ++ toBe 4 0x40110000 ++ toBe 4 0x0A000002 ++ toBe 4 0x0A000001
    ++ toBe 2 0xC000 ++ toBe 2 4817 ++ toBe 2 (w.length + 12) ++ toBe 2 0 ++ w ++ toBe 4 crc
def pktQp : Qp := { owner := 1, st := .rts, port := 8, peerIp := 0x0A000002, peerQp := 17 }
def pktState (p : Bytes) : State :=
  { withFrame up1 (rxFrame p (.transport 1)) with qps := [(9, pktQp)], peers := [(0, { port := 8, ip := 0x0A000002, ipv := 4 })] }

theorem ack_crc : (parsePkt (packet 16 262153 17 0 2876632985 [] (List.replicate 56 0))).crcOk = true := by
  have h : crc32c (slice (packet 16 262153 17 0 2876632985 [] (List.replicate 56 0)) 42 88) = 2876632985#32 :=
    crc_two 44 _ 2373784450#32 (2876632985#32 ^^^ 0xFFFFFFFF#32) (by decide +kernel) (by decide +kernel)
  unfold Pkt.crcOk
  rw [show slice (parsePkt (packet 16 262153 17 0 2876632985 [] (List.replicate 56 0))).frame
    (parsePkt (packet 16 262153 17 0 2876632985 [] (List.replicate 56 0))).off
    ((parsePkt (packet 16 262153 17 0 2876632985 [] (List.replicate 56 0))).dgEnd - 4
      - (parsePkt (packet 16 262153 17 0 2876632985 [] (List.replicate 56 0))).off)
    = slice (packet 16 262153 17 0 2876632985 [] (List.replicate 56 0)) 42 88 by decide +kernel, h]
  decide +kernel

/-- Message 4 of unit 2, whose whole window arrived at once. -/
def bind1 : Binding := { number := 63, w := 1, extent := 1 }
def msg : Message := { inst := 1, port := 8, unit := some 2, binding := some bind1, segs := [{ offset := 0, data := [0], t0 := 0, perByte := 12 }] }
def withMsg (m : Message) : State := { withUnit (unit .fired) with msgs := [(4, m)] }

/-- QP 9 with a request of one packet under way. -/
def sendOne : SendWr := { parseSend 0 (sendDesc 1) [] with started := true }
def withQp9 (q : Qp) : State := { up1 with qps := [(9, q)] }
def sending : Qp := { rtsQp with sends := [sendOne], cwnd := 65536 }
def outPkt : OutPkt := { psn := 0, bytes := 512, sentAt := 0, order := 0 }

def txFrame (k : TxKind) : TxFrame := { kind := k, data := List.replicate 60 0 }
def withPort (q : Port) : State := { up with ports := [(0, {}), (8, { q with linkUp := true, lanes := 8 })] }

/-- A register of no port, and of a port in the split. -/
theorem reach_block {s : State} {off : Nat} {d : RegDesc} (h : regDesc off = some d) (h1 : regPort off = none) (h2 : blockReady s off = true) :
    regReached s off d := ⟨h, fun p e => (Option.some_ne_none p (e.symm.trans h1)).elim, h2⟩
theorem reach_port {s : State} {off q : Nat} {d : RegDesc} (h : regDesc off = some d) (h1 : regPort off = some q) (h2 : portExists s q = true)
    (h3 : blockReady s off = true) : regReached s off d := ⟨h, fun p e => by rw [h1] at e; cases e; exact h2, h3⟩

-- ------------------------------------------------------------------ WellFormed refuses, one theorem for each check

theorem test_wf_ring : (CmdRing.inst 1024).wf = false ∧ (Instr.query (.inst 1024) (cmd [])).wf = false ∧ (CmdRing.inst 1023).wf = true := by decide
theorem test_wf_command : (Cmd.wf { args := List.replicate 41 0 }) = false ∧ (Cmd.wf { bufLen := 2 ^ 32 }) = false ∧ (cmd []).wf = true
    ∧ (Cmd.wf { unlisted := some 5 }) = false ∧ (Cmd.wf { unlisted := some 256 }) = false ∧ (Cmd.wf { unlisted := some 0x6F }) = true := by
  decide
theorem test_wf_memory : [MemLoc.coreSram 20480 0 0, .coreSram 0 4 0, .coreSram 0 0 65536, .clusterSram 1280 0 0, .clusterSram 0 4 0,
    .clusterSram 0 0 1048576, .hbm 2 0 0 0 none, .hbm 0 64 0 0 none, .hbm 0 0 1024 0 none, .buffer 16].all (fun m => !m.wf) = true := by decide
theorem test_wf_domain : (PllDomain.core 4).wf = false ∧ (Instr.pllLoss (.core 4)).wf = false := by decide
theorem test_wf_function : (Func.port 16).wf = false ∧ (Func.arr [1280]).wf = false ∧ (Instr.functionReady (.port 16) true).wf = false := by decide
theorem test_wf_read : (ReadFor.workRequest 262144).wf = false ∧ (ReadFor.command (.inst 1024) 0 5).wf = false
    ∧ (ReadFor.command .admin 0 256).wf = false ∧ (ReadFor.rawTransmit 0 16).wf = false ∧ (ReadFor.readData 262144).wf = false := by decide
theorem test_wf_page : pageWf 1024 = false ∧ descsWf [List.replicate 63 0] = false ∧ (Instr.cqDoorbell 1024 {}).wf = false
    ∧ (Instr.sqDoorbell 0 {} [[]]).wf = false := by decide
theorem test_wf_units_and_instances : [Instr.swapEntryPoint 1024, .shelfPatternSwitch 1280, .seqOpen 262144, .insResetComplete 1024,
    .logSyncDone 0 2, .spareShiftApply 4 0, .spareShiftApply 0 16, .dieReturnDone 4 true [], .dieReturnDone 0 true [1280],
    .genTurnStart 1024 0, .genTurnStart 0 64, .armTimeLost 4, .armCollect 4 0].all (fun i => !i.wf) = true := by decide
theorem test_wf_registers : [Instr.tsUserOffsetWrite 16 true 0, .loopbackWrite 16 0, .pathModeApply 16 true, .calOffsetWrite 0x3000 0,
    .filterWrite 16 0 0, .filterWrite 0 512 0, .shaperRateWrite 128 true 0].all (fun i => !i.wf) = true := by decide
theorem test_wf_ports : [Instr.wrRead 262144, .rawTransmit 1024 0 [], .rawTransmit 0 16 [], .frameStart 16 [] {} 0, .frameEnd 16,
    .readReqReceive 16 [], .reorderExpire 262144 0, .reorderExpire 0 16777216, .pauseExpire 16 0, .pauseExpire 0 8,
    .ptpMessageSend 16 .sync].all (fun i => !i.wf) = true := by decide
theorem test_wf_array : [Instr.operationFire 20480, .crossingTransfer 20480 0 12, .crossingTransfer 0 4 12, .crossingTransfer 0 0 11,
    .crossingTransfer 0 0 15, .linkParityFail 20480 0 ⟨0, 0⟩, .linkParityFail 0 4 ⟨0, 0⟩, .linkParityFail 0 0 ⟨4, 0⟩,
    .linkParityFail 0 0 ⟨0, 4⟩, .lpiEnter ⟨16, false⟩, .ucieRetry 4 0,
    .joinStarved 20480 0 0, .joinStarved 0 4 0, .joinStarved 0 0 256].all (fun i => !i.wf) = true := by decide
theorem test_wf_faults : [Instr.thermalSample [], .domainLoss 4, .coreCheckFail 20480 0, .coreCheckFail 0 4, .memCorrected (.buffer 16),
    .codewordTest (.buffer 16) true, .d2dLaneFail 8 0 0, .d2dLaneFail 0 10 0, .d2dLaneFail 0 0 64, .serdesLaneFail 16, .pcRemap 2 0,
    .pcRemap 0 64, .bpDutyTick 4, .pwrenRaise 4 true, .perstAssertOne 2, .pcieLinkUp 2 6, .pcieLinkUp 0 5,
    .pcieReadCompletion (.workRequest 262144)].all (fun i => !i.wf) = true := by decide

-- ------------------------------------------------------------------ single steps, with results computed by hand

/-- The state after a step; s itself where there is none. -/
def after (c : Instr) (s : State) : State := match step { s with pending := [c] } with | .next t => t | _ => s

/-- The published check value of CRC-32C: the nine digits give E3069283. -/
theorem test_crc_check_value : crc32c [0x31, 0x32, 0x33, 0x34, 0x35, 0x36, 0x37, 0x38, 0x39] = 0xE3069283#32 := by decide +kernel
/-- The published check value of CRC-32, which R367's FCS is: the nine digits give CBF43926. -/
theorem test_fcs_check_value : frameFcs [0x31, 0x32, 0x33, 0x34, 0x35, 0x36, 0x37, 0x38, 0x39] = 0xCBF43926#32 := by decide +kernel
/-- R489: the first 32 bytes of IEEE 1619's vector 10 (AES-256, data unit FF, the bytes 0 to 31). -/
theorem test_xts_vector : be (xtsSector 0x27182818284590452353602874713526624977572470936999595749669676273141592653589793238462643383279502884197169399375105820974944592#512
    255 ((List.range 32).map fun i => BitVec.ofNat 8 i)) 0 32 = 0x1c3b3a102f770386e4836c99e370cf9bea00803f5e482357a4ae12d414a3e63b := by decide +kernel
/-- R461: an OPCODE that the table does not list completes with BAD_PARAM (3) under its own number. -/
theorem test_unlisted_opcode :
    (after (.query .admin { tag := 1, unlisted := some 0x6F }) up).out.map (fun o => match o with | .hostWrite _ _ a b => (a, b.take 11) | _ => (0, []))
      = [(8192, [1, 0, 0, 0, 0, 0, 0, 0, 3, 3, 0x6F])] := by decide +kernel
/-- R398: the step that ends a TIME cycle of 1 ns adds 2^48 units of 2^-48 ns; the one before adds nothing. -/
theorem test_clock_advances : (match step { up with now := 599 } with | .next t => t.tb.clock | _ => 0) = 2 ^ 48
    ∧ (match step { up with now := 598 } with | .next t => t.tb.clock | _ => 1) = 0 := by decide +kernel
/-- R372's table: a pause of 65 535 quanta lasts 20 971.2 ns at 1.6 Tb/s. -/
theorem test_pause_time : tget (getPort (applyPause up 8 3 1000 65535) 8).hold 3 = some (1000 + 209712 * 60) := by decide +kernel
/-- R437: entry 63 of a ring of 64 has phase 1 and entry 64, at the ring's first place, phase 0. -/
theorem test_ring_phase :
    (ringPush { up with rings := [(1, { cqRing with prod := 63, cons := 63 })] } 1 (List.replicate 64 0)).out
      = [.hostWrite 0 101 (65536 + 63 * 64) (List.replicate 63 0 ++ [1])]
    ∧ (ringPush { up with rings := [(1, { cqRing with prod := 64, cons := 64 })] } 1 (List.replicate 64 0)).out
      = [.hostWrite 0 101 65536 (List.replicate 64 0)] := by decide +kernel
/-- R459, R458, R453: QUERY of a unit that is not there, taken from the administration ring, completes with BAD_PARAM on its completion ring with its tag, index 0 and opcode. -/
theorem test_completion :
    (after (.query .admin { tag := 0x04030201 }) up).out.map (fun o => match o with | .hostWrite _ _ a b => (a, b.take 11) | _ => (0, []))
      = [(8192, [1, 2, 3, 4, 0, 0, 0, 0, 3, 3, 5])] := by decide +kernel
/-- R435: a producer index 65 ahead of the consumer on a ring of 64 is ignored and counts in RING_OVERRUN. -/
theorem test_ring_overrun :
    tget (getInst (after (.sqDoorbell 1 (bell 9 49) []) (withRing (ringKey rkSq 9) (wrapRing rkSq 1 0xFFFFFFF1))) 1).stats 1 = some 1
    ∧ (getRing (after (.sqDoorbell 1 (bell 9 49) []) (withRing (ringKey rkSq 9) (wrapRing rkSq 1 0xFFFFFFF1))) (ringKey rkSq 9)).map (·.prod)
      = some 0xFFFFFFF1 := by decide +kernel
/-- R114, R117, R104: ADD of a token of all ones on N and the immediate 2 writes 1 to g3 one cycle later, and the token is consumed. -/
def addW : OpWord := BitVec.ofNat 128 (0x10 * 2 ^ 120 + 1024 * 2 ^ 100 + 2048 * 2 ^ 88 + 2 ^ 75 + 3 * 2 ^ 70 + 2)
def addState : State := { arr addW with inqs := [(qKey 0 0 0, { toks := [{ payload := 0xFFFFFFFFFFFFFFFF#64 }] })], joinSince := [] }
theorem test_add_wraps :
    (getCs (after (.operationFire 0) addState) 0 0).pend = [{ due := 16000001, entry := 0, reg := 3, val := 1 }]
    ∧ (getQ (after (.operationFire 0) addState) 0 0 0).toks = [] := by decide +kernel
/-- R114: SUB of the same token and 2 writes FFFFFFFFFFFFFFFD. -/
theorem test_sub_order :
    ((getCs (after (.operationFire 0) { addState with cores := [(csKey 0 0, { ops := [(0, addW + BitVec.ofNat 128 (2 ^ 120))] })] }) 0 0).pend.map
      (·.val)) = [0xFFFFFFFFFFFFFFFD] := by decide +kernel
/-- R110: an access past the end of the core's partition goes on at its start. -/
theorem test_core_wrap :
    readCore (writeCore up 0 { csBase := 256, csSize := 64 } 60 [1, 2, 3, 4, 5, 6, 7, 8]) 0 { csBase := 256, csSize := 64 } 0 4 = [5, 6, 7, 8] := by
  decide +kernel
/-- An empty queue idles: one step, one unit of time, nothing else (log entry 1). -/
theorem test_idle : (match step { up with now := 0 } with | .next t => decide (t = { up with now := 1 }) | _ => false) = true := by decide +kernel
/-- The front of the queue goes first. -/
theorem test_queue : (after (.pcieLinkDown 1) up).pending = [] ∧ (after (.pcieLinkDown 1) up).now = up.now := by decide +kernel

-- ------------------------------------------------------------------ the statements' hypotheses are met

theorem test_met_RingCommandsComplete :
    (∃ (s : State) (r : CmdRing) (d : Cmd) (n : Nat), turn s r ∧ argsOnly d [(0, 11), (16, 8)] = true ∧ argN d 10 1 ≤ 1 ∧ ringShapeOk (argN d 0 4)
    (argN d 16 8) = true ∧ irqOk (argN d 4 2) (argN d 6 2) = true ∧ lowestFrom (fun k => (getRing (taken s r) (ringKey rkCq k)).isNone) 65536 0 =
    some n ∧ ringsOf (taken s r) rkCq (cmdInst r) < (getInst (taken s r) (cmdInst r)).shares.cqs) ∧
    (∃ (s : State) (r : CmdRing) (d : Cmd) (q : Ring), turn s r ∧ argsOnly d [(0, 8)] = true ∧ getRing (taken s r) (ringKey rkCq (argN d 0 2)) =
    some q ∧ q.owner = cmdInst r ∧ irqOk (argN d 2 2) (argN d 4 2) = true) ∧
    (∃ (s : State) (r : CmdRing) (d : Cmd) (q : Ring), turn s r ∧ argsOnly d [(0, 2)] = true ∧ getRing (taken s r) (ringKey rkCq (argN d 0 2)) =
    some q ∧ q.owner = cmdInst r ∧ cqInUse (taken s r) (argN d 0 2) = false) ∧
    (∃ (s : State) (r : CmdRing) (d : Cmd) (kind number key : Nat), turn s r ∧ argsOnly d [(0, 3), (4, 20)] = true ∧ kind = argN d 0 1 ∧ number =
    argN d 1 1 ∧ ringOfKind (cmdInst r) kind number = some key ∧ argN d 2 1 ≤ 1 ∧ ringShapeOk (argN d 4 4) (argN d 16 8) = true ∧ (kind = rkTlm →
    cmdInst r = 0) ∧ (if isRawKind kind then number ≤ 15 ∧ (∃ q, getRing (taken s r) (ringKey rkCq (argN d 8 2)) = some q ∧ q.owner = cmdInst r)
    else number = 0) ∧ (kind = rkEvent ∨ kind = rkTs → irqOk (argN d 10 2) (argN d 12 2) = true) ∧ getRing (taken s r) key = none) ∧
    (∃ (s : State) (r : CmdRing) (d : Cmd) (kind number key : Nat) (q : Ring), turn s r ∧ argsOnly d [(0, 2)] = true ∧ kind = argN d 0 1 ∧ number =
    argN d 1 1 ∧ ringOfKind (cmdInst r) kind number = some key ∧ (kind = rkTlm → cmdInst r = 0) ∧ (if isRawKind kind then number ≤ 15 else number =
    0) ∧ getRing (taken s r) key = some q) :=
  ⟨⟨up1, .inst 1, cmd [(0, 4, 64), (4, 2, 2047), (6, 2, 1), (10, 1, 1), (16, 8, 4096)], 0, by unfold turn; decide +kernel⟩,
  ⟨up1, .inst 1, cmd [(0, 2, 5), (2, 2, 2047), (4, 2, 1)], cqRing, by unfold turn; decide +kernel⟩,
  ⟨up1, .inst 1, cmd [(0, 2, 5)], cqRing, by unfold turn; decide +kernel⟩,
  ⟨up1, .inst 1, cmd [(0, 1, 7), (1, 1, 15), (4, 4, 65536), (8, 2, 5), (16, 8, 4096)], 7, 15, rawKey rkRawRx 1 15, by unfold turn; decide +kernel,
  by decide +kernel, by decide +kernel, (by decide +kernel), by decide +kernel, by decide +kernel, by decide +kernel, (by decide +kernel),
  ⟨by decide +kernel, cqRing, by decide +kernel, by decide +kernel⟩, by decide +kernel⟩,
  ⟨{ up1 with rings := tset up1.rings (ringKey rkEvent 1) { kind := rkEvent, owner := 1 } }, .inst 1, cmd [(0, 1, 5)], 5, 0, ringKey rkEvent 1,
  { kind := rkEvent, owner := 1 }, by unfold turn; decide +kernel⟩⟩

theorem test_met_RegionCommandsComplete :
    (∃ (s : State) (r : CmdRing) (d : Cmd) (n : Nat), turn s r ∧ argsOnly d [(0, 2), (8, 16)] = true ∧ argN d 0 1 ≤ 1 ∧ argN d 1 1 ≤ 7 ∧ 1 ≤ argN d
    16 8 ∧ argN d 16 8 ≤ 2 ^ 40 ∧ lowestFrom (fun k => !((tget (taken s r).mrs k).any (·.live))) 1048576 0 = some n ∧ mrsOf (taken s r) (cmdInst r)
    < (getInst (taken s r) (cmdInst r)).shares.mrs) ∧
    (∃ (s : State) (r : CmdRing) (d : Cmd) (m : MemRegion), turn s r ∧ argsOnly d [(0, 4)] = true ∧ tget (taken s r).mrs (argN d 0 4 / 256) = some m
    ∧ m.live = true ∧ m.variant = argN d 0 4 % 256 ∧ m.owner = cmdInst r ∧ keyInUse (taken s r) (cmdInst r) (argN d 0 4) = false) ∧
    (∃ (s : State) (r : CmdRing) (d : Cmd) (t : Nat), turn s r ∧ ready (taken s r) rdyShp = true ∧ argsOnly d [(0, 2), (4, 12)] = true ∧ t = argN d
    0 1 ∧ t ≤ 3 ∧ argN d 1 1 ≤ 3 ∧ rateOk (argN d 8 4) = true ∧ burstOk (argN d 12 4) = true ∧ (t < 2 → cmdInst r = 0 ∧ argN d 4 4 ≤ 1023 ∧
    instExists (taken s r) (argN d 4 4) = true) ∧ (2 ≤ t → ∃ q, qpByNum (taken s r) (argN d 4 4) = some q ∧ q.2.owner = cmdInst r)) :=
  ⟨⟨up1, .inst 1, cmd [(0, 1, 1), (1, 1, 7), (16, 8, 1099511627776)], 0, by unfold turn; decide +kernel⟩,
  ⟨{ up1 with mrs := [(3, { owner := 1, variant := 2 })] }, .inst 1, cmd [(0, 4, 770)], { owner := 1, variant := 2 },
  by unfold turn; decide +kernel⟩,
  ⟨up, .admin, cmd [(0, 1, 1), (1, 1, 3), (4, 4, 1), (8, 4, 1600000), (12, 4, 64)], 1, by unfold turn; decide +kernel, by decide +kernel,
  by decide +kernel, (by decide +kernel), by decide +kernel, by decide +kernel, by decide +kernel, (by decide +kernel), by decide +kernel, fun h =>
  absurd h (by decide)⟩⟩

theorem test_met_ShelfCommandsComplete :
    (∃ (s : State) (r : CmdRing) (d : Cmd) (u : Nat) (v : Variant), turn s r ∧ d.unlisted = none ∧ admitLoad (taken s r) (cmdInst r) d = .take u v) ∧
    (∃ (s : State) (r : CmdRing) (d : Cmd) (u : MUnit), turn s r ∧ argsOnly d [(0, 2)] = true ∧ getUnit (taken s r) (argUnit d 0) = some u ∧ mayName
    (taken s r) (cmdInst r) false u ∧ u.st = .bisque ∧ u.scrub = none ∧ u.arm = none ∧ fireBlocked (taken s r) (argUnit d 0) u none = false) ∧
    (∃ (s : State) (r : CmdRing) (d : Cmd) (u : MUnit), turn s r ∧ argsOnly d [(0, 3), (4, 4)] = true ∧ getUnit (taken s r) (argUnit d 0) = some u ∧
    mayName (taken s r) (cmdInst r) true u ∧ u.scrub = none ∧ u.arm = none ∧ argN d 2 1 ≤ 1 ∧ argN d 4 4 ≤ 100000 ∧ (argN d 2 1 = 1 → u.drainClean =
    true) ∧ u.st = .fired) ∧
    (∃ (s : State) (r : CmdRing) (d : Cmd) (u : MUnit), turn s r ∧ argsOnly d [(0, 3), (4, 4)] = true ∧ getUnit (taken s r) (argUnit d 0) = some u ∧
    mayName (taken s r) (cmdInst r) true u ∧ u.scrub = none ∧ u.arm = none ∧ argN d 2 1 = 0 ∧ argN d 4 4 ≤ 100000 ∧ u.st = .bisque) ∧
    (∃ (s : State) (r : CmdRing) (d : Cmd) (old new : MUnit) (oi ni : Nat), turn s r ∧ argsOnly d [(0, 8)] = true ∧ oi = argUnit d 0 ∧ ni = argUnit
    d 2 ∧ oi ≠ ni ∧ getUnit (taken s r) oi = some old ∧ getUnit (taken s r) ni = some new ∧ mayName (taken s r) (cmdInst r) false old ∧ mayName
    (taken s r) (cmdInst r) false new ∧ argN d 4 4 ≤ 100000 ∧ old.st = .fired ∧ old.arm = none ∧ old.swap = none ∧ new.st = .bisque ∧ new.scrub =
    none ∧ new.arm = none ∧ ((old.clusters ++ new.clusters).any fun c => (perturbedDies (taken s r)).contains (dieOfCluster c)) = false ∧ old.kind =
    0 ∧ new.kind = 0 ∧ fireBlocked (taken s r) ni new (some oi) = false) ∧
    (∃ (s : State) (r : CmdRing) (d : Cmd) (old new : MUnit) (oi ni : Nat), turn s r ∧ argsOnly d [(0, 8)] = true ∧ oi = argUnit d 0 ∧ ni = argUnit
    d 2 ∧ oi ≠ ni ∧ getUnit (taken s r) oi = some old ∧ getUnit (taken s r) ni = some new ∧ mayName (taken s r) (cmdInst r) false old ∧ mayName
    (taken s r) (cmdInst r) false new ∧ argN d 4 4 ≤ 100000 ∧ old.st = .fired ∧ old.arm = none ∧ old.swap = none ∧ new.st = .bisque ∧ new.scrub =
    none ∧ new.arm = none ∧ ((old.clusters ++ new.clusters).any fun c => (perturbedDies (taken s r)).contains (dieOfCluster c)) = false ∧ old.kind =
    1 ∧ new.kind = 1 ∧ fireBlocked (taken s r) ni new (some oi) = false ∧ old.clusters.any new.clusters.contains = false) :=
  ⟨⟨{ up1 with clusters := [(0, { owner := some 1 })] }, .inst 1, loadCmd, 0, variantOf genImage 0, by unfold turn; decide +kernel⟩,
  ⟨withUnit (unit .bisque), .inst 1, cmd [(0, 2, 2)], unit .bisque, by unfold mayName turn; decide +kernel⟩,
  ⟨withUnit (unit .fired), .inst 1, cmd [(0, 2, 2), (4, 4, 100000)], unit .fired, by unfold mayName turn; decide +kernel⟩,
  ⟨withUnit (unit .bisque), .inst 1, cmd [(0, 2, 2), (4, 4, 100000)], unit .bisque, by unfold mayName turn; decide +kernel⟩,
  ⟨{ withUnit (unit .fired) with units := [(2, { unit .fired with kind := 0 }), (3, { unit .bisque with kind := 0, clusters := [1] })] }, .inst 1,
  cmd [(0, 2, 2), (2, 2, 3)], { unit .fired with kind := 0 }, { unit .bisque with kind := 0, clusters := [1] }, 2, 3,
  by unfold mayName turn; decide +kernel⟩,
  ⟨{ withUnit (unit .fired) with units := [(2, { unit .fired with kind := 1 }), (3, { unit .bisque with kind := 1, clusters := [1] })] }, .inst 1,
  cmd [(0, 2, 2), (2, 2, 3)], { unit .fired with kind := 1 }, { unit .bisque with kind := 1, clusters := [1] }, 2, 3,
  by unfold mayName turn; decide +kernel⟩⟩

theorem test_met_QueryAndTableCommandsComplete :
    (∃ (s : State) (r : CmdRing) (d : Cmd) (u : MUnit), turn s r ∧ argsOnly d [(0, 2)] = true ∧ ready (taken s r) rdyShf = true ∧ getUnit (taken s
    r) (argUnit d 0) = some u ∧ (u.owner = cmdInst r ∨ cmdInst r = 0)) ∧
    (∃ (s : State) (r : CmdRing) (d : Cmd), turn s r ∧ argsOnly d [(0, 1), (2, 2)] = true ∧ statsPermitted (taken s r) (cmdInst r) (argN d 0 1)
    (argN d 2 2) = true ∧ statsExists (taken s r) (argN d 0 1) (argN d 2 2) = true ∧ statsSize (argN d 0 1) ≤ d.bufLen) ∧
    (∃ (s u : State) (c : PendCmd) (b : Bytes), s.pending = [] ∧ (s.now + 1) % fabCycle = 0 ∧ s.cmds.filter (·.opcode = 0x09) = [c] ∧ u = handOver s
    s.now ∧ b = statsRecord u (cmdInst c.ring) (c.arg % 4) (c.arg / 4 % 2 ^ 16)) ∧
    (∃ (s : State) (r : CmdRing) (d : Cmd) (u : MUnit), turn s r ∧ argsOnly d [(0, 3), (8, 32)] = true ∧ ready (taken s r) rdyShf = true ∧ argN d 1
    1 = 0 ∧ argN d 0 1 ≤ 63 ∧ argN d 8 1 ≤ 2 ∧ bindOwned (taken s r) (cmdInst r) (bindEntry d) = true ∧ bindEntryOk (taken s r) 0 (bindEntry d) =
    true ∧ u ∈ tvals (taken s r).units ∧ u.owner = cmdInst r ∧ (u.bindings.any (·.number = argN d 0 1)) = true) ∧
    (∃ (s : State) (r : CmdRing) (d : Cmd) (u : MUnit), turn s r ∧ argsOnly d [(0, 3), (8, 2), (12, 4)] = true ∧ ready (taken s r) rdyShf = true ∧
    argN d 1 1 = 1 ∧ argN d 0 1 ≤ 63 ∧ argN d 2 1 ≤ 15 ∧ (argN d 8 1 = 0 ∨ argN d 8 1 = 3 ∨ argN d 8 1 = 4) ∧ bindOwned (taken s r) (cmdInst r)
    (bindEntry d) = true ∧ bindEntryOk (taken s r) 1 (bindEntry d) = true ∧ u ∈ tvals (taken s r).units ∧ u.owner = cmdInst r ∧ (u.bindings.any
    (·.number = argN d 0 1)) = true) :=
  ⟨⟨withUnit (unit .fired), .inst 1, cmd [(0, 2, 2)], unit .fired, by unfold turn; decide +kernel⟩,
  ⟨up1, .inst 1, { cmd [(0, 1, 3), (2, 2, 1)] with bufLen := 64 }, by unfold turn; decide +kernel⟩,
  ⟨{ up1 with now := 6000000499, cmds := [{ id := 3, ring := .inst 1, tag := 7, index := 0, opcode := 0x09, arg := 7 }] }, _,
  { id := 3, ring := .inst 1, tag := 7, index := 0, opcode := 0x09, arg := 7 }, _, by decide +kernel, by decide +kernel, by decide +kernel, rfl,
  rfl⟩,
  ⟨withUnit ({ unit .fired with bindings := [{ number := 63 }] }), .inst 1, cmd [(0, 1, 63), (8, 1, 2), (10, 2, 5), (16, 4, 101), (24, 8, 4096),
  (32, 4, 256), (36, 4, 2)], { unit .fired with bindings := [{ number := 63 }] }, by unfold turn; decide +kernel⟩,
  ⟨withUnit ({ unit .fired with bindings := [{ number := 63 }] }), .inst 1, cmd [(0, 1, 63), (1, 1, 1), (2, 1, 15), (8, 1, 3), (9, 1, 8)],
  { unit .fired with bindings := [{ number := 63 }] }, by unfold turn; decide +kernel⟩⟩

theorem test_met_UnitStepsComplete :
    (∃ (s : State) (ui : Nat) (u : MUnit), getUnit s ui = some u ∧ u.st = .green ∧ u.retired = false ∧ u.scrub = none) ∧
    (∃ (s : State) (ui : Nat) (u : MUnit) (d : Drain), getUnit s ui = some u ∧ u.drain = some d ∧ u.st = .cooling ∧ u.retired = false ∧ u.scrub =
    none ∧ lossComing s u = false ∧ drainDone s ui u = true) ∧
    (∃ (s : State) (ui : Nat) (u : MUnit) (d : Drain), getUnit s ui = some u ∧ u.drain = some d ∧ u.st = .cooling ∧ u.retired = false ∧ u.scrub =
    none ∧ lossComing s u = false ∧ d.deadline ≤ s.now ∧ drainDone s ui u = false ∧ (u.kind = 0 ∨ roundsRun u = false ∨ roundDue s u = true)) ∧
    (∃ (s : State) (ui : Nat) (u : MUnit) (t : Nat) (cmd : Option Nat) (st : Nat), getUnit s ui = some u ∧ u.scrub = some (t, cmd, st)) ∧
    (∃ (s : State) (ui : Nat) (u : MUnit), getUnit s ui = some u ∧ entryKnown s ui u = true) ∧
    (∃ (s : State) (c t : Nat) (p : Pattern), (getCluster s c).switchAt = some (t, p) ∧ t ≤ cycleOf s) :=
  ⟨⟨withUnit (unit .green), 2, unit .green, by decide +kernel⟩,
  ⟨withUnit ({ unit .cooling with drain := some { began := 0, deadline := 6000000000, toBisque := true } }), 2,
  { unit .cooling with drain := some { began := 0, deadline := 6000000000, toBisque := true } },
  { began := 0, deadline := 6000000000, toBisque := true }, by decide +kernel⟩,
  ⟨{ withUnit ({ unit .cooling with drain := some { began := 0, deadline := 6000000000, toBisque := true } }) with msgs := [(4, { unit := some 2, binding := some { number := 0 } })] },
  2, { unit .cooling with drain := some { began := 0, deadline := 6000000000, toBisque := true } },
  { began := 0, deadline := 6000000000, toBisque := true }, by decide +kernel⟩,
  ⟨withUnit ({ unit .bisque with scrub := some (0, none, 0) }), 2, { unit .bisque with scrub := some (0, none, 0) }, 0, none, 0, by decide +kernel⟩,
  ⟨withUnit (unit .fired), 2, unit .fired, by decide +kernel⟩,
  ⟨{ up with clusters := [(1279, { switchAt := some (16000000, .idle) })] }, 1279, 16000000, .idle, by decide +kernel⟩⟩

theorem test_met_AttachCommandsComplete :
    (∃ (s : State) (r : CmdRing) (d : Cmd) (qi : Nat) (q : Qp), turn s r ∧ argsOnly d [(0, 1), (4, 4)] = true ∧ ready (taken s r) rdyWgt = true ∧
    qpByNum (taken s r) (argN d 4 4) = some (qi, q) ∧ q.owner = cmdInst r ∧ argN d 0 1 ≤ 15 ∧ q.service = none ∧ (tgetD (taken s r).services
    (serviceKey (cmdInst r) (argN d 0 1)) {}).attached.length < 256) ∧
    (∃ (s : State) (r : CmdRing) (d : Cmd) (qi : Nat) (q : Qp), turn s r ∧ argsOnly d [(0, 1), (4, 4)] = true ∧ ready (taken s r) rdyWgt = true ∧
    qpByNum (taken s r) (argN d 4 4) = some (qi, q) ∧ q.owner = cmdInst r ∧ argN d 0 1 ≤ 15 ∧ q.service = some (serviceKey (cmdInst r) (argN d 0 1))
    ∧ qpHoldsSlot (taken s r) qi = false) ∧
    (∃ (s : State) (qi id n : Nat) (q : Qp), tget s.qps qi = some q ∧ q.detach = [(id, n)] ∧ slotAwaits s qi id = false) :=
  ⟨⟨{ up1 with qps := [(9, { owner := 1 })] }, .inst 1, cmd [(0, 1, 15), (4, 4, 262153)], 9, { owner := 1 }, by unfold turn; decide +kernel⟩,
  ⟨{ up1 with qps := [(9, { owner := 1, service := some (serviceKey 1 15) })] }, .inst 1, cmd [(0, 1, 15), (4, 4, 262153)], 9,
  { owner := 1, service := some (serviceKey 1 15) }, by unfold turn; decide +kernel⟩,
  ⟨{ up1 with qps := [(9, { owner := 1, detach := [(3, 0)] })] }, 9, 3, 0, { owner := 1, detach := [(3, 0)] }, by decide +kernel⟩⟩

theorem test_met_QpCreateQueryDestroyComplete :
    (∃ (s : State) (r : CmdRing) (d : Cmd) (n : Nat) (c1 c2 : Ring), turn s r ∧ argsOnly d [(0, 4), (8, 12), (24, 12)] = true ∧ ready (taken s r)
    rdyWgt = true ∧ getRing (taken s r) (ringKey rkCq (argN d 0 2)) = some c1 ∧ c1.owner = cmdInst r ∧ getRing (taken s r) (ringKey rkCq (argN d 2
    2)) = some c2 ∧ c2.owner = cmdInst r ∧ ringShapeOk (argN d 16 4) (argN d 8 8) = true ∧ ringShapeOk (argN d 32 4) (argN d 24 8) = true ∧
    lowestFrom (fun k => !((tget (taken s r).qps k).any (·.live))) 262144 0 = some n ∧ qpsOf (taken s r) (cmdInst r) < (getInst (taken s r) (cmdInst
    r)).shares.qps) ∧
    (∃ (s : State) (r : CmdRing) (d : Cmd) (qi : Nat) (q : Qp), turn s r ∧ argsOnly d [(0, 4)] = true ∧ ready (taken s r) rdyWgt = true ∧ qpByNum
    (taken s r) (argN d 0 4) = some (qi, q) ∧ q.owner = cmdInst r) ∧
    (∃ (s : State) (r : CmdRing) (d : Cmd) (qi : Nat) (q : Qp), turn s r ∧ argsOnly d [(0, 4)] = true ∧ ready (taken s r) rdyWgt = true ∧ qpByNum
    (taken s r) (argN d 0 4) = some (qi, q) ∧ q.owner = cmdInst r) :=
  ⟨⟨up1, .inst 1, cmd [(0, 2, 5), (2, 2, 5), (8, 8, 4096), (16, 4, 64), (24, 8, 8192), (32, 4, 65536)], 0, cqRing, cqRing,
  by unfold turn; decide +kernel⟩,
  ⟨{ up1 with qps := [(9, { owner := 1 })] }, .inst 1, cmd [(0, 4, 262153)], 9, { owner := 1 }, by unfold turn; decide +kernel⟩,
  ⟨{ up1 with qps := [(9, { owner := 1 })] }, .inst 1, cmd [(0, 4, 262153)], 9, { owner := 1 }, by unfold turn; decide +kernel⟩⟩

theorem test_met_QpModifyCompletes :
    (∃ (s : State) (r : CmdRing) (d : Cmd) (qi : Nat) (q : Qp) (p : State), turn s r ∧ argsOnly d [(0, 6)] = true ∧ argN d 4 1 = 1 ∧ ready (taken s
    r) rdyWgt = true ∧ qpByNum (taken s r) (argN d 0 4) = some (qi, q) ∧ q.owner = cmdInst r ∧ attrRtrOk (taken s r) d = true ∧ q.st = .reset ∧
    addPeer (taken s r) (bufN d 0x19 1) (BitVec.ofNat 128 (attrIp d)) (bufN d 0x18 1) = some p) ∧
    (∃ (s : State) (r : CmdRing) (d : Cmd) (qi : Nat) (q : Qp), turn s r ∧ argsOnly d [(0, 6)] = true ∧ argN d 4 1 = 2 ∧ ready (taken s r) rdyWgt =
    true ∧ qpByNum (taken s r) (argN d 0 4) = some (qi, q) ∧ q.owner = cmdInst r ∧ attrRtsOk q d = true ∧ q.st = .rtr) ∧
    (∃ (s p : State) (r : CmdRing) (d : Cmd) (qi : Nat) (q : Qp), turn s r ∧ argsOnly d [(0, 6)] = true ∧ argN d 4 1 = 4 ∧ argN d 5 1 ≤ 7 ∧ (if bit
    (argN d 5 1) 0 then attrPortOk (taken s r) d = true ∧ attrVlanOk d = true ∧ addPeer (taken s r) (bufN d 0x19 1) q.peerIp q.ipv = some p else p =
    taken s r) ∧ ready (taken s r) rdyWgt = true ∧ qpByNum (taken s r) (argN d 0 4) = some (qi, q) ∧ q.owner = cmdInst r ∧ (bit (argN d 5 1) 1 =
    true → attrSportOk d = true) ∧ (bit (argN d 5 1) 2 = true → bufN d 0x2E 1 ≤ 15) ∧ attrResvOk d = true ∧ q.st = .rts) ∧
    (∃ (s : State) (r : CmdRing) (d : Cmd) (qi : Nat) (q : Qp), turn s r ∧ argsOnly d [(0, 6)] = true ∧ argN d 4 1 = 3 ∧ ready (taken s r) rdyWgt =
    true ∧ qpByNum (taken s r) (argN d 0 4) = some (qi, q) ∧ q.owner = cmdInst r) ∧
    (∃ (s : State) (r : CmdRing) (d : Cmd) (qi : Nat) (q : Qp), turn s r ∧ argsOnly d [(0, 6)] = true ∧ argN d 4 1 = 0 ∧ ready (taken s r) rdyWgt =
    true ∧ qpByNum (taken s r) (argN d 0 4) = some (qi, q) ∧ q.owner = cmdInst r) :=
  ⟨⟨{ up1 with qps := [(9, { owner := 1, st := .reset })] }, .inst 1, cmd [(0, 4, 262153), (4, 1, 1)] (record 128 [(8, 1, 10), (0xB, 1, 1), (0x18, 1,
  4), (0x19, 1, 8), (0x1C, 1, 7), (0x1D, 1, 1), (0x1E, 2, 8192), (0x20, 4, 16777215), (0x24, 4, 16777215), (0x28, 4, 16777215), (0x2C, 2, 4096),
  (0x2E, 1, 15)]), 9, { owner := 1, st := .reset }, _, by unfold turn; decide +kernel, by decide +kernel, by decide +kernel, (by decide +kernel),
  by decide +kernel, by decide +kernel, by decide +kernel, (by decide +kernel), Option.eq_some_of_isSome (by decide +kernel)⟩,
  ⟨{ up1 with qps := [(9, { owner := 1, st := .rtr })] }, .inst 1, cmd [(0, 4, 262153), (4, 1, 2)] (record 128 [(8, 1, 10), (0xB, 1, 1), (0x18, 1,
  4), (0x19, 1, 8), (0x1C, 1, 7), (0x1D, 1, 1), (0x1E, 2, 8192), (0x20, 4, 16777215), (0x24, 4, 16777215), (0x28, 4, 16777215), (0x2C, 2, 4096),
  (0x2E, 1, 15)]), 9, { owner := 1, st := .rtr }, by unfold turn; decide +kernel⟩,
  ⟨{ up1 with qps := [(9, { owner := 1, st := .rts })] }, _, .inst 1, cmd [(0, 4, 262153), (4, 1, 4), (5, 1, 7)] (record 128 [(8, 1, 10), (0xB, 1,
  1), (0x18, 1, 4), (0x19, 1, 8), (0x1C, 1, 7), (0x1D, 1, 1), (0x1E, 2, 8192), (0x20, 4, 16777215), (0x24, 4, 16777215), (0x28, 4, 16777215), (0x2C,
  2, 4096), (0x2E, 1, 15)]), 9, { owner := 1, st := .rts }, by unfold turn; decide +kernel, by decide +kernel, by decide +kernel,
  (by decide +kernel), ⟨by decide +kernel, by decide +kernel, Option.eq_some_of_isSome (by decide +kernel)⟩, by decide +kernel⟩,
  ⟨{ up1 with qps := [(9, { owner := 1, st := .rts })] }, .inst 1, cmd [(0, 4, 262153), (4, 1, 3)], 9, { owner := 1, st := .rts },
  by unfold turn; decide +kernel⟩,
  ⟨{ up1 with qps := [(9, { owner := 1, st := .error })] }, .inst 1, cmd [(0, 4, 262153), (4, 1, 0)], 9, { owner := 1, st := .error },
  by unfold turn; decide +kernel⟩⟩

theorem test_met_ArmCreateQueryComplete :
    (∃ (s : State) (r : CmdRing) (d : Cmd) (n : Nat) (a : Armature) (hs : List Shard), turn s r ∧ a = armOf d (cmdInst r) ∧ hs = localShards a.plan
    a.member ∧ ready (taken s r) rdyArr = true ∧ ready (taken s r) rdyTim = true ∧ ready (taken s r) rdyArm = true ∧ planBad (taken s r) d = false ∧
    (∀ h ∈ hs, ∃ u, getUnit (taken s r) h.unit = some u ∧ u.owner = cmdInst r ∧ u.st = .bisque ∧ u.scrub = none ∧ u.retired = false ∧ u.arm = none ∧
    u.lastExit ≤ h.firing) ∧ lowestFree (taken s r).arms 4 = some n ∧ (List.range 16).any (portOverfull (taken s r) a) = false ∧ bundleBytes a +
    ((tvals (taken s r).arms).map bundleBytes).sum ≤ 4 * MiB ∧ planSMin (taken s r) a.plan = a.plan.sMin) ∧
    (∃ (s : State) (r : CmdRing) (d : Cmd) (a : Armature), turn s r ∧ argsOnly d [(0, 1)] = true ∧ getArm (taken s r) (argN d 0 1) = some a ∧
    mayNameArm (taken s r) (cmdInst r) true a) :=
  ⟨⟨withUnit ({ unit .bisque with drainClean := true, io := [{ dir := 0, lane := 0, copy := 0, chan := 0, core := 0, side := 3 }] }), .inst 1,
  armCmd, 0, _, _, by unfold turn; decide +kernel, rfl, rfl, (by decide +kernel), by decide +kernel, by decide +kernel, by decide +kernel, fun h hh
  => ⟨{ unit .bisque with drainClean := true, io := [{ dir := 0, lane := 0, copy := 0, chan := 0, core := 0, side := 3 }] },
  by revert h; decide +kernel⟩, by decide +kernel⟩,
  ⟨withArm (arm .running), .inst 1, cmd [(0, 1, 0)], arm .running, by unfold mayNameArm turn; decide +kernel⟩⟩

theorem test_met_ArmStateCommandsComplete :
    (∃ (s : State) (r : CmdRing) (d : Cmd) (a : Armature), turn s r ∧ argsOnly d [(0, 1), (8, 8)] = true ∧ getArm (taken s r) (argN d 0 1) = some a
    ∧ mayNameArm (taken s r) (cmdInst r) false a ∧ curPeriod (taken s r) a.plan + 2 ≤ (argN d 8 8 : Int) ∧ a.st = .idle ∧ timeLocked (taken s r)
    a.plan = true) ∧
    (∃ (s : State) (r : CmdRing) (d : Cmd) (a : Armature), turn s r ∧ argsOnly d [(0, 1), (8, 8)] = true ∧ getArm (taken s r) (argN d 0 1) = some a
    ∧ mayNameArm (taken s r) (cmdInst r) true a ∧ a.st = .running) ∧
    (∃ (s : State) (r : CmdRing) (d : Cmd) (a : Armature), turn s r ∧ argsOnly d [(0, 1), (8, 8)] = true ∧ getArm (taken s r) (argN d 0 1) = some a
    ∧ mayNameArm (taken s r) (cmdInst r) true a ∧ a.st = .armed) ∧
    (∃ (s : State) (r : CmdRing) (d : Cmd) (a : Armature), turn s r ∧ argsOnly d [(0, 1)] = true ∧ getArm (taken s r) (argN d 0 1) = some a ∧
    mayNameArm (taken s r) (cmdInst r) true a ∧ a.st = .idle) ∧
    (∃ (s : State) (r : CmdRing) (d : Cmd) (a : Armature) (h : Shard), turn s r ∧ argsOnly d [(0, 1), (2, 2)] = true ∧ getArm (taken s r) (argN d 0
    1) = some a ∧ mayNameArm (taken s r) (cmdInst r) false a ∧ a.st = .running ∧ findShard a.plan (argN d 2 2) = some h ∧ h.standby = a.member) ∧
    (∃ (s : State) (r : CmdRing) (d : Cmd) (a : Armature) (h : Shard), turn s r ∧ argsOnly d [(0, 1), (2, 2)] = true ∧ getArm (taken s r) (argN d 0
    1) = some a ∧ mayNameArm (taken s r) (cmdInst r) false a ∧ a.st = .running ∧ findShard a.plan (argN d 2 2) = some h ∧ h.primary = a.member) :=
  ⟨⟨withArm (arm .idle), .inst 1, cmd [(8, 8, 2)], arm .idle, by unfold mayNameArm turn; decide +kernel⟩,
  ⟨withArm (arm .running), .inst 1, cmd [(8, 8, 2)], arm .running, by unfold mayNameArm turn; decide +kernel⟩,
  ⟨withArm (arm .armed), .inst 1, cmd [(8, 8, 2)], arm .armed, by unfold mayNameArm turn; decide +kernel⟩,
  ⟨withArm (arm .idle), .inst 1, cmd [], arm .idle, by unfold mayNameArm turn; decide +kernel⟩,
  ⟨withArm ({ arm .running with member := 2 }), .inst 1, cmd [], { arm .running with member := 2 },
  { num := 0, primary := 1, standby := 2, unit := 2, firing := 16, collectBeat := 1 }, by unfold mayNameArm turn; decide +kernel⟩,
  ⟨withArm (arm .running), .inst 1, cmd [], arm .running, { num := 0, primary := 1, standby := 2, unit := 2, firing := 16, collectBeat := 1 },
  by unfold mayNameArm turn; decide +kernel⟩⟩

theorem test_met_PortAndTimeCommandsComplete :
    (∃ (s : State) (d : Cmd), turn s .admin ∧ argsOnly d [(0, 1)] = true ∧ argN d 0 1 ≤ 3 ∧ (tvals s.units).any (fun u => u.st ≠ .green) = false ∧
    s.arms = [] ∧ (tvals s.qps).any (fun q => q.live && q.st ≠ .reset) = false ∧ s.splitCmd = none) ∧
    (∃ (s : State) (d : Cmd) (p : Nat) (g : GateList), turn s .admin ∧ gateCancel d = false ∧ p = argN d 0 1 ∧ g = adminList s p ∧ portReady s p =
    true ∧ gateArgsBad s d = false ∧ gateListOk g = true ∧ netNs s + 10000 ≤ g.base ∧ (getPort s p).pendGate = none ∧ gateRefused s p g = false) ∧
    (∃ (s : State) (d : Cmd) (g : GateList × Nat), turn s .admin ∧ gateCancel d = true ∧ portReady s (argN d 0 1) = true ∧ gateArgsBad s d = false ∧
    (getPort s (argN d 0 1)).pendGate = some g) ∧
    (∃ (s : State) (d : Cmd), turn s .admin ∧ ready s rdyTim = true ∧ stepBad s d = false ∧ (tvals s.arms).any (fun a => a.st ≠ .idle) = false) ∧
    (∃ (s : State) (d : Cmd), turn s .admin ∧ ready s rdyShp = true ∧ argsOnly d [(0, 3)] = true ∧ argN d 2 1 ≤ 1) :=
  ⟨⟨up, cmd [(0, 1, 3)], by unfold turn; decide +kernel⟩,
  ⟨{ up with regs := [(glbReady, 0x7FF#32), (macStatus 0, 1#32), (macStatus 8, 1#32), (gateAdminCtrl 8, 3#32), (gateAdminCycle 8, 1000#32), (gateAdminBaseLo 8, 10000#32), (gateAdmin 8 + 4, 1000#32)] },
  cmd [(0, 1, 8)], 8, _, by unfold turn; decide +kernel, by decide +kernel, by decide +kernel, rfl, by decide +kernel⟩,
  ⟨{ up with ports := [(0, {}), (8, { pendGate := some ({}, 5) })] }, cmd [(0, 1, 8), (1, 1, 1)], ({}, 5), by unfold turn; decide +kernel⟩,
  ⟨up, cmd [(8, 8, 1)], by unfold turn; decide +kernel⟩,
  ⟨up, cmd [(0, 2, 257), (2, 1, 1)], by unfold turn; decide +kernel⟩⟩

theorem test_met_InstanceCommandsComplete :
    (∃ (s : State) (d : Cmd) (n : Nat), turn s .admin ∧ ready (taken s .admin) rdyIns = true ∧ n = argN d 0 2 ∧ 1 ≤ n ∧ n ≤ 1023 ∧ createBad d =
    false ∧ instExists (taken s .admin) n = false ∧ (bitmapAt d 0x70).any (clusterRetired (taken s .admin)) = false ∧ (bitmapAt d 0x70).any (fun c
    => !clusterFree (taken s .admin) c) = false ∧ pasidTaken (taken s .admin) 0 (pasidField (bufN d 4 4)) = false ∧ pasidTaken (taken s .admin) 1
    (pasidField (bufN d 8 4)) = false) ∧
    (∃ (s : State) (d : Cmd) (n : Nat), turn s .admin ∧ names (taken s .admin) n ∧ n = argN d 0 2 ∧ 1 ≤ n ∧ argsOnly d [(0, 2), (4, 4)] = true ∧
    argN d 4 4 ≤ 1000000 ∧ instActive (taken s .admin) n = true) ∧
    (∃ (s : State) (d : Cmd) (n : Nat), turn s .admin ∧ names (taken s .admin) n ∧ n = argN d 0 2 ∧ 1 ≤ n ∧ argsOnly d [(0, 2), (4, 4)] = true ∧
    argN d 4 4 ≤ 1000000 ∧ instActive (taken s .admin) n = true) ∧
    (∃ (s : State) (d : Cmd) (n : Nat), turn s .admin ∧ names (taken s .admin) n ∧ n = argN d 0 2 ∧ argsOnly d [(0, 2)] = true ∧ d.bufLen = 64 ∧
    sharesOk d 0 = true ∧ instActive (taken s .admin) n = true) ∧
    (∃ (s : State) (d : Cmd) (n : Nat), turn s .admin ∧ names (taken s .admin) n ∧ n = argN d 0 2 ∧ argN d 2 1 = 0 ∧ clustersBad d = false ∧
    instActive (taken s .admin) n = true ∧ (bitmapAt d 0).any (clusterRetired (taken s .admin)) = false ∧ (bitmapAt d 0).any (fun c => !clusterFree
    (taken s .admin) c) = false) ∧
    (∃ (s : State) (d : Cmd) (n busy : Nat), turn s .admin ∧ names (taken s .admin) n ∧ n = argN d 0 2 ∧ argN d 2 1 = 1 ∧ clustersBad d = false ∧
    instActive (taken s .admin) n = true ∧ (bitmapAt d 0).any (fun c => (getCluster (taken s .admin) c).owner ≠ some n) = false ∧ busy = ((bitmapAt
    d 0).filter (clusterBusy (taken s .admin))).length) ∧
    (∃ (s : State) (d : Cmd), turn s .admin ∧ ready (taken s .admin) rdyIns = true ∧ argsOnly d [(0, 2)] = true ∧ argN d 0 2 ≤ 1023) :=
  ⟨⟨up, cmd [(0, 2, 1023)] (record 272 [(4, 4, 2147484148), (12, 2, 2047), (16, 8, 4096), (24, 4, 64), (32, 8, 8192), (40, 4, 64), (112, 1, 1), (48,
  4, 1), (68, 4, 2097151), (72, 4, 65536), (76, 4, 2097151), (80, 4, 65536)]), 1023, by unfold turn; decide +kernel⟩,
  ⟨up, cmd [(0, 2, 1), (4, 4, 1000000)], 1, by unfold names turn; decide +kernel⟩,
  ⟨up, cmd [(0, 2, 1)], 1, by unfold names turn; decide +kernel⟩,
  ⟨up, cmd [(0, 2, 0)] (record 64 [(0, 4, 1), (20, 4, 2097151), (24, 4, 65536), (28, 4, 2097151), (32, 4, 65536)]), 0,
  by unfold names turn; decide +kernel⟩,
  ⟨up, cmd [(0, 2, 1)] (record 160 [(159, 1, 128)]), 1, by unfold names turn; decide +kernel⟩,
  ⟨{ withUnit (unit .bisque) with rings := up.rings }, cmd [(0, 2, 1), (2, 1, 1)] (record 160 [(0, 1, 1)]), 1, 1,
  by unfold names turn; decide +kernel⟩,
  ⟨up, cmd [(0, 2, 1023)], by unfold turn; decide +kernel⟩⟩

theorem test_met_RegionAndLogCommandsComplete :
    (∃ (s : State) (d : Cmd) (n k g : Nat), turn s .admin ∧ names (taken s .admin) n ∧ n = argN d 0 2 ∧ k = argN d 2 2 ∧ argsOnly d [(0, 4)] = true
    ∧ 1 ≤ k ∧ k ≤ 368 ∧ instActive (taken s .admin) n = true ∧ lowestFree s.regions 1024 = some g ∧ (regionsOf (taken s .admin) n).length < (getInst
    (taken s .admin) n).shares.regions ∧ blocksOf (taken s .admin) n + k ≤ (getInst (taken s .admin) n).shares.blocks ∧ k ≤ s.freeBlocks.length) ∧
    (∃ (s : State) (d : Cmd) (g : Nat) (x : Region), turn s .admin ∧ ready (taken s .admin) rdyIns = true ∧ g = argN d 0 2 ∧ argsOnly d [(0, 2)] =
    true ∧ tget s.regions g = some x ∧ instActive (taken s .admin) x.owner = true ∧ regionUsed (taken s .admin) g = false) ∧
    (∃ (s : State) (d : Cmd) (n link base len a b : Nat), turn s .admin ∧ names (taken s .admin) n ∧ n = argN d 0 2 ∧ link = argN d 2 1 ∧ base =
    argN d 8 8 ∧ len = argN d 16 8 ∧ a = argN d 24 8 ∧ b = argN d 32 8 ∧ 1 ≤ n ∧ link ≤ 1 ∧ argsOnly d [(0, 3), (8, 32)] = true ∧ base % 4096 = 0 ∧
    len % 4096 = 0 ∧ 4096 ≤ len ∧ len ≤ 2 ^ 40 ∧ a % 8 = 0 ∧ b % 8 = 0 ∧ (b + ceilDiv len (2 ^ 18) * 8 ≤ a ∨ a + ceilDiv len (2 ^ 18) * 8 ≤ b) ∧
    (getInst (taken s .admin) n).st ≠ .destroying ∧ logOf (getInst (taken s .admin) n) link = none) ∧
    (∃ (s : State) (d : Cmd) (n link : Nat) (g : DirtyLog), turn s .admin ∧ names (taken s .admin) n ∧ n = argN d 0 2 ∧ link = argN d 2 1 ∧ 1 ≤ n ∧
    link ≤ 1 ∧ argsOnly d [(0, 3)] = true ∧ logOf (getInst (taken s .admin) n) link = some g ∧ g.sync = none) :=
  ⟨⟨up, cmd [(0, 2, 1), (2, 2, 8)], 1, 8, 0, by unfold names turn; decide +kernel⟩,
  ⟨{ up with regions := [(3, { owner := 1, blocks := [0] })] }, cmd [(0, 2, 3)], 3, { owner := 1, blocks := [0] }, by unfold turn; decide +kernel⟩,
  ⟨up, cmd [(0, 2, 1), (2, 1, 1), (8, 8, 4096), (16, 8, 1099511627776), (24, 8, 0), (32, 8, 33554432)], 1, 1, 4096, 1099511627776, 0, 33554432,
  by unfold names turn; decide +kernel⟩,
  ⟨{ up with instances := [(0, inst 0), (1, { inst 1 with log1 := some { base := 0, length := 4096, bitmapA := 8192, bitmapB := 16384 } })] }, cmd
  [(0, 2, 1), (2, 1, 1)], 1, 1, { base := 0, length := 4096, bitmapA := 8192, bitmapB := 16384 }, by unfold names turn; decide +kernel⟩⟩

theorem test_met_InstanceStepsComplete :
    (∃ (s : State) (n : Nat) (p : ResetProc), (getInst s n).proc = some p ∧ p.deadline ≤ s.now ∧ p.released = false ∧ p.stepFour = false ∧
    resetDrained s n = false) ∧
    (∃ (s : State) (n : Nat) (p : ResetProc), (getInst s n).proc = some p ∧ p.released = false ∧ resetDrained s n = true) ∧
    (∃ (s : State) (j : HbmJob) (t : List HbmJob), s.hbmJobs = j :: t ∧ j.freeing = true) ∧
    (∃ (s : State) (j : HbmJob) (t : List HbmJob), s.hbmJobs = j :: t ∧ j.freeing = false) ∧
    (∃ (s : State) (c t : Nat), (getCluster s c).scrub = some t) ∧
    (∃ (s : State) (n link : Nat) (g : DirtyLog), logOf (getInst s n) link = some g ∧ (g.oldDue ≠ [] ∨ g.due ≠ [])) ∧
    (∃ (s : State) (n link id : Nat) (g : DirtyLog) (stop : Bool), logOf (getInst s n) link = some g ∧ g.sync = some (id, stop) ∧ g.oldDue = []) :=
  ⟨⟨{ up with instances := [(0, inst 0), (1, { inst 1 with st := .resetting, proc := some { deadline := 6000000000 } })], msgs := [(4, { inst := 1 })] },
  1, { deadline := 6000000000 }, by decide +kernel⟩,
  ⟨{ up with instances := [(0, inst 0), (1, { inst 1 with st := .resetting, proc := some { deadline := 6000000000 } })] }, 1,
  { deadline := 6000000000 }, by decide +kernel⟩,
  ⟨{ up with hbmJobs := [{ blocks := [3], freeing := true }] }, { blocks := [3], freeing := true }, [], by decide +kernel⟩,
  ⟨{ up with hbmJobs := [{ blocks := [3], freeing := false }] }, { blocks := [3], freeing := false }, [], by decide +kernel⟩,
  ⟨{ up with clusters := [(1279, { scrub := some 5 })] }, 1279, 5, by decide +kernel⟩,
  ⟨{ up with instances := [(0, inst 0), (1, { inst 1 with log1 := some { base := 0, length := 4096, bitmapA := 8192, bitmapB := 16384, due := [0] } })] },
  1, 1, { base := 0, length := 4096, bitmapA := 8192, bitmapB := 16384, due := [0] }, by decide +kernel⟩,
  ⟨{ up with instances := [(0, inst 0), (1, { inst 1 with log1 := some { base := 0, length := 4096, bitmapA := 8192, bitmapB := 16384, sync := some (3, true) } })] },
  1, 1, 3, { base := 0, length := 4096, bitmapA := 8192, bitmapB := 16384, sync := some (3, true) }, true, by decide +kernel⟩⟩

theorem test_met_FaultCommandsComplete :
    (∃ (s : State) (d : Cmd), turn s .admin ∧ ready (taken s .admin) rdyFlt = true ∧ argsOnly d [] = true ∧ 16 * s.history.length ≤ d.bufLen ∧
    s.history ≠ []) ∧
    (∃ (s : State) (d : Cmd), turn s .admin ∧ ready (taken s .admin) rdyFlt = true ∧ argsOnly d [] = true ∧ s.history = []) ∧
    (∃ (s : State) (d : Cmd), turn s .admin ∧ ready (taken s .admin) rdyFlt = true ∧ argsOnly d [(0, 1), (4, 4)] = true ∧ chanOk (argChan d) = true
    ∧ isRetired s (argChan d) = false) ∧
    (∃ (s : State) (d : Cmd), turn s .admin ∧ ready (taken s .admin) rdyFlt = true ∧ argsOnly d [(0, 1), (4, 4)] = true ∧ (argChan d).kind ≠ 6 ∧
    chanOk (argChan d) = true ∧ (argChan d) ∈ s.byHand) ∧
    (∃ (s : State) (d : Cmd), turn s .admin ∧ ready (taken s .admin) rdyFlt = true ∧ argsOnly d [(0, 1), (4, 4)] = true ∧ (argChan d).kind = 6 ∧
    (argChan d).num < 4 ∧ s.pllStandby.getLsbD (argChan d).num = false) ∧
    (∃ (s : State) (d : Cmd) (c : Nat), turn s .admin ∧ ready (taken s .admin) rdyFlt = true ∧ ready (taken s .admin) rdyArr = true ∧ argsOnly d
    [(0, 2), (4, 4)] = true ∧ c = argN d 0 2 ∧ c ≤ 1279 ∧ 1 ≤ argN d 4 4 ∧ argN d 4 4 ≤ 3600000 ∧ columnPending s c = false) ∧
    (∃ (s : State) (d : Cmd) (k : Nat), turn s .admin ∧ ready (taken s .admin) rdyFlt = true ∧ argsOnly d [(0, 1)] = true ∧ k = argN d 0 1 ∧ k ≤ 3 ∧
    s.dieUp.getLsbD k = false ∧ dieCool (taken s .admin) k = true ∧ s.dieReturn = none) ∧
    (∃ (s : State) (d : Cmd), engineTurn s .admin = true ∧ argsOnly d [] = true ∧ s.mgmt.writing = none) ∧
    (∃ (s : State) (d : Cmd), engineTurn s .admin = true ∧ argsOnly d [] = true ∧ s.mgmt.writing = none ∧ s.mgmt.activate = none) :=
  ⟨⟨{ up with history := [{ time := 0, kind := 1, source := 2, chan := 0 }] }, { cmd [] with bufLen := 16 }, by unfold turn; decide +kernel⟩,
  ⟨up, cmd [], by unfold turn; decide +kernel⟩,
  ⟨up, cmd [(0, 1, 3), (4, 4, 4130564)], by unfold turn; decide +kernel⟩,
  ⟨{ up with byHand := [{ kind := 3, num := 4130564 }] }, cmd [(0, 1, 3), (4, 4, 4130564)], by unfold turn; decide +kernel⟩,
  ⟨{ up with pllStandby := 0 }, cmd [(0, 1, 6), (4, 4, 3)], by unfold turn; decide +kernel⟩,
  ⟨up, cmd [(0, 2, 1279), (4, 4, 3600000)], 1279, by unfold turn; decide +kernel⟩,
  ⟨{ up with dieUp := 7 }, cmd [(0, 1, 3)], 3, by unfold turn; decide +kernel⟩,
  ⟨up, cmd [] (record 4096 []), by decide +kernel⟩,
  ⟨up, cmd [], by decide +kernel⟩⟩

theorem test_met_FaultStepsComplete :
    (∃ (s : State) (die col : Nat) (x : Shift), s.shiftPend.find? (fun x => x.die = die && x.column = col) = some x ∧ unitsToMove s x = []) ∧
    (∃ (s : State) (x : Shift), s.shiftPend.find? (fun x => x.deadline.any fun t => t ≤ s.now) = some x) ∧
    (∃ (s : State) (die : Nat) (x : DieReturn), s.dieReturn = some x ∧ x.die = die) ∧
    (∃ (s : State) (b : Bytes) (id : Nat), s.mgmt.writing = some (b, id)) ∧
    (∃ (s : State), s.mgmt.restarting = true ∧ s.mgmt.startDeadline ≤ s.now) :=
  ⟨⟨{ up with shiftPend := [{ die := 1, column := 15, row := 0 }] }, 1, 15, { die := 1, column := 15, row := 0 }, by decide +kernel⟩,
  ⟨{ up with shiftPend := [{ die := 0, column := 3, row := 0, deadline := some 6000000000 }] },
  { die := 0, column := 3, row := 0, deadline := some 6000000000 }, by decide +kernel⟩,
  ⟨{ up with dieReturn := some { die := 3, cmd := some 2 } }, 3, { die := 3, cmd := some 2 }, by decide +kernel⟩,
  ⟨{ up with mgmt := { writing := some ([1, 2], 3) } }, [1, 2], 3, by decide +kernel⟩,
  ⟨{ up with mgmt := { restarting := true, startDeadline := 6000000000 } }, by decide +kernel⟩⟩

theorem test_met_ProducerDoorbellsComplete :
    (∃ (s : State) (page k : Nat) (b : Doorbell) (r : Ring), (b.index - r.cons).toNat ≤ r.entries ∧ reaches s rkSq page b k r) ∧
    (∃ (s : State) (page k : Nat) (b : Doorbell) (r : Ring), (b.index - r.cons).toNat ≤ r.entries ∧ reaches s rkRawTx page b k r) ∧
    (∃ (s : State) (page k : Nat) (b : Doorbell) (r : Ring) (ds : List Bytes), (b.index - r.cons).toNat ≤ r.entries ∧ reaches s rkRawRx page b k r ∧
    (∀ d ∈ newDescs ds ((b.index - r.cons).toNat - ringCount r), recvOk 17 d = true)) ∧
    (∃ (s : State) (page k : Nat) (b : Doorbell) (r : Ring) (ds : List Bytes) (d : Bytes), (b.index - r.cons).toNat ≤ r.entries ∧ reaches s rkRawRx
    page b k r ∧ (newDescs ds ((b.index - r.cons).toNat - ringCount r) = [d] ∧ recvOk 17 d = false)) ∧
    (∃ (s : State) (page k : Nat) (b : Doorbell) (r : Ring), (b.index - r.cons).toNat ≤ r.entries ∧ reaches s rkCmd page b k r) ∧
    (∃ (s : State) (page k : Nat) (b : Doorbell) (r : Ring), (b.index - r.cons).toNat ≤ r.entries ∧ reaches s rkAdmin page b k r) ∧
    (∃ (s : State) (page k n : Nat) (b : Doorbell) (r r' : Ring), reaches s rkRq page b k r ∧ r' = { r with cons := rqCons s b.number.toNat r } ∧ n
    = (b.index - r'.cons).toNat ∧ n ≤ r.entries) :=
  ⟨⟨withRing (ringKey rkSq 262143) (wrapRing rkSq 1 0xFFFFFFF1), 1, ringKey rkSq 262143, bell 262143 48, wrapRing rkSq 1 0xFFFFFFF1,
  by decide +kernel, by unfold reaches; decide +kernel⟩,
  ⟨withRing (rawKey rkRawTx 1 15) (wrapRing rkRawTx 1 0xFFFFFFF1), 1, rawKey rkRawTx 1 15, bell 15 48, wrapRing rkRawTx 1 0xFFFFFFF1,
  by decide +kernel, by unfold reaches; decide +kernel⟩,
  ⟨withRing (rawKey rkRawRx 1 0) (wrapRing rkRawRx 1 0xFFFFFFF1), 1, rawKey rkRawRx 1 0, bell 0 48, wrapRing rkRawRx 1 0xFFFFFFF1, List.replicate 63
  (rawBuf 0), by decide +kernel, by unfold reaches; decide +kernel, by decide +kernel⟩,
  ⟨withRing (rawKey rkRawRx 1 0) (wrapRing rkRawRx 1 0xFFFFFFF1), 1, rawKey rkRawRx 1 0, bell 0 4294967282, wrapRing rkRawRx 1 0xFFFFFFF1, [rawBuf
  1], rawBuf 1, by decide +kernel, by unfold reaches; decide +kernel, by decide +kernel⟩,
  ⟨withRing (ringKey rkCmd 1) (wrapRing rkCmd 1 0xFFFFFFF1), 1, ringKey rkCmd 1, bell 0 48, wrapRing rkCmd 1 0xFFFFFFF1, by decide +kernel,
  by unfold reaches; decide +kernel⟩,
  ⟨withRing (ringKey rkAdmin 0) (wrapRing rkAdmin 0 0xFFFFFFF1), 0, ringKey rkAdmin 0, bell 0 48, wrapRing rkAdmin 0 0xFFFFFFF1, by decide +kernel,
  by unfold reaches; decide +kernel⟩,
  ⟨withRing (ringKey rkRq 9) (wrapRing rkRq 1 0xFFFFFFF1), 1, ringKey rkRq 9, _, bell 9 48, wrapRing rkRq 1 0xFFFFFFF1, _,
  by unfold reaches; decide +kernel, rfl, rfl, (by decide +kernel)⟩⟩

theorem test_met_ConsumerDoorbellsComplete :
    (∃ (s : State) (page k : Nat) (b : Doorbell) (r : Ring), (b.index - r.cons).toNat ≤ ringCount r ∧ reaches s rkCq page b k r) ∧
    (∃ (s : State) (page k : Nat) (b : Doorbell) (r : Ring), (b.index - r.cons).toNat ≤ ringCount r ∧ reaches s rkCpl page b k r) ∧
    (∃ (s : State) (page k : Nat) (b : Doorbell) (r : Ring), (b.index - r.cons).toNat ≤ ringCount r ∧ reaches s rkEvent page b k r) ∧
    (∃ (s : State) (page k : Nat) (b : Doorbell) (r : Ring), (b.index - r.cons).toNat ≤ ringCount r ∧ reaches s rkTs page b k r) ∧
    (∃ (s : State) (page k : Nat) (b : Doorbell) (r : Ring), (b.index - r.cons).toNat ≤ ringCount r ∧ reaches s rkAdminCpl page b k r) ∧
    (∃ (s : State) (page k : Nat) (b : Doorbell) (r : Ring), (b.index - r.cons).toNat ≤ ringCount r ∧ reaches s rkTlm page b k r) ∧
    (∃ (s : State) (page k : Nat) (b : Doorbell) (r : Ring), (b.index - r.cons).toNat ≤ ringCount r ∧ reaches s rkSteer page b k r) ∧
    (∃ (s : State) (k : Nat) (r : Ring) (t : Nat), getRing s k = some r ∧ r.armed = true ∧ 0 < (r.prod - r.armIndex).toNat ∧ (r.prod -
    r.armIndex).toNat < 2 ^ 31 ∧ r.firstAt = some t ∧ r.modUsec * usec ≤ s.now - t ∧ linkUp s (getInst s r.owner).home = true ∧ s.iodLost = false) :=
  ⟨⟨withRing (ringKey rkCq 65535) (wrapRing rkCq 1 0), 1, ringKey rkCq 65535, bell 65535 0, wrapRing rkCq 1 0, by decide +kernel,
  by unfold reaches; decide +kernel⟩,
  ⟨withRing (ringKey rkCpl 1) (wrapRing rkCpl 1 0), 1, ringKey rkCpl 1, bell 0 0, wrapRing rkCpl 1 0, by decide +kernel,
  by unfold reaches; decide +kernel⟩,
  ⟨withRing (ringKey rkEvent 1) (wrapRing rkEvent 1 0), 1, ringKey rkEvent 1, bell 0 0, wrapRing rkEvent 1 0, by decide +kernel,
  by unfold reaches; decide +kernel⟩,
  ⟨withRing (ringKey rkTs 1) (wrapRing rkTs 1 0), 1, ringKey rkTs 1, bell 0 0, wrapRing rkTs 1 0, by decide +kernel,
  by unfold reaches; decide +kernel⟩,
  ⟨withRing (ringKey rkAdminCpl 0) (wrapRing rkAdminCpl 0 0), 0, ringKey rkAdminCpl 0, bell 0 0, wrapRing rkAdminCpl 0 0, by decide +kernel,
  by unfold reaches; decide +kernel⟩,
  ⟨withRing (ringKey rkTlm 0) (wrapRing rkTlm 0 0), 0, ringKey rkTlm 0, bell 0 0, wrapRing rkTlm 0 0, by decide +kernel,
  by unfold reaches; decide +kernel⟩,
  ⟨withRing (steerKey 1 63 255) (wrapRing rkSteer 1 0), 1, steerKey 1 63 255, bell 16383 0, wrapRing rkSteer 1 0, by decide +kernel,
  by unfold reaches; decide +kernel⟩,
  ⟨withRing 5 ({ wrapRing rkCq 1 0xFFFFFFF1 with armed := true, armIndex := 0xFFFFFFF0, firstAt := some 6000000000 }), 5,
  { wrapRing rkCq 1 0xFFFFFFF1 with armed := true, armIndex := 0xFFFFFFF0, firstAt := some 6000000000 }, 6000000000, by decide +kernel⟩⟩

theorem test_met_BrokenDoorbellsDiscarded :
    (∃ (s : State) (page : Nat) (b : Doorbell), (getInst s page).st = .active ∧ broken s rkSq page b) ∧
    (∃ (s : State) (page : Nat) (b : Doorbell), (getInst s page).st = .active ∧ broken s rkRq page b) ∧
    (∃ (s : State) (page : Nat) (b : Doorbell), (getInst s page).st = .active ∧ broken s rkCq page b) ∧
    (∃ (s : State) (page : Nat) (b : Doorbell), (getInst s page).st = .active ∧ broken s rkCmd page b) ∧
    (∃ (s : State) (page : Nat) (b : Doorbell), (getInst s page).st = .active ∧ broken s rkCpl page b) ∧
    (∃ (s : State) (page : Nat) (b : Doorbell), (getInst s page).st = .active ∧ broken s rkEvent page b) ∧
    (∃ (s : State) (page : Nat) (b : Doorbell), (getInst s page).st = .active ∧ broken s rkRawTx page b) ∧
    (∃ (s : State) (page : Nat) (b : Doorbell), (getInst s page).st = .active ∧ broken s rkRawRx page b) ∧
    (∃ (s : State) (page : Nat) (b : Doorbell), (getInst s page).st = .active ∧ broken s rkTs page b) ∧
    (∃ (s : State) (page : Nat) (b : Doorbell), (getInst s page).st = .active ∧ broken s rkSteer page b) ∧
    (∃ (s : State) (page : Nat) (b : Doorbell), (getInst s page).st = .active ∧ broken s rkAdmin page b) ∧
    (∃ (s : State) (page : Nat) (b : Doorbell), (getInst s page).st = .active ∧ broken s rkAdminCpl page b) ∧
    (∃ (s : State) (page : Nat) (b : Doorbell), (getInst s page).st = .active ∧ broken s rkTlm page b) :=
  ⟨⟨up, 1, { aligned := false }, by decide +kernel, .inl rfl⟩,
  ⟨up, 1, { reserved := 256 }, by decide +kernel, .inr (.inl (by decide))⟩,
  ⟨up, 1, { number := 9 }, by decide +kernel,
  .inr (.inr (.inr fun k r h1 h2 => by cases h1; have h3 : getRing up (ringKey rkCq 9) = some r := h2; rw [show getRing up (ringKey rkCq 9) = none by decide +kernel] at h3; cases h3))⟩,
  ⟨up, 1, { aligned := false }, by decide +kernel, .inl rfl⟩,
  ⟨up, 1, { reserved := 256 }, by decide +kernel, .inr (.inl (by decide))⟩,
  ⟨up, 1, { number := 9 }, by decide +kernel, .inr (.inr (.inr fun k r h1 => by cases h1))⟩,
  ⟨up, 1, { aligned := false }, by decide +kernel, .inl rfl⟩,
  ⟨up, 1, { reserved := 256 }, by decide +kernel, .inr (.inl (by decide))⟩,
  ⟨up, 1, { number := 9 }, by decide +kernel, .inr (.inr (.inr fun k r h1 => by cases h1))⟩,
  ⟨up, 1, { aligned := false }, by decide +kernel, .inl rfl⟩,
  ⟨up, 1, {}, by decide +kernel, .inr (.inr (.inl ⟨by decide, by decide⟩))⟩,
  ⟨up, 1, {}, by decide +kernel, .inr (.inr (.inl ⟨by decide, by decide⟩))⟩,
  ⟨up, 1, {}, by decide +kernel, .inr (.inr (.inl ⟨by decide, by decide⟩))⟩⟩

theorem test_met_OverrunAndResettingDoorbells :
    (∃ (s : State) (page k : Nat) (b : Doorbell) (r : Ring), r.entries < (b.index - r.cons).toNat ∧ reaches s rkSq page b k r) ∧
    (∃ (s : State) (page k : Nat) (b : Doorbell) (r : Ring), r.entries < (b.index - r.cons).toNat ∧ reaches s rkRawTx page b k r) ∧
    (∃ (s : State) (page k : Nat) (b : Doorbell) (r : Ring), r.entries < (b.index - r.cons).toNat ∧ reaches s rkRawRx page b k r) ∧
    (∃ (s : State) (page k : Nat) (b : Doorbell) (r : Ring), ringCount r < (b.index - r.cons).toNat ∧ reaches s rkCq page b k r) ∧
    (∃ (s : State) (page k : Nat) (b : Doorbell) (r : Ring), ringCount r < (b.index - r.cons).toNat ∧ reaches s rkTs page b k r) ∧
    (∃ (s : State) (page k : Nat) (b : Doorbell) (r : Ring), ringCount r < (b.index - r.cons).toNat ∧ reaches s rkEvent page b k r) ∧
    (∃ (s : State) (page : Nat), ((getInst s page).st = .resetting ∨ (getInst s page).st = .destroying)) :=
  ⟨⟨withRing (ringKey rkSq 9) (wrapRing rkSq 1 0xFFFFFFF1), 1, ringKey rkSq 9, bell 9 49, wrapRing rkSq 1 0xFFFFFFF1, by decide +kernel,
  by unfold reaches; decide +kernel⟩,
  ⟨withRing (rawKey rkRawTx 1 15) (wrapRing rkRawTx 1 0xFFFFFFF1), 1, rawKey rkRawTx 1 15, bell 15 49, wrapRing rkRawTx 1 0xFFFFFFF1,
  by decide +kernel, by unfold reaches; decide +kernel⟩,
  ⟨withRing (rawKey rkRawRx 1 15) (wrapRing rkRawRx 1 0xFFFFFFF1), 1, rawKey rkRawRx 1 15, bell 15 49, wrapRing rkRawRx 1 0xFFFFFFF1,
  by decide +kernel, by unfold reaches; decide +kernel⟩,
  ⟨withRing (ringKey rkCq 5) (wrapRing rkCq 1 0xFFFFFFF1), 1, ringKey rkCq 5, bell 5 0xFFFFFFF2, wrapRing rkCq 1 0xFFFFFFF1, by decide +kernel,
  by unfold reaches; decide +kernel⟩,
  ⟨withRing (ringKey rkTs 1) (wrapRing rkTs 1 0xFFFFFFF1), 1, ringKey rkTs 1, bell 0 0xFFFFFFF2, wrapRing rkTs 1 0xFFFFFFF1, by decide +kernel,
  by unfold reaches; decide +kernel⟩,
  ⟨withRing (ringKey rkEvent 1) (wrapRing rkEvent 1 0xFFFFFFF1), 1, ringKey rkEvent 1, bell 0 0xFFFFFFF2, wrapRing rkEvent 1 0xFFFFFFF1,
  by decide +kernel, by unfold reaches; decide +kernel⟩,
  ⟨{ up with instances := [(1, { inst 1 with st := .destroying })] }, 1, by decide +kernel⟩⟩

theorem test_met_MailboxCompletes :
    (∃ (s : State), ready s rdyMgmt = true ∧ s.mgmt.restarting = false ∧ s.mgmt.mbox = none) ∧
    (∃ (s : State) (q : MboxReq), ready s rdyMgmt = true ∧ s.mgmt.restarting = false ∧ s.mgmt.mbox = some q ∧ s.mgmt.recovery = false) :=
  ⟨⟨up, by decide +kernel⟩,
  ⟨{ up with mgmt := { mbox := some { code := 1, seq := 255, arg := 0 } } }, { code := 1, seq := 255, arg := 0 }, by decide +kernel⟩⟩

theorem test_met_WorkRequestsStart :
    (∃ (s : State) (i : Nat) (q : Qp) (index : BitVec 32) (d : Bytes) (w : SendWr), mayStart s i 1 q index d w ∧ (localAccess s q.owner w.lkey
    w.localAddr w.length 0).1 = stOK) ∧
    (∃ (s : State) (i : Nat) (q : Qp) (index : BitVec 32) (d : Bytes) (w : SendWr), mayStart s i 2 q index d w ∧ (localAccess s q.owner w.lkey
    w.localAddr w.length 0).1 = stOK) ∧
    (∃ (s : State) (i : Nat) (q : Qp) (index : BitVec 32) (d : Bytes) (w : SendWr), mayStart s i 3 q index d w ∧ (localAccess s q.owner w.lkey
    w.localAddr w.length acLocalWrite).1 = stOK) ∧
    (∃ (s : State) (inst number : Nat) (frame d f : Bytes) (t : List Bytes) (r : Ring) (x : RawDesc) (u : State), getRing s (rawKey rkRawTx inst
    number) = some r ∧ r.posted = d :: t ∧ instActive s inst = true ∧ x = parseRaw d ∧ f = sliceZ frame 0 (min x.length 16384) ∧ (portExists s
    x.port = true → portReady s x.port = true) ∧ r.failed = false ∧ rawBad s d x f = false ∧ (localAccess s inst x.lkey x.addr x.length 0).1 = stOK
    ∧ bucketPermits s (instBucket inst false) = true ∧ u = bucketCharge (modRing s (rawKey rkRawTx inst number) fun r =>
    { r with cons := r.cons + 1, posted := t, rawOut := r.rawOut ++ [{ index := r.cons, cookie := x.cookie, bytes := x.length, signaled := bit x.flags 0 }] })
    (instBucket inst false) (wireBytes f.length) ∧ txOpen u x.port = true) ∧
    (∃ (s : State) (i : Nat) (q : Qp) (w : SendWr), getQp s i = some q ∧ q.sends.find? (fun w => w.started && w.done.isNone && w.opcode ≠ 3 &&
    w.sent < w.packets) = some w) ∧
    (∃ (s : State) (r : CmdRing) (tag : BitVec 32) (c : PendCmd) (ui : Nat) (u : MUnit), s.cmds.find? (fun c => c.ring = r && c.tag = tag) = some c
    ∧ s.units.find? (fun u => u.2.loadCmd = some c.id) = some (ui, u)) ∧
    (∃ (s t : State) (r : CmdRing) (tag index : BitVec 32), s.cmds.find? (fun c => c.ring = r && c.tag = tag) = none ∧ takeCmd s r = some (index,
    t)) ∧
    (∃ (s : State) (inst number : Nat) (r : Ring) (d : Bytes) (t : List Bytes), getRing s (rawKey rkRawTx inst number) = some r ∧ r.posted = d :: t
    ∧ instActive s inst = true) ∧
    (∃ (s : State) (i psn msn : Nat) (q : Qp) (x : Nat × Bytes × Bool) (rest : List (Nat × Nat × Nat × Bytes × Bool)), getQp s i = some q ∧ q.respQ
    = (psn, msn, x) :: rest) :=
  ⟨⟨wrState (sendDesc 1), 9, rtsQp, 0, sendDesc 1, parseSend 0 (sendDesc 1) [], by unfold mayStart; decide +kernel, by decide +kernel⟩,
  ⟨wrState (sendDesc 2), 9, rtsQp, 0, sendDesc 2, parseSend 0 (sendDesc 2) [], by unfold mayStart; decide +kernel, by decide +kernel⟩,
  ⟨wrState (sendDesc 3), 9, rtsQp, 0, sendDesc 3, parseSend 0 (sendDesc 3) [], by unfold mayStart; decide +kernel, by decide +kernel⟩,
  ⟨wrState (record 64 [(0, 1, 16), (4, 4, 769), (16, 8, 4096), (24, 4, 60)]), 1, 15, [], record 64 [(0, 1, 16), (4, 4, 769), (16, 8, 4096), (24, 4,
  60)], _, [], { kind := rkRawTx, owner := 1, prod := 1, posted := [record 64 [(0, 1, 16), (4, 4, 769), (16, 8, 4096), (24, 4, 60)]] }, parseRaw
  (record 64 [(0, 1, 16), (4, 4, 769), (16, 8, 4096), (24, 4, 60)]), _, by decide +kernel, by decide +kernel, by decide +kernel, rfl, rfl,
  by decide +kernel, rfl, by decide +kernel, by decide +kernel, by decide +kernel, rfl, by decide +kernel⟩,
  ⟨{ up with qps := [(9, { rtsQp with sends := [{ parseSend 0 (sendDesc 1) [] with started := true }] })] }, 9,
  { rtsQp with sends := [{ parseSend 0 (sendDesc 1) [] with started := true }] }, { parseSend 0 (sendDesc 1) [] with started := true },
  by decide +kernel⟩,
  ⟨{ withUnit ({ unit .green with loadCmd := some 3 }) with cmds := [{ id := 3, ring := .inst 1, tag := 7, index := 0, opcode := 48, arg := 2 }] },
  .inst 1, 7, { id := 3, ring := .inst 1, tag := 7, index := 0, opcode := 48, arg := 2 }, 2, { unit .green with loadCmd := some 3 },
  by decide +kernel⟩,
  ⟨up, _, .admin, 7, _, by decide +kernel, rfl⟩,
  ⟨wrState (record 64 [(0, 1, 16), (4, 4, 769), (16, 8, 4096), (24, 4, 60)]), 1, 15,
  { kind := rkRawTx, owner := 1, prod := 1, posted := [record 64 [(0, 1, 16), (4, 4, 769), (16, 8, 4096), (24, 4, 60)]] }, record 64 [(0, 1, 16),
  (4, 4, 769), (16, 8, 4096), (24, 4, 60)], [], by decide +kernel⟩,
  ⟨withQp9 { pktQp with respQ := [(3, 4, 0, [], true)] }, 9, 3, 4, { pktQp with respQ := [(3, 4, 0, [], true)] }, (0, [], true), [],
  by decide +kernel⟩⟩

theorem test_met_ArrayCyclesComplete :
    (∃ (s t : State) (core shelf e : Nat) (f : OpF) (m : Mode), coreUp s core = true ∧ t = routeCore (settleCluster s (cycleOf s)) core (cycleOf s)
    ∧ tgetD t.coreFired core 0 ≠ cycleOf s + 1 ∧ pickOp t core (cycleOf s) = some (shelf, e, f, m)) ∧
    (∃ (s : State) (core : Nat), coreUp s core = true) ∧
    (∃ (s : State) (core dir g : Nat), linkEnd core dir = .cross g ∧ coreUp s core = true ∧ coreUp s g = true) :=
  ⟨⟨arr opW, _, 0, 0, 0, opDecode opW, .data, by decide +kernel, rfl, by decide +kernel⟩,
  ⟨up, 20479, by decide +kernel⟩,
  ⟨up, coreAt 0 63 0, 1, coreAt 1 0 0, by decide +kernel⟩⟩

theorem test_met_ArrayEventsComplete :
    (∃ (s t u : State) (core dir shelf tag : Nat), coreUp s core = true ∧ 0 < arrivingIn s core dir shelf ∧ t = regAdd (dropArriving s core dir
    shelf) arrParityCount 1 ∧ u = regOr (if regBit t arrParityLoc 31 then t else regPut t arrParityLoc (parityLoc core dir tag)) arrEvent 2) ∧
    (∃ (s : State) (l : Nat), l < 4 ∧ s.dieUp.getLsbD (ringDies l).1 = true ∧ s.dieUp.getLsbD (ringDies l).2 = true) ∧
    (∃ (s : State) (core shelf entry c ui : Nat) (u : MUnit) (f : OpF), tget s.joinSince (joinKey core shelf entry) = some c ∧ unitAt s (clusterOf
    core) shelf = some (ui, u) ∧ f = opDecode (tgetD (getCs s core shelf).ops entry 0) ∧ coreUp s core = true ∧ (u.st = .fired ∨ u.st = .cooling) ∧
    u.scrub = none ∧ u.retired = false ∧ coreAside u core = false ∧ isJoin f = true ∧ joinHeld s core shelf f = true ∧ c + wdogNow s ≤ cycleOf s + 1
    ∧ tget s.joinDone (joinKey core shelf entry) ≠ some (wdogNow s)) :=
  ⟨⟨{ up with inqs := [(qKey 20479 3 3, { toks := [{}], lastIn := (16000000, 1) })] }, _, _, 20479, 3, 3, 2, by decide +kernel, by decide +kernel,
  rfl, rfl⟩,
  ⟨up, 3, by decide +kernel⟩,
  ⟨arr joinW, 0, 0, 0, 5, 2, unit .fired, _, by decide +kernel, by decide +kernel, rfl, (by decide +kernel)⟩⟩

theorem test_met_GenerationStepsComplete :
    (∃ (s t : State) (ui : Nat) (u v : MUnit) (g : GenParams), getUnit s ui = some u ∧ roundDue s u = true ∧ u.scrub = none ∧ t = closeDue
    (swapAtRound s ui u) ui u ∧ getUnit t ui = some v ∧ v.gen = some g) ∧
    (∃ (s : State) (ui k : Nat) (u : MUnit) (g : GenParams) (n t : GenTurn), getUnit s ui = some u ∧ u.gen = some g ∧ (getSlot u k).next = some n ∧
    n.start ≤ cycleOf s ∧ u.scrub = none ∧ u.retired = false ∧ (getSlot u k).turn = none ∧ t = startedTurn u g (getSlot u k) n ∧ t.tokens = []) ∧
    (∃ (s : State) (ui k : Nat) (u : MUnit) (g : GenParams) (n t : GenTurn), getUnit s ui = some u ∧ u.gen = some g ∧ (getSlot u k).next = some n ∧
    n.start ≤ cycleOf s ∧ u.scrub = none ∧ u.retired = false ∧ (getSlot u k).turn = none ∧ t = startedTurn u g (getSlot u k) n ∧ t.tokens ≠ []) ∧
    (∃ (s : State) (ui k : Nat) (u : MUnit) (g : GenParams) (t : GenTurn), getUnit s ui = some u ∧ u.gen = some g ∧ (getSlot u k).turn = some t ∧
    t.done ≤ cycleOf s ∧ u.retired = false ∧ u.scrub = none) ∧
    (∃ (s : State) (ui : Nat) (r : Nat × GenResult), dueResult s ui = some r) :=
  ⟨⟨seqState [] genSlot, _, 2, genUnit genSlot, genUnit genSlot, genp, by decide +kernel, by decide +kernel, by decide +kernel, rfl,
  by decide +kernel⟩,
  ⟨withUnit (genUnit
  { genSlot with next := some { start := 9, tokens := [], sampling := true, base := 5, done := 0 }, req := some { op := 2, reqId := 1, keep := 5, toIngest := [1] } }),
  2, 0, genUnit
  { genSlot with next := some { start := 9, tokens := [], sampling := true, base := 5, done := 0 }, req := some { op := 2, reqId := 1, keep := 5, toIngest := [1] } },
  genp, { start := 9, tokens := [], sampling := true, base := 5, done := 0 }, _, by decide +kernel, by decide +kernel, by decide +kernel,
  (by decide +kernel), by decide +kernel, by decide +kernel, by decide +kernel, rfl, by decide +kernel⟩,
  ⟨withUnit (genUnit
  { genSlot with next := some { start := 9, tokens := [1], sampling := true, base := 5, done := 0 }, req := some { op := 2, reqId := 1, keep := 5, toIngest := [1] } }),
  2, 0, genUnit
  { genSlot with next := some { start := 9, tokens := [1], sampling := true, base := 5, done := 0 }, req := some { op := 2, reqId := 1, keep := 5, toIngest := [1] } },
  genp, { start := 9, tokens := [1], sampling := true, base := 5, done := 0 }, _, by decide +kernel, by decide +kernel, by decide +kernel,
  (by decide +kernel), by decide +kernel, by decide +kernel, by decide +kernel, rfl, by decide +kernel⟩,
  ⟨withUnit (genUnit { genSlot with turn := some { start := 9, tokens := [], sampling := true, base := 5, done := 10 } }), 2, 0, genUnit
  { genSlot with turn := some { start := 9, tokens := [], sampling := true, base := 5, done := 10 } }, genp,
  { start := 9, tokens := [], sampling := true, base := 5, done := 10 }, by decide +kernel⟩,
  ⟨seqState [] genSlot, 2, (2, { at_ := 0, qp := 9, data := [] }), by decide +kernel⟩⟩

theorem test_met_SequenceMessagesComplete :
    (∃ (s : State) (qp k : Nat) (q : Qp) (x : Nat × Bytes) (h : SeqHdr) (ui : Nat) (v : MUnit), getQp s qp = some q ∧ q.service = some k ∧
    q.seqIn.find? (seqReady s k) = some x ∧ h = parseSeq x.2 ∧ seqUnit s k h = some (ui, v) ∧ firstFail (seqChecks qp q h x.2 (some (ui, v))) = none
    ∧ h.op = 1) ∧
    (∃ (s : State) (qp k : Nat) (q : Qp) (x : Nat × Bytes) (h : SeqHdr) (st : Nat), getQp s qp = some q ∧ q.service = some k ∧ q.seqIn.find?
    (seqReady s k) = some x ∧ h = parseSeq x.2 ∧ firstFail (seqChecks qp q h x.2 (seqUnit s k h)) = some st ∧ h.op = 1) ∧
    (∃ (s : State) (qp k : Nat) (q : Qp) (x : Nat × Bytes) (h : SeqHdr) (ui : Nat) (v : MUnit), getQp s qp = some q ∧ q.service = some k ∧
    q.seqIn.find? (seqReady s k) = some x ∧ h = parseSeq x.2 ∧ seqUnit s k h = some (ui, v) ∧ firstFail (seqChecks qp q h x.2 (some (ui, v))) = none
    ∧ h.op = 2) ∧
    (∃ (s : State) (qp k : Nat) (q : Qp) (x : Nat × Bytes) (h : SeqHdr) (st : Nat), getQp s qp = some q ∧ q.service = some k ∧ q.seqIn.find?
    (seqReady s k) = some x ∧ h = parseSeq x.2 ∧ firstFail (seqChecks qp q h x.2 (seqUnit s k h)) = some st ∧ h.op = 2) ∧
    (∃ (s : State) (qp k : Nat) (q : Qp) (x : Nat × Bytes) (h : SeqHdr) (ui : Nat) (v : MUnit), getQp s qp = some q ∧ q.service = some k ∧
    q.seqIn.find? (seqReady s k) = some x ∧ h = parseSeq x.2 ∧ seqUnit s k h = some (ui, v) ∧ firstFail (seqChecks qp q h x.2 (some (ui, v))) = none
    ∧ h.op = 3) ∧
    (∃ (s : State) (qp k : Nat) (q : Qp) (x : Nat × Bytes) (h : SeqHdr) (st : Nat), getQp s qp = some q ∧ q.service = some k ∧ q.seqIn.find?
    (seqReady s k) = some x ∧ h = parseSeq x.2 ∧ firstFail (seqChecks qp q h x.2 (seqUnit s k h)) = some st ∧ h.op = 3) ∧
    (∃ (s : State) (qp k : Nat) (q : Qp) (x : Nat × Bytes) (h : SeqHdr) (ui : Nat) (v : MUnit), getQp s qp = some q ∧ q.service = some k ∧
    q.seqIn.find? (seqReady s k) = some x ∧ h = parseSeq x.2 ∧ seqUnit s k h = some (ui, v) ∧ firstFail (seqChecks qp q h x.2 (some (ui, v))) = none
    ∧ h.op = 4) ∧
    (∃ (s : State) (qp k : Nat) (q : Qp) (x : Nat × Bytes) (h : SeqHdr) (st : Nat), getQp s qp = some q ∧ q.service = some k ∧ q.seqIn.find?
    (seqReady s k) = some x ∧ h = parseSeq x.2 ∧ firstFail (seqChecks qp q h x.2 (seqUnit s k h)) = some st ∧ h.op = 4) :=
  ⟨⟨seqState (seqMsg 32 1 []) genSlot, 9, serviceKey 1 15, seqQp (seqMsg 32 1 []), (0, seqMsg 32 1 []), parseSeq (seqMsg 32 1 []), 2, genUnit
  genSlot, by decide +kernel⟩,
  ⟨seqState (seqMsg 32 1 [(5, 1, 255)]) genSlot, 9, serviceKey 1 15, seqQp (seqMsg 32 1 [(5, 1, 255)]), (0, seqMsg 32 1 [(5, 1, 255)]), parseSeq
  (seqMsg 32 1 [(5, 1, 255)]), 3, by decide +kernel⟩,
  ⟨seqState (seqMsg 40 2 [(5, 1, 128), (7, 1, 2), (15, 1, 5)]) genSlot, 9, serviceKey 1 15, seqQp (seqMsg 40 2 [(5, 1, 128), (7, 1, 2), (15, 1,
  5)]), (0, seqMsg 40 2 [(5, 1, 128), (7, 1, 2), (15, 1, 5)]), parseSeq (seqMsg 40 2 [(5, 1, 128), (7, 1, 2), (15, 1, 5)]), 2, genUnit genSlot,
  by decide +kernel⟩,
  ⟨seqState (seqMsg 40 2 [(5, 1, 255)]) genSlot, 9, serviceKey 1 15, seqQp (seqMsg 40 2 [(5, 1, 255)]), (0, seqMsg 40 2 [(5, 1, 255)]), parseSeq
  (seqMsg 40 2 [(5, 1, 255)]), 3, by decide +kernel⟩,
  ⟨seqState (seqMsg 36 3 [(5, 1, 128), (7, 1, 16), (15, 1, 5), (28, 1, 1)]) genSlot, 9, serviceKey 1 15, seqQp (seqMsg 36 3 [(5, 1, 128), (7, 1,
  16), (15, 1, 5), (28, 1, 1)]), (0, seqMsg 36 3 [(5, 1, 128), (7, 1, 16), (15, 1, 5), (28, 1, 1)]), parseSeq (seqMsg 36 3 [(5, 1, 128), (7, 1, 16),
  (15, 1, 5), (28, 1, 1)]), 2, genUnit genSlot, by decide +kernel⟩,
  ⟨seqState (seqMsg 36 3 [(5, 1, 255)]) genSlot, 9, serviceKey 1 15, seqQp (seqMsg 36 3 [(5, 1, 255)]), (0, seqMsg 36 3 [(5, 1, 255)]), parseSeq
  (seqMsg 36 3 [(5, 1, 255)]), 3, by decide +kernel⟩,
  ⟨seqState (seqMsg 32 4 [(5, 1, 128)]) genSlot, 9, serviceKey 1 15, seqQp (seqMsg 32 4 [(5, 1, 128)]), (0, seqMsg 32 4 [(5, 1, 128)]), parseSeq
  (seqMsg 32 4 [(5, 1, 128)]), 2, genUnit genSlot, by decide +kernel⟩,
  ⟨seqState (seqMsg 32 4 [(5, 1, 255)]) genSlot, 9, serviceKey 1 15, seqQp (seqMsg 32 4 [(5, 1, 255)]), (0, seqMsg 32 4 [(5, 1, 255)]), parseSeq
  (seqMsg 32 4 [(5, 1, 255)]), 3, by decide +kernel⟩⟩

theorem test_met_ArmaturePeriodsComplete :
    (∃ (s : State) (slot : Nat) (a : Armature), getArm s slot = some a ∧ a.st = .armed ∧ periodAt a.plan a.startK ≤ netNs s) ∧
    (∃ (s : State) (slot : Nat) (a : Armature), getArm s slot = some a ∧ a.st = .running ∧ periodAt a.plan (a.period + 1) ≤ netNs s) ∧
    (∃ (s : State) (slot : Nat) (a : Armature), getArm s slot = some a ∧ a.st = .running ∧ timeOk s a = false ∧ a.timeLost = false) :=
  ⟨⟨armAt (arm .armed) 0, 0, arm .armed, by decide +kernel⟩,
  ⟨armAt (arm .running) 1024, 0, arm .running, by decide +kernel⟩,
  ⟨{ armAt (arm .running) 0 with tb := {} }, 0, arm .running, by decide +kernel⟩⟩

theorem test_met_ArmatureStreamsComplete :
    (∃ (s : State) (slot stream k : Nat) (a : Armature) (t : Stream), getArm s slot = some a ∧ findStream a.plan stream = some t ∧ t.kind = 1 ∧
    isLocalShard a.plan a.member t.dst = true ∧ feedPeriod s a t = some k) ∧
    (∃ (s : State) (slot stream p : Nat) (a : Armature) (t : Stream) (h : Shard) (ts : List (TokKind × DWord)), getArm s slot = some a ∧ findStream
    a.plan stream = some t ∧ windowPort a t = some p ∧ findShard a.plan t.src = some h ∧ a.st = .running ∧ (streamRun a stream).out = some
    (a.period, ts) ∧ speaks a h = true ∧ (shardRun a h.num).muteUntil ≠ some a.period ∧ (streamRun a stream).sentPeriod ≠ some a.period ∧ (shardUnit
    s slot h).isSome = true ∧ inWindow s a t p = true ∧ bundlePort s p = true) ∧
    (∃ (s t : State) (port n : Nat) (f : RxFrame) (a : Armature) (b : Stream) (ts : List (TokKind × DWord)), waiting s port (fun d => d = .armature)
    = some f ∧ t = takeWaiting s port (fun d => d = .armature) ∧ bundleOwner t f.data = some (n, a, b) ∧ bundleCheck a b f.data = some ts ∧ ((be
    f.data 28 8 : Int) = curPeriod t a.plan ∨ (be f.data 28 8 : Int) = curPeriod t a.plan + 1)) ∧
    (∃ (s t : State) (port : Nat) (f : RxFrame), waiting s port (fun d => d = .armature) = some f ∧ t = takeWaiting s port (fun d => d = .armature)
    ∧ (∀ n a b, bundleOwner t f.data = some (n, a, b) → ∀ ts, bundleCheck a b f.data = some ts → (be f.data 28 8 : Int) ≠ curPeriod t a.plan ∧ (be
    f.data 28 8 : Int) ≠ curPeriod t a.plan + 1)) ∧
    (∃ (s : State) (slot stream : Nat) (a : Armature) (t : Stream), getArm s slot = some a ∧ findStream a.plan stream = some t ∧ a.st = .running ∧
    t.kind ≠ 2 ∧ (isLocalShard a.plan a.member t.dst = true ∨ hears a t = true) ∧ beatAt a.plan a.period t.consumeBeat ≤ netNs s ∧ (streamRun a
    stream).done ≠ some a.period) ∧
    (∃ (s : State) (slot shard : Nat) (a : Armature) (h : Shard), getArm s slot = some a ∧ (localShards a.plan a.member).find? (·.num = shard) =
    some h ∧ a.st = .running ∧ beatAt a.plan a.period h.collectBeat ≤ netNs s ∧ (shardRun a shard).collected ≠ some a.period ∧ (h.primary = a.member
    ∨ (shardUnit s slot h).isSome = true)) :=
  ⟨⟨armAt (arm .running) 0, 0, 1, 0, arm .running, theStream 1, by decide +kernel⟩,
  ⟨armAt ({ arm .running with streams := [(0, { out := some (0, []) })] }) 128, 0, 0, 0,
  { arm .running with streams := [(0, { out := some (0, []) })] }, theStream 0,
  { num := 0, primary := 1, standby := 2, unit := 2, firing := 16, collectBeat := 1 }, [], by decide +kernel⟩,
  ⟨withFrame (armAt (arm .running) 0) (rxFrame bundle .armature), _, 8, 0, rxFrame bundle .armature, arm .running, theStream 0, List.replicate 8
  (.void, 0), by decide +kernel, rfl, by decide +kernel, bundle_check, by decide +kernel⟩,
  ⟨withFrame (armAt (arm .running) 0) (rxFrame [] .armature), _, 8, rxFrame [] .armature, by decide +kernel, rfl,
  by intro n a b h; have e : bundleOwner (takeWaiting (withFrame (armAt (arm .running) 0) (rxFrame [] .armature)) 8 fun d => d = .armature) [] = none := (by decide +kernel); exact absurd (e.symm.trans h) (by simp)⟩,
  ⟨armAt (arm .running) 512, 0, 0, arm .running, theStream 0, by decide +kernel⟩,
  ⟨armAt (arm .running) 64, 0, 0, arm .running, { num := 0, primary := 1, standby := 2, unit := 2, firing := 16, collectBeat := 1 },
  by decide +kernel⟩⟩

theorem test_met_ReceiveFramesComplete :
    (∃ (s t : State) (port stamp : Nat) (err : Int) (l : LineState), portReceives s port = true ∧ (getPort s port).rx = none ∧ rxStamp (countFec s
    port l) port err = (stamp, t)) ∧
    (∃ (s : State) (port : Nat) (f : RxFrame), (getPort s port).rx = some f ∧ f.data.length + 4 < 64 ∧ f.dest = none) ∧
    (∃ (s : State) (port : Nat) (f : RxFrame), (getPort s port).rx = some f ∧ f.dest = none ∧ 64 ≤ f.data.length + 4 ∧ f.t0 + min 128 (f.data.length
    + 4) * f.perByte ≤ s.now) ∧
    (∃ (s : State) (port : Nat) (f : RxFrame) (d : Dest), (getPort s port).rx = some f ∧ f.dest = some d ∧ f.t0 + min (f.data.length + 4) (regBits s
    (macMaxFrame port) 13 0) * f.perByte ≤ s.now) :=
  ⟨⟨up, _, 8, _, 0, {}, by decide +kernel, by decide +kernel, rfl⟩,
  ⟨withPort { rx := some { data := List.replicate 59 0, fcsOk := true, capture := 0, t0 := 0, perByte := 12, dest := none } }, 8,
  { data := List.replicate 59 0, fcsOk := true, capture := 0, t0 := 0, perByte := 12, dest := none }, by decide +kernel⟩,
  ⟨withPort { rx := some { data := List.replicate 60 0, fcsOk := true, capture := 0, t0 := 0, perByte := 12, dest := none } }, 8,
  { data := List.replicate 60 0, fcsOk := true, capture := 0, t0 := 0, perByte := 12, dest := none }, by decide +kernel⟩,
  ⟨withPort { rx := some { data := List.replicate 60 0, fcsOk := true, capture := 0, t0 := 0, perByte := 12, dest := some .lldp } }, 8,
  { data := List.replicate 60 0, fcsOk := true, capture := 0, t0 := 0, perByte := 12, dest := some .lldp }, .lldp, by decide +kernel⟩⟩

theorem test_met_WindowsComplete :
    (∃ (s : State) (id c : Nat) (m : Message), getMsg s id = some m ∧ m.tookLane = some c ∧ m.started = true ∧ m.entered = false ∧ m.acted = false ∧
    c + 8 < cycleOf s) ∧
    (∃ (s h : State) (id ui t : Nat) (m : Message) (k : Binding) (u : MUnit), h = handOver s s.now ∧ getMsg h id = some m ∧ m.binding = some k ∧
    m.unit = some ui ∧ getUnit h ui = some u ∧ windowEnd m = some t ∧ t + 12 * 600 + m.f * 375 ≤ h.now ∧ m.started = true ∧ m.acted = false ∧ m.cDue
    = none) ∧
    (∃ (s h : State) (id ui t : Nat) (m : Message) (u : MUnit), h = handOver s s.now ∧ getMsg h id = some m ∧ m.unit = some ui ∧ getUnit h ui = some
    u ∧ m.cDue = some t ∧ t ≤ h.now ∧ m.acted = false) ∧
    (∃ (s h : State) (id : Nat) (kind : CheckKind) (m : Message), h = handOver s (s.now - 1) ∧ getMsg h id = some m ∧ m.finished = false ∧ 0 <
    (match kind with | .fcs => m.pendFcs | .crc => m.pendCrc | .tag => m.pendTag)) ∧
    (∃ (s h : State) (id : Nat) (m : Message) (k : Binding) (r : Reply), h = handOver s s.now ∧ getMsg h id = some m ∧ m.binding = some k ∧ m.reply
    = some r ∧ r.provisional = true ∧ checksPending m = true ∧ m.rescinded = false ∧ r.handedAt + k.pTimeout * 600 ≤ h.now) ∧
    (∃ (s : State) (id t : Nat) (m : Message), getMsg s id = some m ∧ m.steerUntil = some t ∧ t ≤ s.now) ∧
    (∃ (s h : State) (id t : Nat) (m : Message) (k : Binding) (u : MUnit), h = handOver s s.now ∧ getMsg h id = some m ∧ m.binding = some k ∧
    m.unit.bind (getUnit h) = some u ∧ fullReady m = some t ∧ m.acted = true ∧ m.fullDone = false ∧ t ≤ h.now ∧ (∀ d, m.cDue = some d → d ≤ h.now)) :=
  ⟨⟨withMsg ({ msg with tookLane := some 5, started := true }), 4, 5, { msg with tookLane := some 5, started := true }, by decide +kernel⟩,
  ⟨withMsg ({ msg with started := true }), _, 4, 2, 12, { msg with started := true }, bind1, unit .fired, rfl, by decide +kernel⟩,
  ⟨withMsg ({ msg with cDue := some 6000000000 }), _, 4, 2, 6000000000, { msg with cDue := some 6000000000 }, unit .fired, rfl, by decide +kernel⟩,
  ⟨withMsg ({ msg with pendTag := 1 }), _, 4, .tag, { msg with pendTag := 1 }, rfl, by decide +kernel⟩,
  ⟨withMsg
  ({ msg with pendFcs := 1, reply := some { seq := 0, port := 8, template := { binding := 63, number := 0, flags := 0, image := [], payloadOff := 0, fields := [] }, fields := [], frame := [], provisional := true, handedAt := 0 } }),
  _, 4,
  { msg with pendFcs := 1, reply := some { seq := 0, port := 8, template := { binding := 63, number := 0, flags := 0, image := [], payloadOff := 0, fields := [] }, fields := [], frame := [], provisional := true, handedAt := 0 } },
  bind1,
  { seq := 0, port := 8, template := { binding := 63, number := 0, flags := 0, image := [], payloadOff := 0, fields := [] }, fields := [], frame := [], provisional := true, handedAt := 0 },
  rfl, by decide +kernel⟩,
  ⟨withMsg ({ msg with steerUntil := some 6000000000 }), 4, 6000000000, { msg with steerUntil := some 6000000000 }, by decide +kernel⟩,
  ⟨withMsg ({ msg with acted := true, fullDone := false }), _, 4, 7212, { msg with acted := true, fullDone := false }, bind1, unit .fired, rfl,
  by decide +kernel, by decide +kernel, (by decide +kernel), by decide +kernel, by decide +kernel, by decide +kernel, (by decide +kernel), (fun d h
  => by cases h)⟩⟩

theorem test_met_ReceivedPacketsComplete :
    (∃ (s t : State) (port i : Nat) (f : RxFrame) (q : Qp) (k : Pkt), acceptsPacket s port [0, 1, 2] f i q t ∧ k = parsePkt f.data) ∧
    (∃ (s t : State) (port i : Nat) (f : RxFrame) (q : Qp) (k : Pkt), acceptsPacket s port [3] f i q t ∧ k = parsePkt f.data ∧ k.tagOk q.rxKey =
    true ∧ (k.retx = true ∨ (k.msn, k.psn) ∈ q.rnrPsns ∨ (seqSub k.psn q.ePsn < 256 ∧ k.psn ∉ q.got))) ∧
    (∃ (s t : State) (port i : Nat) (f : RxFrame) (q : Qp) (k : Pkt), acceptsPacket s port [4] f i q t ∧ k = parsePkt f.data ∧ k.tagOk q.rxKey =
    true ∧ q.st = .rts) :=
  ⟨⟨pktState (packet 1 262153 17 0 3720082269 [] [1, 2, 3]), _, 8, 9, rxFrame (packet 1 262153 17 0 3720082269 [] [1, 2, 3]) (.transport 1), pktQp,
  _, ⟨1, takeFrame (pktState (packet 1 262153 17 0 3720082269 [] [1, 2, 3])) 8 (rxFrame (packet 1 262153 17 0 3720082269 [] [1, 2, 3]) (.transport
  1)), by decide +kernel, by decide +kernel, by decide +kernel, by decide +kernel, by decide +kernel, rfl⟩, rfl⟩,
  ⟨pktState (packet 3 262153 17 0 3778444599 (List.replicate 16 0) []), _, 8, 9, rxFrame (packet 3 262153 17 0 3778444599 (List.replicate 16 0) [])
  (.transport 1), pktQp, _, ⟨1, takeFrame (pktState (packet 3 262153 17 0 3778444599 (List.replicate 16 0) [])) 8 (rxFrame (packet 3 262153 17 0
  3778444599 (List.replicate 16 0) []) (.transport 1)), by decide +kernel, by decide +kernel, by decide +kernel, by decide +kernel,
  by decide +kernel, rfl⟩, rfl, by decide +kernel⟩,
  ⟨pktState (packet 4 262153 17 0 1567695161 [] [1, 2, 3]), _, 8, 9, rxFrame (packet 4 262153 17 0 1567695161 [] [1, 2, 3]) (.transport 1), pktQp,
  _, ⟨1, takeFrame (pktState (packet 4 262153 17 0 1567695161 [] [1, 2, 3])) 8 (rxFrame (packet 4 262153 17 0 1567695161 [] [1, 2, 3]) (.transport
  1)), by decide +kernel, by decide +kernel, by decide +kernel, by decide +kernel, by decide +kernel, rfl⟩, rfl, by decide +kernel⟩⟩

theorem test_met_ControlPacketsComplete :
    (∃ (s t : State) (port i : Nat) (f : RxFrame) (q : Qp), acceptsPacket s port [0x10] f i q t ∧ q.st = .rts) ∧
    (∃ (s t : State) (port i code : Nat) (f : RxFrame) (q : Qp) (k : Pkt), acceptsPacket s port [0x11] f i q t ∧ k = parsePkt f.data ∧ code = byteAt
    k.body 0) ∧
    (∃ (s u : State) (port : Nat) (f : RxFrame) (k : Pkt), headProbe s port 0x12 = some (f, u) ∧ k = parsePkt f.data ∧ k.crcOk = true) ∧
    (∃ (s u : State) (port n : Nat) (f : RxFrame) (k : Pkt), headProbe s port 0x13 = some (f, u) ∧ k = parsePkt f.data ∧ k.crcOk = true ∧ peerOf u
    port (ipVer f.data) (BitVec.ofNat 128 (ipSrc f.data)) = some n) :=
  ⟨⟨pktState (packet 16 262153 17 0 2876632985 [] (List.replicate 56 0)), _, 8, 9, rxFrame (packet 16 262153 17 0 2876632985 [] (List.replicate 56
  0)) (.transport 1), pktQp, ⟨1, takeFrame (pktState (packet 16 262153 17 0 2876632985 [] (List.replicate 56 0))) 8 (rxFrame (packet 16 262153 17 0
  2876632985 [] (List.replicate 56 0)) (.transport 1)), by decide +kernel, by decide +kernel, by decide +kernel, ack_crc, by decide +kernel, rfl⟩,
  by decide +kernel⟩,
  ⟨pktState (packet 17 262153 17 0 1389784510 [] (1 :: List.replicate 7 0)), _, 8, 9, 1, rxFrame (packet 17 262153 17 0 1389784510 [] (1 ::
  List.replicate 7 0)) (.transport 1), pktQp, _, ⟨1, takeFrame (pktState (packet 17 262153 17 0 1389784510 [] (1 :: List.replicate 7 0))) 8 (rxFrame
  (packet 17 262153 17 0 1389784510 [] (1 :: List.replicate 7 0)) (.transport 1)), by decide +kernel, by decide +kernel, by decide +kernel,
  by decide +kernel, by decide +kernel, rfl⟩, rfl, by decide +kernel⟩,
  ⟨{ withFrame up1 (rxFrame (packet 18 0 0 0 3243989512 [] (List.replicate 8 0)) .probe) with peers := [(0, { port := 8, ip := 0x0A000002, ipv := 4 })] },
  _, 8, rxFrame (packet 18 0 0 0 3243989512 [] (List.replicate 8 0)) .probe, parsePkt (packet 18 0 0 0 3243989512 [] (List.replicate 8 0)), rfl,
  by decide +kernel⟩,
  ⟨{ withFrame up1 (rxFrame (packet 19 0 0 0 3785710454 [] (List.replicate 8 0)) .probe) with peers := [(0, { port := 8, ip := 0x0A000002, ipv := 4 })] },
  _, 8, 0, rxFrame (packet 19 0 0 0 3785710454 [] (List.replicate 8 0)) .probe, parsePkt (packet 19 0 0 0 3785710454 [] (List.replicate 8 0)), rfl,
  by decide +kernel⟩⟩

theorem test_met_PacketSendCompletes :
    (∃ (s h : State) (i psn : Nat) (rest : List Nat) (q : Qp) (w : SendWr), h = ctlSent s i ∧ getQp h i = some q ∧ q.st = .rts ∧ (q.txKey = none ∨
    q.ivCtr + 1 < 2 ^ 63) ∧ q.retxQ = psn :: rest ∧ sendOfPsn q psn = some w ∧ maySend h i q psn = true) ∧
    (∃ (s h : State) (i : Nat) (q : Qp) (x : Nat × Nat × Nat × Bytes × Bool) (rest : List (Nat × Nat × Nat × Bytes × Bool)), h = ctlSent s i ∧ getQp
    h i = some q ∧ q.st = .rts ∧ (q.txKey = none ∨ q.ivCtr + 1 < 2 ^ 63) ∧ q.retxQ = [] ∧ q.respQ = x :: rest ∧ maySend h i q q.unaPsn = true) ∧
    (∃ (s h : State) (i psn : Nat) (q : Qp) (w : SendWr), h = ctlSent s i ∧ getQp h i = some q ∧ q.st = .rts ∧ (q.txKey = none ∨ q.ivCtr + 1 < 2 ^
    63) ∧ q.retxQ = [] ∧ q.respQ = [] ∧ nextNew q = some (w, psn) ∧ maySend h i q psn = true) ∧
    (∃ (s h : State) (i : Nat) (q : Qp), h = ctlSent s i ∧ getQp h i = some q ∧ q.st = .rts ∧ q.txKey.isSome = true ∧ 2 ^ 63 ≤ q.ivCtr + 1) :=
  ⟨⟨withQp9 ({ sending with retxQ := [0] }), _, 9, 0, [], { sending with retxQ := [0] }, sendOne, rfl, by decide +kernel⟩,
  ⟨withQp9 ({ sending with respQ := [(0, 0, 0, [], true)] }), _, 9, { sending with respQ := [(0, 0, 0, [], true)] }, (0, 0, 0, [], true), [], rfl,
  by decide +kernel⟩,
  ⟨withQp9 sending, _, 9, 0, sending, sendOne, rfl, by decide +kernel⟩,
  ⟨withQp9 ({ sending with txKey := some 0, ivCtr := 2 ^ 63 - 1 }), _, 9, { sending with txKey := some 0, ivCtr := 2 ^ 63 - 1 }, rfl,
  by decide +kernel⟩⟩

theorem test_met_TransportTimersComplete :
    (∃ (s : State) (i t : Nat) (q : Qp), getQp s i = some q ∧ (q.st = .rtr ∨ q.st = .rts) ∧ q.unackedAt = some t ∧ t + regBits s wgtAckCoal 23 8 *
    600 ≤ s.now) ∧
    (∃ (s : State) (i t psn : Nat) (q : Qp), getQp s i = some q ∧ q.st = .rts ∧ q.timerAt = some t ∧ t ≤ s.now ∧ oldestOut q = some psn ∧ ackComing
    s i q = false) ∧
    (∃ (s : State) (i t : Nat) (q : Qp) (x : OutPkt), getQp s i = some q ∧ x ∈ q.outPkts ∧ x.sacked = false ∧ x.lost = false ∧ x.sackAfter = some t
    ∧ t + regBits s wgtReorderNs 15 0 * 600 ≤ s.now) ∧
    (∃ (s : State) (i t : Nat) (q : Qp), getQp s i = some q ∧ q.rnrUntil = some t ∧ t ≤ s.now) ∧
    (∃ (s : State) (i : Nat) (q : Qp), getQp s i = some q ∧ (q.st = .rtr ∨ q.st = .rts) ∧ q.frozen = true ∧ creditHeld s i = false) ∧
    (∃ (s : State) (k j : Nat) (p : Peer) (q : Qp), tget s.peers k = some p ∧ p.probes = none ∧ p.lastHeard + regBits s wgtPeerTimeout 19 0 * 600000
    ≤ s.now ∧ (j, q) ∈ peerQps s p ∧ q.outPkts ≠ []) ∧
    (∃ (s : State) (k n t : Nat) (p : Peer), tget s.peers k = some p ∧ p.probes = some (n, t) ∧ t ≤ s.now) :=
  ⟨⟨withQp9 ({ rtsQp with unackedAt := some 0 }), 9, 0, { rtsQp with unackedAt := some 0 }, by decide +kernel⟩,
  ⟨withQp9 ({ rtsQp with timerAt := some 6000000000, outPkts := [outPkt] }), 9, 6000000000, 0,
  { rtsQp with timerAt := some 6000000000, outPkts := [outPkt] }, by decide +kernel⟩,
  ⟨withQp9 ({ rtsQp with outPkts := [{ outPkt with sackAfter := some 0 }] }), 9, 0, { rtsQp with outPkts := [{ outPkt with sackAfter := some 0 }] },
  { outPkt with sackAfter := some 0 }, by decide +kernel⟩,
  ⟨withQp9 ({ rtsQp with rnrUntil := some 6000000000 }), 9, 6000000000, { rtsQp with rnrUntil := some 6000000000 }, by decide +kernel⟩,
  ⟨withQp9 ({ rtsQp with frozen := true }), 9, { rtsQp with frozen := true }, by decide +kernel⟩,
  ⟨{ withQp9 ({ pktQp with outPkts := [outPkt] }) with now := 600000000000000, peers := [(0, { port := 8, ip := 0x0A000002, ipv := 4 })] }, 0, 9,
  { port := 8, ip := 0x0A000002, ipv := 4 }, { pktQp with outPkts := [outPkt] }, by decide +kernel⟩,
  ⟨{ up1 with peers := [(0, { port := 8, ip := 0x0A000002, ipv := 4, probes := some (1, 0) })] }, 0, 1, 0,
  { port := 8, ip := 0x0A000002, ipv := 4, probes := some (1, 0) }, by decide +kernel⟩⟩

theorem test_met_PauseCommandsComplete :
    (∃ (s : State) (p : Nat) (f : RxFrame), waiting s p (fun d => d = .mac) = some f) ∧
    (∃ (s : State) (p c t : Nat), tget (getPort s p).hold c = some t ∧ t ≤ s.now) ∧
    (∃ (s : State) (p c t : Nat), c < 8 ∧ held s p c = true ∧ tget (getPort s p).heldSince c = some t ∧ t + regBits s (macFcWdog p) 23 0 * 600000 ≤
    s.now) ∧
    (∃ (s : State) (p c t : Nat), tget (getPort s p).xoffAt (xoffKey s p c) = some t ∧ fcSends s p c = true ∧ t + regBits s (macFcQuanta p) 15 0 *
    64 * portByteTime s p / 2 ≤ s.now ∧ xonBytes s p < occOf s p c) ∧
    (∃ (s : State) (p c : Nat), fcSends s p c = true ∧ xoffOn s p c = true ∧ occOf s p c < xonBytes s p) :=
  ⟨⟨withFrame up (rxFrame [] .mac), 8, rxFrame [] .mac, by decide +kernel⟩,
  ⟨withPort { hold := [(7, 6000000000)] }, 8, 7, 6000000000, by decide +kernel⟩,
  ⟨{ withPort { hold := [(7, 600000000000000000)], heldSince := [(7, 0)] } with now := 60000000000000000 }, 8, 7, 0, by decide +kernel⟩,
  ⟨{ withPort { xoffAt := [(0, 0)], occupancy := [(0, 3000000)] } with regs := (tset up.regs (macFc 8) 1#32) }, 8, 0, 0, by decide +kernel⟩,
  ⟨{ withPort { xoffAt := [(0, 0)] } with regs := (tset up.regs (macFc 8) 1#32) }, 8, 0, by decide +kernel⟩⟩

theorem test_met_TransmitSelectCompletes :
    (∃ (s h u : State) (p : Nat) (f : TxFrame) (rest : List TxFrame), h = handOver s s.now ∧ atBoundary h p = true ∧ u = pruneHeads (settleRescinds
    h p) p ∧ (getPort u p).ctrlQ = f :: rest ∧ clearOfWindows u p (queuedTime u p f) = true) ∧
    (∃ (s h u : State) (p : Nat) (f : TxFrame), h = handOver s s.now ∧ atBoundary h p = true ∧ u = pruneHeads (settleRescinds h p) p ∧ (getPort u
    p).ctrlQ = [] ∧ replyHead u p = some f) ∧
    (∃ (s h u : State) (p : Nat) (c : Nat) (f : TxFrame), h = handOver s s.now ∧ atBoundary h p = true ∧ u = pruneHeads (settleRescinds h p) p ∧
    (getPort u p).ctrlQ = [] ∧ replyHead u p = none ∧ classHead u p = some (c, f)) :=
  ⟨⟨withPort { ctrlQ := [txFrame .ptp] }, _, _, 8, txFrame .ptp, [], rfl, by decide +kernel, rfl, by decide +kernel, by decide +kernel⟩,
  ⟨withPort { replyQ := [txFrame .reply] }, _, _, 8, txFrame .reply, rfl, by decide +kernel, rfl, by decide +kernel, by decide +kernel⟩,
  ⟨withPort { txQ := [(7, [txFrame .raw])] }, _, _, 8, 7, txFrame .raw, rfl, by decide +kernel, rfl, by decide +kernel, by decide +kernel,
  by decide +kernel⟩⟩

theorem test_met_GatesAndIdleComplete :
    (∃ (s : State) (p : Nat), portExists s p = true ∧ ready s rdyTim = true) ∧
    (∃ (s : State) (p t : Nat) (g : GateList), (getPort s p).pendGate = some (g, t) ∧ t ≤ netNs s ∧ gateRefused (modPort s p fun q =>
    { q with pendGate := none }) p g = false) ∧
    (∃ (s : State) (p t : Nat) (g : GateList), (getPort s p).pendGate = some (g, t) ∧ t ≤ netNs s ∧ gateRefused (modPort s p fun q =>
    { q with pendGate := none }) p g = true) ∧
    (∃ (s : State) (p : Nat), portExists s p = true ∧ (getPort s p).linkUp = true ∧ regBit s (macLpi p) 0 = true ∧ regBit s (macLpiWake p) 16 = true
    ∧ (getPort s p).lpiTx = false ∧ queuedFrames (getPort s p) = [] ∧ (getPort s p).txBusyUntil ≤ s.now ∧ (∀ w, (getPort s p).wakeAt = some w → w ≤
    s.now) ∧ (getPort s p).idleSince + regBits s (macLpi p) 31 16 * 600000 ≤ s.now ∧ isReplyPort s p = false ∧ windowWithin s p (wakeNs s p +
    Config.lpiEntryNs) = false) ∧
    (∃ (s : State) (p : Nat), portExists s p = true ∧ (getPort s p).linkUp = true) ∧
    (∃ (s : State) (p : Nat), (getPort s p).lpiTx = true ∧ (queuedFrames (getPort s p) ≠ [] ∨ windowWithin s p (wakeNs s p) = true)) :=
  ⟨⟨up, 8, by decide +kernel⟩,
  ⟨withPort { pendGate := some ({}, 0) }, 8, 0, {}, by decide +kernel⟩,
  ⟨{ armAt (arm .running) 0 with ports := [(0, { pendGate := some ({ cycle := 1000 }, 0) })] }, 0, 0, { cycle := 1000 }, by decide +kernel⟩,
  ⟨{ up with regs := tset (tset up.regs (macLpi 8) 1#32) (macLpiWake 8) 65536#32 }, 8, by decide +kernel, by decide +kernel, by decide +kernel,
  (by decide +kernel), by decide +kernel, by decide +kernel, by decide +kernel,
  (fun w h => absurd (h.symm.trans (show (getPort ({ up with regs := tset (tset up.regs (macLpi 8) 1#32) (macLpiWake 8) 65536#32 }) 8).wakeAt = none by decide +kernel)) (by simp)),
  by unfold windowWithin; decide +kernel⟩,
  ⟨up, 8, by decide +kernel⟩,
  ⟨withPort { lpiTx := true, ctrlQ := [txFrame .ptp] }, 8, by decide +kernel⟩⟩

theorem test_met_LinksAndRecordsComplete :
    (∃ (s : State) (p : Nat), (getPort s p).linkUp = true) ∧
    (∃ (s : State) (p : Nat), portExists s p = true ∧ portReady s p = true ∧ (getPort s p).linkUp = false ∧ trainLanes s p ≠ 0 ∧ s.iodLost = false) ∧
    (∃ (s : State), s.tlmOn = true ∧ netNs s % 1000 = 0) ∧
    (∃ (s t : State) (p : Nat) (r : TsRecord) (rest : List TsRecord) (q : Ring), (getPort s p).fifo = r :: rest ∧ t = modPort s p (fun q =>
    { q with fifo := rest }) ∧ getRing s (ringKey rkTs r.inst) = some q ∧ ringRoom q = true ∧ (getPort s p).drainAt ≤ s.now) ∧
    (∃ (s t : State) (p : Nat) (r : TsRecord) (rest : List TsRecord), (getPort s p).fifo = r :: rest ∧ t = modPort s p (fun q =>
    { q with fifo := rest }) ∧ (∀ q, getRing s (ringKey rkTs r.inst) = some q → ringRoom q = false)) :=
  ⟨⟨up, 8, by decide +kernel⟩,
  ⟨{ up with ports := [] }, 8, by decide +kernel⟩,
  ⟨{ up with tlmOn := true }, by decide +kernel⟩,
  ⟨{ withPort { fifo := [{ inst := 1, time := 0, holdover := false, cookie := 0 }] } with rings := [(ringKey rkTs 1, { kind := rkTs, owner := 1 })] },
  _, 8, { inst := 1, time := 0, holdover := false, cookie := 0 }, [], { kind := rkTs, owner := 1 }, by decide +kernel, rfl, by decide +kernel⟩,
  ⟨withPort { fifo := [{ inst := 1, time := 0, holdover := false, cookie := 0 }] }, _, 8, { inst := 1, time := 0, holdover := false, cookie := 0 },
  [], by decide +kernel, rfl,
  fun q h => by have e : getRing (withPort { fifo := [{ inst := 1, time := 0, holdover := false, cookie := 0 }] }) (ringKey rkTs 1) = none := (by decide +kernel); exact absurd (e.symm.trans h) (by simp)⟩⟩

theorem test_met_TimeBaseCommandsComplete :
    (∃ (s t : State) (p : Nat) (f : RxFrame), waiting s p (fun d => d = .timeBase) = some f ∧ t = consume s p .timeBase f) ∧
    (∃ (s : State) (p : Nat), bits s.tb.role.toNat 1 0 ≠ 0 ∧ portExists s p = true ∧ ready s rdyTim = true) ∧
    (∃ (s : State), s.tb.master.isSome = true ∧ (s.tb.lastAnnounce + 3 * ptpInterval s 2 ≤ s.now ∨ s.tb.lastSync + 3 * ptpInterval s 0 ≤ s.now)) ∧
    (∃ (s : State), s.tb.st = .holdover ∧ s.tb.holdDue ≤ s.now) ∧
    (∃ (s : State), (s.tb.st ≠ .grandmaster ∨ regBit s timCtrl 3 = false)) ∧
    (∃ (s t : State) (a : Int) (ns : Nat), s.tb.st = .grandmaster ∧ regBit s timCtrl 3 = true ∧ drawInt (regAdd s timPpsCount 1) = (a, t) ∧ ns =
    netNs t % 1000000000) ∧
    (∃ (s : State) (sec : Nat), ready s rdyTim = true ∧ ppsMark s = some sec ∧ s.tb.ppsSec ≠ some sec) ∧
    (∃ (s t : State) (p : Nat) (f : RxFrame), waiting s p (fun d => d = .lldp) = some f ∧ t = consume s p .lldp f) :=
  ⟨⟨withFrame up (rxFrame [] .timeBase), _, 8, rxFrame [] .timeBase, by decide +kernel, rfl⟩,
  ⟨{ up with tb := { role := 1 } }, 8, by decide +kernel⟩,
  ⟨{ up with tb := { master := some 8 }, now := 600000000000000 }, by decide +kernel⟩,
  ⟨{ up with tb := { st := .holdover } }, by decide +kernel⟩,
  ⟨up, by decide +kernel⟩,
  ⟨{ up with tb := { st := .grandmaster }, regs := tset up.regs timCtrl 8#32 }, _, _, _, by decide +kernel, by decide +kernel, rfl, rfl⟩,
  ⟨up, 0, by decide +kernel⟩,
  ⟨withFrame up (rxFrame [] .lldp), _, 8, rxFrame [] .lldp, by decide +kernel, rfl⟩⟩

theorem test_met_LossesComplete :
    (∃ (s : State) (d : Nat), dieAlive s d = true) ∧
    (∃ (s : State), s.iodLost = false) ∧
    (∃ (s : State) (d : PllDomain) (n : Nat), (d = .fab ∧ n = 0 ∨ d = .time ∧ n = 1 ∨ d = .mgmt ∧ n = 2 ∨ d = .hbm ∧ n = 3) ∧ s.pllStandby.getLsbD n
    = true) ∧
    (∃ (s : State) (d : PllDomain) (n : Nat), (d = .fab ∧ n = 0 ∨ d = .time ∧ n = 1 ∨ d = .mgmt ∧ n = 2 ∨ d = .hbm ∧ n = 3) ∧ s.pllStandby.getLsbD n
    = false ∧ n ≠ 1 ∧ s.iodLost = false) ∧
    (∃ (s : State) (d : PllDomain) (n : Nat), (d = .fab ∧ n = 0 ∨ d = .time ∧ n = 1 ∨ d = .mgmt ∧ n = 2 ∨ d = .hbm ∧ n = 3) ∧ s.pllStandby.getLsbD n
    = false ∧ n = 1 ∧ s.tb.fallback = false) ∧
    (∃ (s t u : State) (raw : List Int), t = [0, 1, 2, 3, 4].foldl (fun s d => countHot s (effTemps s raw d)) s ∧ (u = (if ready t rdyMgmt = true ∧
    t.mgmt.restarting = false then [0, 1, 2, 3, 4].foldl (fun s d => thermalWarn s raw d) t else t))) :=
  ⟨⟨up, 3, by decide +kernel⟩,
  ⟨up, by decide +kernel⟩,
  ⟨{ up with pllStandby := 8 }, .hbm, 3, by decide +kernel⟩,
  ⟨{ up with pllStandby := 0 }, .fab, 0, by decide +kernel⟩,
  ⟨{ up with pllStandby := 0 }, .time, 1, by decide +kernel⟩,
  ⟨up, _, _, [], rfl, rfl⟩⟩

theorem test_met_ErrorsComplete :
    (∃ (s : State) (core shelf : Nat), coreUp s core = true ∧ shelf < 4) ∧
    (∃ (s : State) (m : MemLoc), memThere s m = true) ∧
    (∃ (s : State) (m : MemLoc), memThere s m = true) ∧
    (∃ (s : State) (m : MemLoc), memThere s m = true) ∧
    (∃ (s : State) (m : MemLoc), memThere s m = true) :=
  ⟨⟨up, 20479, 3, by decide +kernel⟩,
  ⟨up, .coreSram 20479 3 65535, by decide +kernel⟩,
  ⟨up, .clusterSram 1279 3 1048575, by decide +kernel⟩,
  ⟨up, .hbm 1 63 0 0 none, by decide +kernel⟩,
  ⟨up, .buffer 8, by decide +kernel⟩⟩

theorem test_met_RepairsComplete :
    (∃ (s : State) (link module lane : Nat) (c : Channel), c = laneChan link module lane ∧ chanOk c = true ∧ lane ≠ 0xFF ∧ isRetired s c = false) ∧
    (∃ (s : State) (lane : Nat), lane < 16 ∧ isRetired s { kind := 4, num := lane } = false) ∧
    (∃ (s : State) (stack pc : Nat), stack < 2 ∧ pc < 64 ∧ isRetired s (pcChan stack pc) = true ∧ tget s.remaps (stack * 64 + pc) = none ∧
    (s.remaps.filter fun r => r.1 / 64 = stack).length < 2) ∧
    (∃ (s : State), ready s rdyMgmt = true) ∧
    (∃ (s : State) (image : Bytes), s.mgmt.restarting = true ∧ s.mgmt.flash = some image) ∧
    (∃ (rep : Report), rep.status ≤ stJoinStarved) ∧
    (∃ (s : State) (n : Nat), n < 4 ∧ coreUp s (regBits s (tstBp + 8 * n) 14 0) = true) :=
  ⟨⟨up, 7, 7, 63, laneChan 7 7 63, by decide +kernel⟩,
  ⟨up, 15, by decide +kernel⟩,
  ⟨{ up with byHand := [pcChan 1 63] }, 1, 63, by decide +kernel⟩,
  ⟨up, by decide +kernel⟩,
  ⟨{ up with mgmt := { restarting := true } }, [], by decide +kernel⟩,
  ⟨{ code := 1, origin := [] }, by decide +kernel⟩,
  ⟨up, 3, by decide +kernel⟩⟩

theorem test_met_ResetsComplete :
    (∃ (s : State), ready s rdyMgmt = true) ∧
    (∃ (s : State), linkUp s 0 = true) ∧
    (∃ (s : State), linkUp s 1 = true) ∧
    (∃ (s : State) (f : Func), s.iodLost = false ∧ s.poweredDown = false ∧ isReady s f (funcNeeds s f).1 = false ∧ (funcNeeds s f).2 = true) ∧
    (∃ (s : State) (f : Func), s.iodLost = false ∧ s.poweredDown = false ∧ isReady s f (funcNeeds s f).1 = false) ∧
    (∃ (s : State) (die : Nat), die < 4 ∧ ready s rdyMgmt = true ∧ s.iodLost = false ∧ s.poweredDown = false ∧ s.pwren.getLsbD die = false ∧
    s.dieLost.getLsbD die = false ∧ (die = 0 ∨ s.pwren.getLsbD (die - 1) = true ∨ s.dieLost.getLsbD (die - 1) = true)) :=
  ⟨⟨up, by decide +kernel⟩,
  ⟨up, by decide +kernel⟩,
  ⟨up, by decide +kernel⟩,
  ⟨{ up with regs := [(glbReady, 0x001#32)] }, .wgt, by decide +kernel⟩,
  ⟨{ up with regs := [(glbReady, 0x001#32)] }, .arm, by decide +kernel⟩,
  ⟨{ up with pwren := 7 }, 3, by decide +kernel⟩⟩

theorem test_met_BoardEventsComplete :
    (∃ (s : State) (l : Nat), l < 2 ∧ linkUp s l = true) ∧
    (∃ (s t : State) (l : Nat), l < 2 ∧ s.poweredDown = false ∧ t = { s with links := tmod s.links l fun k => { k with perst := true } }) ∧
    (∃ (s : State) (l : Nat), l < 2 ∧ s.poweredDown = false ∧ s.iodLost = false) ∧
    (∃ (s : State) (id : Nat), s.splitCmd = some id) :=
  ⟨⟨up, 1, by decide +kernel⟩,
  ⟨up, _, 1, by decide +kernel, by decide +kernel, rfl⟩,
  ⟨up, 1, by decide +kernel⟩,
  ⟨{ up with splitCmd := some 3 }, 3, by decide +kernel⟩⟩

theorem test_met_RegisterWriteCompletes :
    (∃ (s : State) (off : Nat) (d : RegDesc), off % 4 = 0 ∧ plainReg off ∧ regReached s off d ∧ (d.rw ≠ 0 ∨ d.w1c ≠ 0)) ∧
    (∃ (off size : Nat) (all : Bool), (all = false ∨ (size ≠ 4 ∧ size ≠ 8) ∨ off % size ≠ 0)) ∧
    (∃ (off : Nat), off % 8 = 0) ∧
    (∃ (s t : State) (off : Nat) (v : DWord) (d : RegDesc), off % 8 = 0 ∧ plainReg off ∧ regReached s off d ∧ (d.rw ≠ 0 ∨ d.w1c ≠ 0) ∧ t = (if
    fieldsInRange d (v.toNat % 2 ^ 32) then regPut s off (written s off (v.toNat % 2 ^ 32) d) else rejectWrite s off)) ∧
    (∃ (off : Nat), off % 4 = 0 ∧ regDesc off = none) ∧
    (∃ (s : State) (off : Nat), off % 4 = 0 ∧ regPort off = none ∧ blockReady s off = false) :=
  ⟨⟨up, shfStreamPool, (regDesc (shfStreamPool)).getD {}, by decide +kernel, by unfold plainReg; decide +kernel, reach_block (by decide +kernel)
  (by decide +kernel) (by decide +kernel), (by decide +kernel)⟩,
  ⟨2, 4, true, by decide +kernel⟩,
  ⟨0x4000, by decide +kernel⟩,
  ⟨up, _, shfStreamPool, 0, (regDesc (shfStreamPool)).getD {}, by decide +kernel, by unfold plainReg; decide +kernel, reach_block
  (by decide +kernel) (by decide +kernel) (by decide +kernel), (by decide +kernel), rfl⟩,
  ⟨4092, by decide +kernel⟩,
  ⟨{ up with regs := [] }, 0x4000, by decide +kernel⟩⟩

theorem test_met_SetupWritesComplete :
    (∃ (s : State) (d : RegDesc), regReached s pwrLimit d) ∧
    (∃ (s : State) (d : RegDesc), regReached s arrJoinWdog d) ∧
    (∃ (s : State) (d : RegDesc), regReached s shfStreamPool d) ∧
    (∃ (s : State) (v : Word) (d : RegDesc), regReached s timSlewBound d ∧ fieldsInRange d v.toNat = true) ∧
    (∃ (s : State) (v : Word), ready s rdyTim = true ∧ v.getLsbD 0 = true) ∧
    (∃ (s : State) (v : Word), (v.getLsbD 0 = false ∨ ready s rdyTim = false)) ∧
    (∃ (s : State) (p : Nat) (tx : Bool) (off : Nat) (d : RegDesc), p < 16 ∧ off = calTs p (if tx then 4 else 1) ∧ regReached s off d) ∧
    (∃ (s t : State) (off : Nat) (v : Word) (d : RegDesc), isRws off = true ∧ (¬(0x2400 ≤ off ∧ off < 0x2600)) ∧ regReached s off d ∧ calUserOk (off
    - 0x2000) v.toNat = true ∧ t = regPut s off (written s off v.toNat d)) ∧
    (∃ (s : State) (off : Nat) (v : Word) (d : RegDesc), isRws off = true ∧ (¬(0x2400 ≤ off ∧ off < 0x2600)) ∧ regReached s off d ∧ calUserOk (off -
    0x2000) v.toNat = false) ∧
    (∃ (p : Nat), p < 16) ∧
    (∃ (s : State) (v : Word), ready s rdyMgmt = true ∧ regBit s glbAdminCtrl 0 = false ∧ v.getLsbD 0 = true ∧ adminOk s (b2n (v.getLsbD 1)) = true) ∧
    (∃ (s : State) (v : Word), ready s rdyMgmt = true ∧ regBit s glbAdminCtrl 0 = false ∧ v.getLsbD 0 = true ∧ adminOk s (b2n (v.getLsbD 1)) =
    false) :=
  ⟨⟨up, (regDesc (pwrLimit)).getD {}, reach_block (by decide +kernel) (by decide +kernel) (by decide +kernel)⟩,
  ⟨up, (regDesc (arrJoinWdog)).getD {}, reach_block (by decide +kernel) (by decide +kernel) (by decide +kernel)⟩,
  ⟨up, (regDesc (shfStreamPool)).getD {}, reach_block (by decide +kernel) (by decide +kernel) (by decide +kernel)⟩,
  ⟨up, 1000, (regDesc (timSlewBound)).getD {}, reach_block (by decide +kernel) (by decide +kernel) (by decide +kernel), by decide +kernel⟩,
  ⟨up, 1, by decide +kernel⟩,
  ⟨up, 0, by decide +kernel⟩,
  ⟨up, 8, true, calTs 8 4, (regDesc (calTs 8 4)).getD {}, by decide +kernel, rfl, reach_port (q := 8) (by decide +kernel) (by decide +kernel)
  (by decide +kernel) (by decide +kernel)⟩,
  ⟨up, _, calTh 39 1, 20, (regDesc (calTh 39 1)).getD {}, by decide +kernel, by decide +kernel, reach_block (by decide +kernel) (by decide +kernel)
  (by decide +kernel), (by decide +kernel), rfl⟩,
  ⟨up, calTh 39 1, 21, (regDesc (calTh 39 1)).getD {}, by decide +kernel, by decide +kernel, reach_block (by decide +kernel) (by decide +kernel)
  (by decide +kernel), (by decide +kernel)⟩,
  ⟨15, by decide +kernel⟩,
  ⟨{ up with regs := [(glbReady, 0x7FF#32), (glbAdminBaseLo, 4096#32), (glbAdminEntries, 64#32), (glbAdminCplBaseLo, 8192#32), (glbAdminCplEntries, 64#32), (glbMgrPasid0, 0x80000064#32)] },
  1, by decide +kernel⟩,
  ⟨{ up with regs := [(glbReady, 0x7FF#32), (glbAdminBaseLo, 4096#32), (glbAdminEntries, 64#32), (glbAdminCplBaseLo, 8192#32), (glbAdminCplEntries, 64#32), (glbMgrPasid0, 0x80000064#32)] },
  3, by decide +kernel⟩⟩

theorem test_met_PortWritesComplete :
    (∃ (s : State) (p n : Nat), p < 16 ∧ n < 256 ∧ portExists s p = true ∧ portReady s p = true) ∧
    (∃ (s : State) (p n : Nat), p < 16 ∧ n < 256 ∧ portExists s p = true ∧ portReady s p = true) ∧
    (∃ (s : State) (k : Nat) (rx : Bool) (off : Nat) (d : RegDesc), k < 128 ∧ off = shpReg k (if rx then 2 else 0) ∧ regReached s off d) ∧
    (∃ (s : State), ready s rdyTst = true) ∧
    (∃ (s : State) (p : Nat) (v : Word), p < 16 ∧ portExists s p = true ∧ ready s rdyTst = true ∧ (∀ a, a ∈ tvals s.arms → armPortWindows a p = [])
    ∧ regBits s (tstLoop + 4 * p) 1 0 ≠ v.toNat % 4) ∧
    (∃ (s : State) (p : Nat) (a : Armature), p < 16 ∧ portExists s p = true ∧ ready s rdyTst = true ∧ a ∈ tvals s.arms ∧ armPortWindows a p ≠ []) ∧
    (∃ (s : State) (p : Nat) (v : Word), p < 16 ∧ portExists s p = true ∧ ready s rdyTst = true ∧ (∀ a, a ∈ tvals s.arms → armPortWindows a p = [])
    ∧ regBits s (tstLoop + 4 * p) 1 0 = v.toNat % 4) ∧
    (∃ (s : State) (p : Nat), portExists s p = true ∧ (getPort s p).txBusyUntil ≤ s.now) ∧
    (∃ (s : State) (p : Nat), portExists s p = true ∧ (getPort s p).rx = none) ∧
    (∃ (s : State), ready s rdyTim = true ∧ s.tb.role.toNat ≠ regRaw s timRole ∧ s.now % ptpInterval s 2 = 0) :=
  ⟨⟨up, 8, 255, by decide +kernel⟩,
  ⟨up, 8, 0, by decide +kernel⟩,
  ⟨up, 64, true, shpReg 64 2, (regDesc (shpReg 64 2)).getD {}, by decide +kernel, rfl, reach_port (q := 8) (by decide +kernel) (by decide +kernel)
  (by decide +kernel) (by decide +kernel)⟩,
  ⟨up, by decide +kernel⟩,
  ⟨up, 8, 3, by decide +kernel, by decide +kernel, by decide +kernel, (fun a h => by cases h), by decide +kernel⟩,
  ⟨armAt (arm .running) 0, 0, arm .running, by decide +kernel⟩,
  ⟨up, 8, 0, by decide +kernel, by decide +kernel, by decide +kernel, (fun a h => by cases h), by decide +kernel⟩,
  ⟨up, 8, by decide +kernel⟩,
  ⟨up, 8, by decide +kernel⟩,
  ⟨{ up with tb := { role := 5 }, now := 6000000000000 }, by decide +kernel⟩⟩

theorem test_met_QueueServedInOrder :
    ∃ (s : State) (k : Nat), k ≤ s.pending.length :=
  ⟨{ up with pending := [.iodLoss, .uptime 1 0] }, 2, by decide +kernel⟩

theorem test_met_IdleStepsAdvanceClock :
    ∃ (s : State) (n : Nat), s.pending = [] ∧ (ready s rdyTim = true ∨ (s.tb.started = true ∧ s.poweredDown = false)) ∧ s.tb.fallback = false ∧ (∀ m
    ∈ s.msgs, m.2.finished = true ∨ m.2.releaseAt ≤ s.now ∨ s.now + n < m.2.releaseAt) ∧ (∀ c ∈ s.cmds, c.opcode ≠ 0x09) :=
  ⟨up, 1200, by decide +kernel⟩

theorem test_met_EngineOrder :
    (∃ (s : State), takeable s .admin = true) ∧
    (∃ (s : State) (n m : Nat), s.rrLast < 1024 ∧ n < 1024 ∧ m < 1024 ∧ engineTurn s (.inst n) = true ∧ engineTurn s (.inst m) = true) ∧
    (∃ (s : State) (r : CmdRing), takeable s r = true) ∧
    (∃ (s : State) (n m : Nat), n < 1024 ∧ m < 1024 ∧ s.rrLast = n ∧ m ≠ n ∧ takeable s (.inst m) = true) ∧
    (∃ (s t : State) (n : Nat) (i : BitVec 32), takeCmd s (.inst n) = some (i, t)) :=
  ⟨⟨up, by decide +kernel⟩,
  ⟨{ up1 with rrLast := 1023 }, 1, 1, by decide +kernel⟩,
  ⟨up1, .inst 1, by decide +kernel⟩,
  ⟨{ up1 with rrLast := 1, instances := [(0, inst 0), (1, inst 1), (2, inst 2)], rings := tset (tset up1.rings (ringKey rkCmd 2) (cmdRing 2)) (ringKey rkCpl 2) (cplRing 2) },
  1, 2, by decide +kernel⟩,
  ⟨up1, _, 1, _, rfl⟩⟩

theorem test_met_AdministrationOnlyRefused :
    (∃ (s : State) (r : CmdRing) (d : Cmd) (op : Nat) (c : Instr), turn s r ∧ d.unlisted = some op ∧ c ∈ commands r d) ∧
    (∃ (s : State) (n : Nat) (d : Cmd), turn s (.inst n) ∧ d.unlisted = none) :=
  ⟨⟨up, .admin, { cmd [] with unlisted := some 0x6F }, 0x6F, .query .admin { cmd [] with unlisted := some 0x6F }, by unfold turn; decide +kernel,
  by decide +kernel, by decide⟩,
  ⟨up1, 1, cmd [], by unfold turn; decide +kernel⟩⟩

theorem test_met_ClustersAddedOrRefused :
    (∃ (s : State) (d : Cmd) (n : Nat) (cs : List Nat), turn s .admin ∧ names (taken s .admin) n ∧ n = argN d 0 2 ∧ argN d 2 1 = 0 ∧ clustersBad d =
    false ∧ cs = bitmapAt d 0 ∧ instActive (taken s .admin) n = true ∧ ∃ c ∈ cs, clusterRetired (taken s .admin) c = true) ∧
    (∃ (s : State) (d : Cmd) (n : Nat) (cs : List Nat), turn s .admin ∧ names (taken s .admin) n ∧ n = argN d 0 2 ∧ argN d 2 1 = 0 ∧ clustersBad d =
    false ∧ cs = bitmapAt d 0 ∧ instActive (taken s .admin) n = true ∧ (∀ c ∈ cs, clusterRetired (taken s .admin) c = false) ∧ ∃ c ∈ cs, (getCluster
    (taken s .admin) c).owner ≠ none ∨ (getCluster (taken s .admin) c).leaving = true) ∧
    (∃ (s : State) (d : Cmd) (n : Nat) (cs : List Nat), turn s .admin ∧ names (taken s .admin) n ∧ n = argN d 0 2 ∧ argN d 2 1 = 0 ∧ clustersBad d =
    false ∧ cs = bitmapAt d 0 ∧ instActive (taken s .admin) n = true ∧ (∀ c ∈ cs, clusterRetired (taken s .admin) c = false) ∧ ∀ c ∈ cs, (getCluster
    (taken s .admin) c).owner = none ∧ (getCluster (taken s .admin) c).leaving = false ∧ (getCluster (taken s .admin) c).scrub = none) :=
  ⟨⟨{ up with clusters := [(1279, { retired := true })] }, cmd [(0, 2, 1)] (record 160 [(159, 1, 128)]), 1, [1279],
  by unfold turn names; decide +kernel⟩,
  ⟨{ up with clusters := [(1279, { leaving := true })] }, cmd [(0, 2, 1)] (record 160 [(159, 1, 128)]), 1, [1279],
  by unfold turn names; decide +kernel⟩,
  ⟨{ up with clusters := [(1279, {})] }, cmd [(0, 2, 1)] (record 160 [(159, 1, 128)]), 1, [1279], by unfold turn names; decide +kernel⟩⟩

theorem test_met_PowerLimitOutOfRangeRejected :
    (∃ (s : State) (v : Word), blockReady s pwrLimit = true ∧ (v.toNat < 200 ∨ 520 < v.toNat)) ∧
    (∃ (s : State) (v : Word), blockReady s pwrLimit = true ∧ (v.toNat < 200 ∨ 520 < v.toNat)) ∧
    (∃ (s : State) (v : Word), blockReady s pwrLimit = true ∧ 200 ≤ v.toNat ∧ v.toNat ≤ 520) ∧
    (∃ (s : State) (v : Word), blockReady s pwrLimit = true ∧ 200 ≤ v.toNat ∧ v.toNat ≤ 520) :=
  ⟨⟨up, 199, by decide +kernel⟩,
  ⟨up, 521, by decide +kernel⟩,
  ⟨up, 200, by decide +kernel⟩,
  ⟨up, 520, by decide +kernel⟩⟩

theorem test_met_RingEntryPhase :
    ∃ (s : State) (key : Nat) (r : Ring), getRing s key = some r :=
  ⟨up, ringKey rkCq 5, cqRing, by decide +kernel⟩

theorem test_met_CoreMemoryReadsBack :
    ∃ (c : CoreShelf) (data : Bytes), 0 < c.csSize ∧ data.length ≤ c.csSize :=
  ⟨{ csSize := 65536 }, [1, 2, 3], by decide +kernel⟩

theorem test_met_HostCommandFrames :
    (∃ (s t : State) (r : CmdRing) (d : Cmd) (c : Instr), c ∈ [.cqCreate r d, .cqModify r d, .cqDestroy r d, .ringCreate r d, .ringDestroy r d,
    .query r d, .stats r d, .qpQuery r d, .armQuery r d, .insQuery r d] ∧ exec c s = .next t) ∧
    (∃ (s t : State) (r : CmdRing) (d : Cmd) (c : Instr), c ∈ [.mrReg r d, .mrDereg r d] ∧ exec c s = .next t) ∧
    (∃ (s t : State) (r : CmdRing) (d : Cmd), exec (.shape r d) s = .next t) ∧
    (∃ (s t : State) (r : CmdRing) (d : Cmd), exec (.bindTable r d) s = .next t) ∧
    (∃ (s t : State) (r : CmdRing) (d : Cmd), exec (.tlmSet r d) s = .next t) :=
  ⟨⟨up, _, .admin, cmd [], .cqModify .admin (cmd []), by decide, rfl⟩,
  ⟨up, _, .admin, cmd [], .mrReg .admin (cmd []), by decide, rfl⟩,
  ⟨up, _, .admin, cmd [], rfl⟩,
  ⟨up, _, .admin, cmd [], rfl⟩,
  ⟨up, _, .admin, cmd [], rfl⟩⟩

theorem test_met_ArrayCycleFrames :
    (∃ (s t : State) (core : Nat), exec (.operationFire core) s = .next t ∧ twf s.units = true) ∧
    (∃ (s t : State) (core : Nat), exec (.routerPass core) s = .next t) ∧
    (∃ (s t : State) (core dir lat : Nat), exec (.crossingTransfer core dir lat) s = .next t) :=
  ⟨⟨arr opW, _, 0, rfl, by decide +kernel⟩,
  ⟨arr opW, _, 0, rfl⟩,
  ⟨arr opW, _, 1008, 1, 6, rfl⟩⟩

end Sys2Proof.Tests
end

section
/-! A write of 4 bytes to BAR0, case by case (R6, R541, R563-R565), and with it O45. -/

namespace Sys2Proof.Proofs

open Sys2Proof Machine Claims

/-- What the write of a plain register answers: the stored fields, or the recorded rejection. -/
def plainWritten (s : State) (off v : Nat) (d : RegDesc) : State :=
  if fieldsInRange d v then regPut s off (written s off v d) else rejectWrite s off

theorem storeWrite_of_writable {s : State} {off v : Nat} {d : RegDesc} (hw : d.rw ≠ 0 ∨ d.w1c ≠ 0) :
    storeWrite s off v d = regPut s off (written s off v d) :=
  if_neg (not_and_or.mpr hw)

theorem checkedWrite_of_writable {s : State} {off v : Nat} {d : RegDesc} (hw : d.rw ≠ 0 ∨ d.w1c ≠ 0) :
    checkedWrite s off v d = plainWritten s off v d := by
  simp only [checkedWrite, plainWritten, storeWrite_of_writable hw]

@[simp] theorem rejectWrite_pending (s : State) (off : Nat) : (rejectWrite s off).pending = s.pending := by
  unfold rejectWrite
  split <;> simp

@[simp] theorem rejectWrite_now (s : State) (off : Nat) : (rejectWrite s off).now = s.now := by
  unfold rejectWrite
  split <;> simp

@[simp] theorem plainWritten_pending (s : State) (off v : Nat) (d : RegDesc) : (plainWritten s off v d).pending = s.pending := by
  unfold plainWritten
  split <;> simp

@[simp] theorem plainWritten_now (s : State) (off v : Nat) (d : RegDesc) : (plainWritten s off v d).now = s.now := by
  unfold plainWritten
  split <;> simp

/-- No block but that of the fields' ranges has a say in a plain register. -/
theorem blockWrite_plain {s : State} {off v : Nat} {d : RegDesc} (hp : plainReg off) : blockWrite s off v d = checkedWrite s off v d := by
  obtain ⟨hblock, hTherm, hArr, hFlt, hWdog⟩ := hp
  have hEvent : ¬(off = pwrTherm ∨ off = arrEvent ∨ off = fltEvent) := by simp only [hTherm, hArr, hFlt, or_self, not_false_eq_true]
  unfold blockWrite
  rw [if_neg (by omega), if_neg (by omega), if_neg (by omega), if_neg (by omega), if_neg hEvent, if_neg hWdog]
  obtain hLow | hMid | hHigh := hblock
  · rw [if_pos hLow.2]
  · rw [if_neg (by omega), if_neg (by omega), if_pos hMid.2]
  · rw [if_neg (by omega), if_neg (by omega), if_neg (by omega), if_neg (by omega), if_neg (by omega), if_neg (by omega), if_neg (by omega)]

/-- A write that reaches its register is carried out by the register's block. -/
theorem writeReg_of_reached {s : State} {off v : Nat} {d : RegDesc} (hr : regReached s off d) : writeReg s off v = blockWrite s off v d := by
  obtain ⟨hd, hport, hready⟩ := hr
  have hhere : ((regPort off).map (portExists s)).getD true = true := by
    cases h : regPort off with
    | none => rfl
    | some p => exact hport p h
  simp [writeReg, hd, hhere, hready]

theorem writeReg_plain {s : State} {off v : Nat} {d : RegDesc} (hp : plainReg off) (hr : regReached s off d) (hw : d.rw ≠ 0 ∨ d.w1c ≠ 0) :
    writeReg s off v = plainWritten s off v d := by
  rw [writeReg_of_reached hr, blockWrite_plain hp, checkedWrite_of_writable hw]

theorem writeReg_reserved {s : State} {off v : Nat} (h : regDesc off = none) : writeReg s off v = s := by
  simp only [writeReg, h]

theorem writeReg_not_ready {s : State} {off v : Nat} (hport : regPort off = none) (hready : blockReady s off = false) :
    writeReg s off v = s := by
  cases h : regDesc off with
  | none => exact writeReg_reserved h
  | some d => simp [writeReg, h, hport, hready]

theorem exec_registerWrite_bad {s : State} {off size : Nat} {all : Bool} {v : DWord}
    (h : all = false ∨ (size ≠ 4 ∧ size ≠ 8) ∨ off % size ≠ 0) :
    exec (.registerWrite off size all v) s = goOn s (regOr s glbEvent 4) := by
  have hbad : (!all || !(size = 4 || size = 8) || off % size ≠ 0) = true := by simpa [or_assoc] using h
  exact congrArg (goOn s) (if_pos hbad)

theorem exec_registerWrite_four {s : State} {off : Nat} {v : DWord} (h : off % 4 = 0) :
    exec (.registerWrite off 4 true v) s = goOn s (writeReg s off (v.toNat % 2 ^ 32)) :=
  congrArg (goOn s) (by simp [h, loWord])

theorem exec_registerWrite_eight {s : State} {off : Nat} {v : DWord} (h : off % 8 = 0) :
    exec (.registerWrite off 8 true v) s = goOn s (writeReg (writeReg s off (v.toNat % 2 ^ 32)) (off + 4) (v.toNat / 2 ^ 32)) :=
  congrArg (goOn s) (by simp [h, loWord, hiWord])

/-- The upper half of 8 bytes, written as a value of its own. -/
theorem toNat_upper_half (v : DWord) : (BitVec.ofNat 64 (v.toNat / 2 ^ 32)).toNat % 2 ^ 32 = v.toNat / 2 ^ 32 := by
  rw [BitVec.toNat_ofNat]
  omega

/-- The queue and the time that goOn keeps are those of every state that agrees in them. -/
theorem goOn_congr {s t : State} (hpending : t.pending = s.pending) (hnow : t.now = s.now) (u : State) : goOn s u = goOn t u := by
  simp only [goOn, hpending, hnow]

/-- 8 bytes at a plain register: the write of the upper half follows in the state that the lower half leaves. -/
theorem exec_registerWrite_halves {s : State} {off : Nat} {v : DWord} {d : RegDesc} (h : off % 8 = 0) (hp : plainReg off)
    (hr : regReached s off d) (hw : d.rw ≠ 0 ∨ d.w1c ≠ 0) :
    exec (.registerWrite off 8 true v) s =
      exec (.registerWrite (off + 4) 4 true (BitVec.ofNat 64 (v.toNat / 2 ^ 32))) (plainWritten s off (v.toNat % 2 ^ 32) d) := by
  rw [exec_registerWrite_eight h, exec_registerWrite_four (by omega), toNat_upper_half, writeReg_plain hp hr hw]
  exact goOn_congr (plainWritten_pending ..) (plainWritten_now ..) _

/-- Settles O45, clause by clause from what a write of 4 bytes does. -/
theorem registerWriteCompletes : Obligations.RegisterWriteCompletes := by
  unfold Obligations.RegisterWriteCompletes
  refine ⟨?plain, ?bad, ?eight, ?halves, ?reserved, ?notReady⟩
  case plain =>
    intro s off v d h hp hr hw
    rw [exec_registerWrite_four h, writeReg_plain hp hr hw, plainWritten]
  case bad => exact fun s off size all v h => exec_registerWrite_bad h
  case eight => exact fun s off v h => exec_registerWrite_eight h
  case halves =>
    rintro s t off v d h hp hr hw rfl
    exact exec_registerWrite_halves h hp hr hw
  case reserved =>
    intro s off v h hd
    rw [exec_registerWrite_four h, writeReg_reserved hd]
  case notReady =>
    intro s off v h hport hready
    rw [exec_registerWrite_four h, writeReg_not_ready hport hready]

end Sys2Proof.Proofs
end

section
/-! What a command's completion leaves as it is, so that goOn and goOnKeep agree on it, and the state in which a command with the turn is
judged (R458-R461). -/

namespace Sys2Proof.Proofs

open Sys2Proof Machine Claims

/-- t has the last reset, the split and the jitter register of s: what goOnKeep keeps beside the queue and the time. -/
def KeepsSetup (s t : State) : Prop := t.resetAt = s.resetAt ∧ t.split = s.split ∧ t.lfsr = s.lfsr

theorem KeepsSetup.refl (s : State) : KeepsSetup s s := ⟨rfl, rfl, rfl⟩

theorem KeepsSetup.trans {s t u : State} (h : KeepsSetup s t) (g : KeepsSetup t u) : KeepsSetup s u :=
  ⟨g.1.trans h.1, g.2.1.trans h.2.1, g.2.2.trans h.2.2⟩

theorem goOn_eq_goOnKeep {s t : State} (h : KeepsSetup s t) : goOn s t = goOnKeep s t := by
  obtain ⟨hreset, hsplit, hlfsr⟩ := h
  simp only [goOn, goOnKeep, ← hreset, ← hsplit, ← hlfsr]

theorem keepsSetup_emit (s : State) (o : Output) : KeepsSetup s (emit s o) := ⟨rfl, rfl, rfl⟩

theorem keepsSetup_modRing (s : State) (k : Nat) (f : Ring → Ring) : KeepsSetup s (modRing s k f) := ⟨rfl, rfl, rfl⟩

theorem keepsSetup_hostWrite (s : State) (inst link addr : Nat) (data : Bytes) : KeepsSetup s (hostWrite s inst link addr data) := by
  simp only [hostWrite]
  split
  · exact .refl s
  · split <;> split <;> exact ⟨rfl, rfl, rfl⟩

theorem keepsSetup_raiseIfDue (s : State) (key : Nat) : KeepsSetup s (raiseIfDue s key) := by
  simp only [raiseIfDue]
  split
  · exact .refl s
  · split
    · exact (keepsSetup_emit ..).trans (keepsSetup_modRing ..)
    · exact .refl s

theorem keepsSetup_ringPush (s : State) (key : Nat) (rec : Bytes) : KeepsSetup s (ringPush s key rec) := by
  simp only [ringPush]
  split
  · exact .refl s
  · refine KeepsSetup.trans ?written ((keepsSetup_modRing ..).trans (keepsSetup_raiseIfDue ..))
    split
    · exact (keepsSetup_hostWrite ..).trans (keepsSetup_hostWrite ..)
    · exact keepsSetup_hostWrite ..

theorem keepsSetup_completeCmd (s : State) (r : CmdRing) (tag index : BitVec 32) (op st bytes : Nat) (res : List (Nat × Nat × Nat)) :
    KeepsSetup s (completeCmd s r tag index op st bytes res) :=
  (keepsSetup_modRing ..).trans (keepsSetup_ringPush ..)

theorem keepsSetup_takeCmd {s t : State} {r : CmdRing} {i : BitVec 32} (h : takeCmd s r = some (i, t)) : KeepsSetup s t :=
  have hframe := takeCmd_frame h
  ⟨(congrArg State.resetAt hframe :), (congrArg State.split hframe :), (congrArg State.lfsr hframe :)⟩

theorem takeCmd_recovery {s t : State} {r : CmdRing} {i : BitVec 32} (h : takeCmd s r = some (i, t)) : t.mgmt.recovery = s.mgmt.recovery :=
  (congrArg (fun u : State => u.mgmt.recovery) (takeCmd_frame h) :)

theorem taken_of_takeCmd {s t : State} {r : CmdRing} {i : BitVec 32} (h : takeCmd s r = some (i, t)) :
    taken s r = { t with nextId := t.nextId + 1 } := by
  simp only [taken, h]

theorem indexOf_of_takeCmd {s t : State} {r : CmdRing} {i : BitVec 32} (h : takeCmd s r = some (i, t)) : indexOf s r = i := by
  simp only [indexOf, h]

theorem taken_regs {s : State} {r : CmdRing} (h : turn s r) : (taken s r).regs = s.regs := by
  obtain ⟨q, t, -, ht⟩ := takeCmd_of_turn h.1
  rw [taken_of_takeCmd ht]
  exact (congrArg State.regs (takeCmd_frame ht) :)

theorem keepsSetup_taken {s : State} {r : CmdRing} (h : turn s r) : KeepsSetup s (taken s r) := by
  obtain ⟨q, t, -, ht⟩ := takeCmd_of_turn h.1
  rw [taken_of_takeCmd ht]
  exact (keepsSetup_takeCmd ht :)

/-- An OPCODE that is not listed: BAD_PARAM in the state in which the command is judged (R461). -/
theorem runCmd_unlisted_taken {s : State} {r : CmdRing} {op n : Nat} {adm : Bool} {d : Cmd} {f : Nat → Nat → State → State × Answer}
    (h : turn s r) (hd : d.unlisted = some n) :
    runCmd op adm r d f s = completeCmd (taken s r) r d.tag (indexOf s r) n stBadParam 0 [] := by
  obtain ⟨q, t, -, ht⟩ := takeCmd_of_turn h.1
  rw [taken_of_takeCmd ht, indexOf_of_takeCmd ht, runCmd_unlisted ht hd ((takeCmd_recovery ht).trans h.2)]

/-- The status that refuses an administration-only opcode whose own rule would answer a (R11, R461). -/
def refusal (a : Answer) : Nat := if a = Answer.fail stNotReady then stNotReady else stNotPermitted

theorem refusal_eq_or (a : Answer) : refusal a = stNotPermitted ∨ refusal a = stNotReady := by
  unfold refusal
  split
  · exact .inr rfl
  · exact .inl rfl

/-- An administration-only opcode on a command ring is refused in the state in which it is judged. -/
theorem runCmd_refused_taken {s : State} {n op : Nat} {d : Cmd} {f : Nat → Nat → State → State × Answer} (h : turn s (.inst n))
    (hd : d.unlisted = none) :
    runCmd op true (.inst n) d f s =
      completeCmd (taken s (.inst n)) (.inst n) d.tag (indexOf s (.inst n)) op (refusal (f n s.nextId (taken s (.inst n))).2) 0 [] := by
  obtain ⟨q, t, -, ht⟩ := takeCmd_of_turn h.1
  have hid : t.nextId = s.nextId := (congrArg State.nextId (takeCmd_frame ht) :)
  rw [runCmd_refused ht hd ((takeCmd_recovery ht).trans h.2), refusal, taken_of_takeCmd ht, indexOf_of_takeCmd ht, hid]

end Sys2Proof.Proofs
end

section
/-! The commands that the table lists, as the rule that each runs, and with them O54. -/

namespace Sys2Proof.Proofs

open Sys2Proof Machine Claims

/-- What a command does with the state that its rule gives: PORT_SPLIT alone takes that state's split, too. -/
def goesOn : Instr → State → State → Host.Outcome State Fault Refusal
  | .portSplit _ _ => goOn
  | _ => goOnKeep

theorem goesOn_eq_goOnKeep {c : Instr} {s t : State} (h : KeepsSetup s t) : goesOn c s t = goOnKeep s t := by
  unfold goesOn
  split
  · exact goOn_eq_goOnKeep h
  · rfl

/-- A command of a ring with the turn completes, when its rule gives a completion in the state in which it is judged. -/
theorem completes_of_exec {c : Instr} {s : State} {r : CmdRing} {d : Cmd} {op st : Nat} {res : List (Nat × Nat × Nat)} (h : turn s r)
    (hc : exec c s = goesOn c s (completeCmd (taken s r) r d.tag (indexOf s r) op st 0 res)) :
    exec c s = completes s (taken s r) r d op st res :=
  hc.trans (goesOn_eq_goOnKeep ((keepsSetup_taken h).trans (keepsSetup_completeCmd ..)))

/-- Each command of the list is taken from its ring and judged by a rule. -/
theorem commands_run (r : CmdRing) (d : Cmd) :
    ∀ c ∈ commands r d, ∃ op adm f, ∀ s, exec c s = goesOn c s (runCmd op adm r d f s) := by
  simp only [commands, List.forall_mem_cons, List.not_mem_nil, false_implies, implies_true, and_true]
  and_intros
  all_goals exact ⟨_, _, _, fun _ => rfl⟩

/-- Every function that an administration-only command asks for is READY (R11). -/
structure FunctionsReady (s : State) (d : Cmd) : Prop where
  tim : ready s rdyTim = true
  shp : ready s rdyShp = true
  ins : ready s rdyIns = true
  flt : ready s rdyFlt = true
  arr : ready s rdyArr = true
  port : portReady s (argN d 0 1) = true

theorem FunctionsReady.of_regs {s t : State} {d : Cmd} (h : FunctionsReady s d) (hregs : t.regs = s.regs) : FunctionsReady t d := by
  have hraw : ∀ off, regRaw t off = regRaw s off := fun off => by simp only [regRaw, hregs]
  obtain ⟨htim, hshp, hins, hflt, harr, hport⟩ := h
  simp only [ready, portReady, regBit] at htim hshp hins hflt harr hport
  constructor <;> simp only [ready, portReady, regBit, *]

/-- A rule that does not answer NOT_READY where the functions are READY. -/
def ReadyRule (d : Cmd) (f : Nat → Nat → State → State × Answer) : Prop :=
  ∀ inst id s, FunctionsReady s d → (f inst id s).2 ≠ Answer.fail stNotReady

theorem refusal_of_ready {s : State} {n : Nat} {d : Cmd} {f : Nat → Nat → State → State × Answer} (hf : ReadyRule d f) (h : turn s (.inst n))
    (hs : FunctionsReady s d) : refusal (f n s.nextId (taken s (.inst n))).2 = stNotPermitted :=
  if_neg (hf _ _ _ (hs.of_regs (taken_regs h)))

/-- Where no condition with NOT_READY holds, a rule does not answer it. -/
theorem orElse_ne_notReady {s : State} {fail : List (Bool × Nat)} {ok : State → State × Answer}
    (hfail : ∀ x ∈ fail, x.1 = true → x.2 ≠ stNotReady) (hok : (ok s).2 ≠ Answer.fail stNotReady) :
    (orElse s fail ok).2 ≠ Answer.fail stNotReady := by
  induction fail with
  | nil => exact hok
  | cons x fail ih =>
    obtain ⟨c, st⟩ := x
    obtain ⟨hx, hrest⟩ := List.forall_mem_cons.mp hfail
    cases c with
    | false => exact ih hrest
    | true =>
      intro h
      injection h with h
      exact hx rfl h

/-- A row of the administration-only commands: the command is taken and judged by a rule that answers NOT_READY only where a function is not
READY. -/
def AdminRow (r : CmdRing) (d : Cmd) (x : Nat × Instr) : Prop :=
  ∃ f, (∀ s, exec x.2 s = goesOn x.2 s (runCmd x.1 true r d f s)) ∧ ReadyRule d f

theorem adminRow_gateCommit (r : CmdRing) (d : Cmd) :
    AdminRow r d (0x41, if gateCancel d then .gateCommitCancel r d else .gateCommit r d) := by
  cases h : gateCancel d with
  | true =>
    refine ⟨cmdGateCommitCancel d, fun s => ?_, fun _ _ s hs => orElse_ne_notReady (by simp [hs.port]) (by simp)⟩
    exact congrArg (goOnKeep s) (if_pos h)
  | false =>
    refine ⟨cmdGateCommit d, fun s => ?_, fun _ _ s hs => orElse_ne_notReady (by simp [hs.port]) (by simp)⟩
    exact congrArg (goOnKeep s) (if_neg (by simp [h]))

theorem adminRow_insClusters (r : CmdRing) (d : Cmd) :
    ∀ x ∈ (if argN d 2 1 = 0 then [(0x64, Instr.insClustersAdd r d)] else if argN d 2 1 = 1 then [(0x64, .insClustersRemove r d)] else []),
      AdminRow r d x := by
  split
  next h =>
    refine List.forall_mem_singleton.mpr ⟨cmdInsClustersAdd d, fun s => ?_, fun _ _ s hs =>
      orElse_ne_notReady (by simp [insChecks, hs.ins]) (by simp)⟩
    exact congrArg (goOnKeep s) (if_pos (.inl h))
  next =>
    split
    next h =>
      refine List.forall_mem_singleton.mpr ⟨cmdInsClustersRemove d, fun s => ?_, fun _ _ s hs =>
        orElse_ne_notReady (by simp [insChecks, hs.ins]) (by simp)⟩
      exact congrArg (goOnKeep s) (if_pos (.inl h))
    next => exact List.forall_mem_nil _

theorem adminOnly_rows (r : CmdRing) (d : Cmd) : ∀ x ∈ adminOnly r d, AdminRow r d x := by
  simp only [adminOnly, List.forall_mem_append, List.forall_mem_cons]
  refine ⟨⟨⟨cmdPortSplit d, fun _ => rfl, ?_⟩, adminRow_gateCommit r d, ⟨cmdTimeStep d, fun _ => rfl, ?_⟩,
    ⟨cmdTlmSet d, fun _ => rfl, ?_⟩, ⟨cmdInsCreate d, fun _ => rfl, ?_⟩, ⟨cmdReset true d, fun _ => rfl, ?_⟩,
    ⟨cmdReset false d, fun _ => rfl, ?_⟩, ⟨cmdInsShare d, fun _ => rfl, ?_⟩, ⟨cmdHbmRegionCreate d, fun _ => rfl, ?_⟩,
    ⟨cmdHbmRegionRelease d, fun _ => rfl, ?_⟩, ⟨cmdInsLogStart d, fun _ => rfl, ?_⟩, ⟨cmdLogSync false d, fun _ => rfl, ?_⟩,
    ⟨cmdLogSync true d, fun _ => rfl, ?_⟩, ⟨cmdInsQuery d, fun _ => rfl, ?_⟩, ⟨cmdFltLog d, fun _ => rfl, ?_⟩,
    ⟨cmdFltRetire d, fun _ => rfl, ?_⟩, ⟨cmdFltReturn d, fun _ => rfl, ?_⟩, ⟨cmdFltShift d, fun _ => rfl, ?_⟩,
    ⟨cmdFltDieReturn d, fun _ => rfl, ?_⟩, ⟨cmdFwWrite d, fun _ => rfl, ?_⟩, ⟨cmdFwActivate d, fun _ => rfl, ?_⟩,
    List.forall_mem_nil _⟩, adminRow_insClusters r d⟩
  all_goals
    intro inst id s hs
    exact orElse_ne_notReady (by simp [insChecks, hs.tim, hs.shp, hs.ins, hs.flt, hs.arr]) (by simp)

/-- Settles O54: what taking a command answers for an OPCODE that is not listed, and for an administration-only one on a command ring. -/
theorem administrationOnlyRefused : Obligations.AdministrationOnlyRefused := by
  unfold Obligations.AdministrationOnlyRefused
  refine ⟨?unlisted, fun s n d h hd => ⟨fun x hx => ?refused, fun htim hshp hins hflt harr hport x hx => ?permitted⟩⟩
  case unlisted =>
    intro s r d op c h hd hc
    obtain ⟨listed, adm, f, hrun⟩ := commands_run r d c hc
    exact completes_of_exec h (runCmd_unlisted_taken h hd ▸ hrun s)
  all_goals obtain ⟨f, hrun, hf⟩ := adminOnly_rows (.inst n) d x hx
  case refused =>
    exact ⟨_, refusal_eq_or _, completes_of_exec h (runCmd_refused_taken h hd ▸ hrun s)⟩
  case permitted =>
    have hst := refusal_of_ready hf h ⟨htim, hshp, hins, hflt, harr, hport⟩
    exact completes_of_exec h (hst ▸ runCmd_refused_taken h hd ▸ hrun s)

end Sys2Proof.Proofs
end

section
/-! The loss of a die, of the IOD and of a PLL, and a sample of the temperatures (R27, R28, R31, R38, R39, R521), and with them O40. -/

namespace Sys2Proof.Proofs

open Sys2Proof Machine Claims

theorem exec_domainLoss_alive {s : State} {d : Nat} (h : dieAlive s d = true) : exec (.domainLoss d) s = goOnKeep s (loseDie s d) :=
  congrArg (goOnKeep s) (if_pos h)

theorem exec_pllLoss_core_alive {s : State} {d : Nat} (h : dieAlive s d = true) : exec (.pllLoss (.core d)) s = goOnKeep s (loseDie s d) :=
  congrArg (goOnKeep s) (if_pos h)

theorem exec_iodLoss_present {s : State} (h : s.iodLost = false) : exec .iodLoss s = goOnKeep s (loseIod s) :=
  congrArg (goOnKeep s) (if_neg (Bool.eq_false_iff.mp h))

/-- FAB, TIME, MGMT and HBM are the domains 0 to 3, each with a standby PLL of its own. -/
theorem exec_pllLoss_standby {s : State} {d : PllDomain} {n : Nat}
    (h : d = .fab ∧ n = 0 ∨ d = .time ∧ n = 1 ∨ d = .mgmt ∧ n = 2 ∨ d = .hbm ∧ n = 3) :
    exec (.pllLoss d) s = goOnKeep s (standbyPll s n) := by
  obtain ⟨rfl, rfl⟩ | ⟨rfl, rfl⟩ | ⟨rfl, rfl⟩ | ⟨rfl, rfl⟩ := h
  all_goals rfl

/-- The standby PLL takes over. -/
theorem standbyPll_takes_over {s : State} {n : Nat} (h : s.pllStandby.getLsbD n = true) :
    standbyPll s n =
      plainFault (regOr { s with pllStandby := s.pllStandby &&& ~~~(1#4 <<< n) } fltEvent 0x20) 6 5 { kind := 6, num := n } :=
  if_pos h

/-- Without a standby PLL, FAB, MGMT and HBM take the IOD down. -/
theorem standbyPll_loses_iod {s : State} {n : Nat} (h : s.pllStandby.getLsbD n = false) (hn : n ≠ 1) (hiod : s.iodLost = false) :
    standbyPll s n = loseIod s :=
  (if_neg (Bool.eq_false_iff.mp h)).trans ((if_neg hn).trans (if_neg (Bool.eq_false_iff.mp hiod)))

/-- Without a standby PLL, TIME falls back on FAB. -/
theorem standbyPll_falls_back {s : State} (h : s.pllStandby.getLsbD 1 = false) (hfall : s.tb.fallback = false) :
    standbyPll s 1 = timeFallback (plainFault s 6 0 { kind := 6, num := 1 }) :=
  (if_neg (Bool.eq_false_iff.mp h)).trans ((if_pos rfl).trans (if_neg (Bool.eq_false_iff.mp hfall)))

/-- The comparators count, the firmware warns where it runs, and the shutdown follows on what they leave. -/
theorem exec_thermalSample {s t u : State} {raw : List Int} (ht : t = [0, 1, 2, 3, 4].foldl (fun s d => countHot s (effTemps s raw d)) s)
    (hu : u = if ready t rdyMgmt = true ∧ t.mgmt.restarting = false then [0, 1, 2, 3, 4].foldl (fun s d => thermalWarn s raw d) t else t) :
    exec (.thermalSample raw) s = goOnKeep s (refreshAlert ([0, 1, 2, 3, 4].foldl thermalShutdown u)) := by
  have hrun : (ready t rdyMgmt && !t.mgmt.restarting) = true ↔ ready t rdyMgmt = true ∧ t.mgmt.restarting = false := by simp
  rw [hu, ← if_congr hrun rfl rfl, ht]
  rfl

/-- Settles O40, clause by clause from what each loss and each sample answers. -/
theorem lossesComplete : Obligations.LossesComplete := by
  unfold Obligations.LossesComplete
  refine ⟨?die, ?iod, ?pll, ?thermal⟩
  case die => exact fun s d h => ⟨exec_domainLoss_alive h, exec_pllLoss_core_alive h⟩
  case iod => exact fun s h => exec_iodLoss_present h
  case pll =>
    intro s d n hd
    rw [exec_pllLoss_standby hd]
    refine ⟨fun h => ?takesOver, fun h hn hiod => ?losesIod, fun h hn hfall => ?fallsBack⟩
    case takesOver => rw [standbyPll_takes_over h]
    case losesIod => rw [standbyPll_loses_iod h hn hiod]
    case fallsBack =>
      subst hn
      rw [standbyPll_falls_back h hfall]
  case thermal => exact fun s t u raw ht hu => exec_thermalSample ht hu

end Sys2Proof.Proofs
end

section
/-! Failed lanes and pseudo-channels (R13, R357, R517, R519, R520), the restart of the management processor (R529-R531), the witness (R522,
R523) and the duty of back-pressure (R549), and with them O42. -/

namespace Sys2Proof.Proofs

open Sys2Proof Machine Claims

theorem exec_d2dLaneFail_new {s : State} {link module lane : Nat} (hok : chanOk (laneChan link module lane) = true) (hlane : lane ≠ 0xFF)
    (hnew : isRetired s (laneChan link module lane) = false) :
    exec (.d2dLaneFail link module lane) s = goOnKeep s
      (let c := laneChan link module lane
       let e := countError s c
       let r := repairLane { logHistory e.1 c 1 with retired := e.1.retired ++ [c] } link module 1
       report r.1 (faultReport 4 r.2 3 0xFF c.num 0xFFFF 0xFF e.2 0 (if r.2 = 3 then ownersOf r.1 (unitsOnModule s link module) else []))) :=
  congrArg (goOnKeep s) (if_pos (by simp [hok, hlane, hnew]))

theorem exec_serdesLaneFail_new {s : State} {lane : Nat} (hlane : lane < 16) (hnew : isRetired s { kind := 4, num := lane } = false) :
    exec (.serdesLaneFail lane) s = goOnKeep s
      (let e := countError s { kind := 4, num := lane }
       let r := permanentFault e.1 { kind := 4, num := lane }
       report r.1 (faultReport 5 (if r.2 then 3 else 0) 4 0xFF lane 0xFFFF 0xFF e.2 0 [])) :=
  congrArg (goOnKeep s) (if_pos (by simp [hlane, hnew]))

/-- A retired pseudo-channel without a place in the reserve takes the next one of its stack, while one of the two is free (R520). -/
theorem exec_pcRemap_free {s : State} {stack pc : Nat} (hstack : stack < 2) (hpc : pc < 64) (hret : isRetired s (pcChan stack pc) = true)
    (hnone : tget s.remaps (stack * 64 + pc) = none) (hfree : (s.remaps.filter fun r => r.1 / 64 = stack).length < 2) :
    exec (.pcRemap stack pc) s = goOnKeep s
      { s with remaps := tset s.remaps (stack * 64 + pc) (s.remaps.filter fun r => r.1 / 64 = stack).length } :=
  congrArg (goOnKeep s) (if_pos (by simp only [hstack, hpc, hret, hnone, hfree, Option.isNone_none, decide_true, Bool.and_self]))

theorem exec_mgmtWatchdog_ready {s : State} (h : ready s rdyMgmt = true) :
    exec .mgmtWatchdog s = goOnKeep s (if s.mgmt.restarting then failedStart s else beginRestart (countError s { kind := 8, num := 0 }).1) :=
  congrArg (goOnKeep s) (if_neg (by simp [h]))

theorem exec_mgmtRestartDone_image {s : State} {image : Bytes} (h : s.mgmt.restarting = true) (hflash : s.mgmt.flash = some image) :
    exec .mgmtRestartDone s = goOnKeep s (firmwareUp s image) := by
  refine congrArg (goOnKeep s) ((if_pos h).trans ?_)
  rw [hflash]

theorem exec_witnessReport_listed {s : State} {rep : Report} (h : rep.status ≤ stJoinStarved) :
    exec (.witnessReport rep) s = goOnKeep s (report s rep) :=
  congrArg (goOnKeep s) (if_pos h)

/-- The queue of a location whose core is up is frozen if one of the locations that name it is in the first part of its period (R549). -/
theorem exec_bpDutyTick_up {s : State} {n : Nat} (hn : n < 4) (hup : coreUp s (regBits s (tstBp + 8 * n) 14 0) = true) :
    exec (.bpDutyTick n) s = goOnKeep s
      (modQ s (regBits s (tstBp + 8 * n) 14 0) (regBits s (tstBp + 8 * n) 16 15) (regBits s (tstBp + 8 * n) 18 17) fun q =>
        { q with frozen := (List.range 4).any fun k =>
            (regBits s (tstBp + 8 * k) 18 0 = regBits s (tstBp + 8 * n) 18 0) && bpFrozen s k }) :=
  congrArg (goOnKeep s) (if_pos (by simp only [hn, decide_true, Bool.true_and]; exact hup))

/-- Settles O42, clause by clause from what each event answers. -/
theorem repairsComplete : Obligations.RepairsComplete := by
  unfold Obligations.RepairsComplete
  refine ⟨?d2dLane, ?serdesLane, ?remap, ?watchdog, ?restartDone, ?report, ?holdExpire, ?duty⟩
  case d2dLane =>
    rintro s link module lane c rfl hok hlane hnew
    exact exec_d2dLaneFail_new hok hlane hnew
  case serdesLane => exact fun s lane hlane hnew => exec_serdesLaneFail_new hlane hnew
  case remap => exact fun s stack pc hstack hpc hret hnone hfree => exec_pcRemap_free hstack hpc hret hnone hfree
  case watchdog => exact fun s h => exec_mgmtWatchdog_ready h
  case restartDone => exact fun s image h hflash => exec_mgmtRestartDone_image h hflash
  case report => exact fun s rep h => exec_witnessReport_listed h
  case holdExpire => exact fun s => rfl
  case duty => exact fun s n hn hup => exec_bpDutyTick_up hn hup

end Sys2Proof.Proofs
end

section
/-! What a register reads after a store or after bits are set, and with it O56: a write of PWR_LIMIT (R35). -/

namespace Sys2Proof.Proofs

open Sys2Proof Machine Claims

theorem bit_eq_testBit (v i : Nat) : bit v i = v.testBit i := by
  rw [bit, Nat.testBit_eq_decide_div_mod_eq]

theorem bit_toNat (v : Word) (i : Nat) : bit v.toNat i = v.getLsbD i := bit_eq_testBit ..

theorem bits_low (v hi : Nat) : bits v hi 0 = v % 2 ^ (hi + 1) := by simp [bits]

@[simp] theorem regRaw_regPut_same (s : State) (off v : Nat) : regRaw (regPut s off v) off = v % 2 ^ 32 := by
  rw [regRaw, regPut_regs, tgetD_tsetD_same, BitVec.toNat_ofNat]

theorem regRaw_regPut_other {s : State} {off v off' : Nat} (h : off' ≠ off) : regRaw (regPut s off v) off' = regRaw s off' := by
  have hget : tget (tsetD s.regs off (BitVec.ofNat 32 (regReset off)) (BitVec.ofNat 32 v)) off' = tget s.regs off' := by
    unfold tsetD
    split
    · exact tget_tdel_other _ _ _ h
    · exact tget_tset_other _ _ _ _ h
  rw [regRaw, regPut_regs, tgetD, hget]
  rfl

theorem regRaw_regOr_same (s : State) (off mask : Nat) : regRaw (regOr s off mask) off = (regRaw s off ||| mask) % 2 ^ 32 :=
  regRaw_regPut_same ..

theorem regRaw_regOr_other {s : State} {off mask off' : Nat} (h : off' ≠ off) : regRaw (regOr s off mask) off' = regRaw s off' :=
  regRaw_regPut_other h

theorem regRaw_lt (s : State) (off : Nat) : regRaw s off < 2 ^ 32 := BitVec.isLt _

/-- Every bit of a 32-bit register after bits of a 32-bit mask are set. -/
theorem regBit_regOr {s : State} {off mask : Nat} (hmask : mask < 2 ^ 32) (i : Nat) :
    regBit (regOr s off mask) off i = (regBit s off i || mask.testBit i) := by
  have hlt : regRaw s off ||| mask < 2 ^ 32 := Nat.or_lt_two_pow (regRaw_lt s off) hmask
  simp only [regBit, bit_eq_testBit, regRaw_regOr_same, Nat.mod_eq_of_lt hlt, Nat.testBit_or]

/-- A register without W1C bits whose RW bits are its n lowest holds the value written in them. -/
theorem written_mod {s : State} {off v n : Nat} {d : RegDesc} (hrw : d.rw = 2 ^ n - 1) (hw1c : d.w1c = 0) (hn : n ≤ 32) :
    written s off v d % 2 ^ 32 % 2 ^ n = v % 2 ^ n := by
  rw [Nat.mod_mod_of_dvd _ (Nat.pow_dvd_pow 2 hn)]
  have hall : (0xFFFFFFFF : Nat) = 2 ^ 32 - 1 := rfl
  refine Nat.eq_of_testBit_eq fun i => ?_
  simp only [written, hrw, hw1c, hall, Nat.testBit_mod_two_pow, Nat.testBit_and, Nat.testBit_or, Nat.testBit_xor,
    Nat.testBit_two_pow_sub_one, Nat.zero_testBit, Nat.and_zero, Nat.zero_and]
  by_cases hi : i < n
  · have hi32 : i < 32 := by omega
    simp [hi, hi32]
  · simp [hi]

/-- A register has one description. -/
theorem desc_of_reached {s : State} {off : Nat} {d e : RegDesc} (hr : regReached s off d) (he : regDesc off = some e) : d = e :=
  Option.some.inj (hr.1.symm.trans he)

theorem reached_of_portless {s : State} {off : Nat} {d : RegDesc} (hd : regDesc off = some d) (hport : regPort off = none)
    (hready : blockReady s off = true) : regReached s off d :=
  ⟨hd, fun p hp => absurd (hport.symm.trans hp) (Option.some_ne_none p).symm, hready⟩

/-- LIMIT, 200 to 520 W (R35). -/
def limitDesc : RegDesc := { reset := 0x208, rw := 0x3FF, ranges := [(9, 0, 200, 520)] }

theorem regDesc_pwrLimit : regDesc pwrLimit = some limitDesc := rfl

theorem fieldsInRange_limitDesc (v : Nat) : fieldsInRange limitDesc v = true ↔ 200 ≤ v ∧ v ≤ 520 := by
  simp [fieldsInRange, limitDesc]

theorem plainReg_pwrLimit : plainReg pwrLimit := by
  unfold plainReg
  decide

theorem exec_pwrLimitWrite_reached {s : State} {v : Word} {d : RegDesc} (hr : regReached s pwrLimit d) :
    exec (.pwrLimitWrite v) s = goOn s (plainWritten s pwrLimit v.toNat d) := by
  obtain rfl := desc_of_reached hr regDesc_pwrLimit
  exact congrArg (goOn s) (writeReg_plain plainReg_pwrLimit hr (by decide))

/-- goOn leaves the state of a plain write as it is: it changes neither the queue nor the time. -/
theorem goOn_plainWritten (s : State) (off v : Nat) (d : RegDesc) : goOn s (plainWritten s off v d) = .next (plainWritten s off v d) := by
  rw [goOn_congr (plainWritten_pending s off v d) (plainWritten_now s off v d)]
  rfl

theorem plainWritten_limit_rejected {s : State} {v : Nat} (hv : v < 200 ∨ 520 < v) :
    plainWritten s pwrLimit v limitDesc = regOr s pwrStatus 2 :=
  if_neg (by rw [fieldsInRange_limitDesc]; omega)

theorem plainWritten_limit_stored {s : State} {v : Nat} (hlow : 200 ≤ v) (hhigh : v ≤ 520) :
    plainWritten s pwrLimit v limitDesc = regPut s pwrLimit (written s pwrLimit v limitDesc) :=
  if_pos ((fieldsInRange_limitDesc v).mpr ⟨hlow, hhigh⟩)

theorem regBits_limit_stored {s : State} {v : Nat} (hv : v ≤ 520) :
    regBits (regPut s pwrLimit (written s pwrLimit v limitDesc)) pwrLimit 9 0 = v := by
  rw [regBits, bits_low, regRaw_regPut_same, written_mod (n := 10) rfl rfl (by decide), Nat.mod_eq_of_lt (by omega)]

/-- Settles O56, from what PWR_STATUS or PWR_LIMIT reads after the write and the registers' frame. -/
theorem powerLimitOutOfRangeRejected : Obligations.PowerLimitOutOfRangeRejected := by
  unfold Obligations.PowerLimitOutOfRangeRejected
  intro s v hready
  rw [exec_pwrLimitWrite_reached (reached_of_portless regDesc_pwrLimit rfl hready), goOn_plainWritten]
  refine ⟨fun hv => ⟨_, rfl, ?_⟩, fun hlow hhigh => ⟨_, rfl, ?_⟩⟩
  · rw [plainWritten_limit_rejected hv]
    refine ⟨rfl, ?flag, fun i hi => ?bits, fun off h => regRaw_regOr_other h⟩
    case flag => rw [regBit_regOr (by decide), show Nat.testBit 2 1 = true from rfl, Bool.or_true]
    case bits => rw [regBit_regOr (by decide), Nat.testBit_two_pow_of_ne (n := 1) hi.symm, Bool.or_false]
  · rw [plainWritten_limit_stored hlow hhigh]
    exact ⟨rfl, regBits_limit_stored hhigh, fun off h => regRaw_regPut_other h⟩

end Sys2Proof.Proofs
end

section
/-! The set-up writes with a row of their own, each as the write of its register (R35, R173, R198, R399, R415, R423, R532, R533, R571), and with
them O46. -/

namespace Sys2Proof.Proofs

open Sys2Proof Machine Claims

-- ------------------------------------------------------------------ watchdog, streaming pool, slew bound (R173, R198, R399)

/-- ARR_JOIN_WDOG, 64 to 1 048 576 core cycles (R173). -/
def joinWdogDesc : RegDesc := { reset := 0x1000, rw := 0x1FFFFF, ranges := [(20, 0, 64, 1048576)] }

/-- SHF_STREAM_POOL, up to 3 600 GB/s (R198). -/
def streamPoolDesc : RegDesc := { reset := 0xC80, rw := 0xFFF, ranges := [(11, 0, 0, 3600)] }

/-- TIM_SLEW_BOUND, 1 000 to 200 000 ppb (R399). -/
def slewBoundDesc : RegDesc := { reset := 0x4E20, rw := 0x3FFFF, ranges := [(17, 0, 1000, 200000)] }

theorem regDesc_arrJoinWdog : regDesc arrJoinWdog = some joinWdogDesc := rfl

theorem regDesc_shfStreamPool : regDesc shfStreamPool = some streamPoolDesc := rfl

theorem regDesc_timSlewBound : regDesc timSlewBound = some slewBoundDesc := rfl

theorem plainReg_shfStreamPool : plainReg shfStreamPool := by
  unfold plainReg
  decide

/-- The value before the first write of a core cycle stands to the end of the cycle (R173). -/
theorem exec_joinWdogWrite_reached {s : State} {v : Word} {d : RegDesc} (hr : regReached s arrJoinWdog d) :
    exec (.joinWdogWrite v) s = goOn s
      (let t := plainWritten s arrJoinWdog v.toNat d
       if t.wdogPrev.any (·.1 = cycleOf s) then t else { t with wdogPrev := some (cycleOf s, regBits s arrJoinWdog 20 0) }) := by
  obtain rfl := desc_of_reached hr regDesc_arrJoinWdog
  rw [← checkedWrite_of_writable (d := joinWdogDesc) (by decide)]
  exact congrArg (goOn s) (writeReg_of_reached hr)

theorem exec_streamPoolWrite_reached {s : State} {v : Word} {d : RegDesc} (hr : regReached s shfStreamPool d) :
    exec (.streamPoolWrite v) s = goOn s (plainWritten s shfStreamPool v.toNat d) := by
  obtain rfl := desc_of_reached hr regDesc_shfStreamPool
  exact congrArg (goOn s) (writeReg_plain plainReg_shfStreamPool hr (by decide))

theorem exec_slewBoundWrite_reached {s : State} {v : Word} {d : RegDesc} (hr : regReached s timSlewBound d) :
    exec (.slewBoundWrite v) s = goOn s (limitAdj (plainWritten s timSlewBound v.toNat d)) := by
  obtain rfl := desc_of_reached hr regDesc_timSlewBound
  rw [← checkedWrite_of_writable (d := slewBoundDesc) (by decide)]
  exact congrArg (goOn s) (writeReg_of_reached hr)

-- ------------------------------------------------------------------ TIM_CAPTURE (R423)

/-- The register is there whether or not its bits are written: only bit 0 acts. -/
theorem writeReg_timCapture {s : State} (v : Nat) (h : ready s rdyTim = true) :
    writeReg s timCapture v = if bit v 0 then captureClock s else s :=
  writeReg_of_reached (reached_of_portless (off := timCapture) rfl rfl h)

theorem exec_timCapture_one {s : State} {v : Word} (h : ready s rdyTim = true) (hv : v.getLsbD 0 = true) :
    exec (.timCapture v) s = goOn s (captureClock s) :=
  congrArg (goOn s) ((writeReg_timCapture v.toNat h).trans (if_pos ((bit_toNat v 0).trans hv)))

theorem exec_timCapture_ignored {s : State} {v : Word} (h : v.getLsbD 0 = false ∨ ready s rdyTim = false) :
    exec (.timCapture v) s = goOn s s := by
  refine congrArg (goOn s) ?_
  cases hready : ready s rdyTim with
  | false => exact writeReg_not_ready rfl hready
  | true =>
    have hv : v.getLsbD 0 = false := h.resolve_right (by simp [hready])
    rw [writeReg_timCapture v.toNat hready, bit_toNat, hv]
    rfl

-- ------------------------------------------------------------------ CAL_ user offsets (R415, R532, R533)

theorem blockWrite_cal {s : State} {off v : Nat} {d : RegDesc} (hlow : 0x2000 ≤ off) (hhigh : off < 0x3000) :
    blockWrite s off v d = writeCal s off v d := by
  unfold blockWrite
  rw [if_neg (by omega), if_neg (by omega), if_pos hhigh]

/-- The places in the block of the user offsets of the SerDes lanes, the timestamp paths and the temperature sensors (R424, R534). -/
def UserPlace (o : Nat) : Prop :=
  (o < 0x200 ∧ (o % 0x20 = 4 ∨ o % 0x20 = 0x10)) ∨ (0x400 ≤ o ∧ o < 0x600 ∧ (o % 0x20 = 4 ∨ o % 0x20 = 0x10))
    ∨ (0x600 ≤ o ∧ o < 0x880 ∧ o % 0x10 = 4)

theorem isRws_iff (off : Nat) : isRws off = true ↔ 0x2000 ≤ off ∧ off < 0x3000 ∧ UserPlace (off - 0x2000) := by
  simp [isRws, UserPlace, and_assoc, or_assoc]

theorem UserPlace.aligned {o : Nat} (h : UserPlace o) : o % 4 = 0 := by
  unfold UserPlace at h
  omega

/-- A user offset stores what is written, in the bits that its table gives. -/
theorem calReg_of_userPlace {o : Nat} (h : UserPlace o) : ∃ rw, rw ≠ 0 ∧ calReg o = some { rw := rw } := by
  obtain ⟨hserdes, hreg | hreg⟩ | ⟨hts, hts', hreg | hreg⟩ | ⟨hth, hth', hreg⟩ := h
  · exact ⟨0x3F3F3F, by decide, by rw [calReg, if_pos hserdes, hreg]; rfl⟩
  · exact ⟨0x1FFF, by decide, by rw [calReg, if_pos hserdes, hreg]; rfl⟩
  · exact ⟨0xFFFFFFFF, by decide, by rw [calReg, if_neg (by omega), if_pos ⟨hts, hts'⟩, hreg]; rfl⟩
  · exact ⟨0xFFFFFFFF, by decide, by rw [calReg, if_neg (by omega), if_pos ⟨hts, hts'⟩, hreg]; rfl⟩
  · exact ⟨0xFF, by decide, by rw [calReg, if_neg (by omega), if_neg (by omega), if_pos ⟨hth, hth'⟩, hreg]; rfl⟩

theorem regDesc_cal {off : Nat} (halign : off % 4 = 0) (hlow : 0x2000 ≤ off) (hhigh : off < 0x3000) :
    regDesc off = calReg (off - 0x2000) := by
  unfold regDesc
  rw [if_neg (by omega), if_neg (by omega), if_neg (by omega), if_pos hhigh]

theorem writable_of_isRws {off : Nat} {d : RegDesc} (h : isRws off = true) (hd : regDesc off = some d) : d.rw ≠ 0 := by
  obtain ⟨hlow, hhigh, hplace⟩ := (isRws_iff off).mp h
  have halign := hplace.aligned
  obtain ⟨rw, hrw, hreg⟩ := calReg_of_userPlace hplace
  rw [regDesc_cal (by omega) hlow hhigh, hreg] at hd
  obtain rfl := Option.some.inj hd
  exact hrw

theorem rejectWrite_cal {s : State} {off : Nat} (hlow : 0x2000 ≤ off) (hhigh : off < 0x3000) : rejectWrite s off = regOr s calEvent 2 := by
  have hrej : regReject off = some (calEvent, 1) := by
    unfold regReject
    rw [if_neg (by omega), if_pos hhigh]
  simp only [rejectWrite, hrej]
  rfl

/-- The write of a SerDes or thermal user offset is that of its block. -/
theorem exec_calOffsetWrite_reached {s : State} {off : Nat} {v : Word} {d : RegDesc} (h : isRws off = true)
    (hts : ¬(0x2400 ≤ off ∧ off < 0x2600)) (hr : regReached s off d) :
    exec (.calOffsetWrite off v) s = goOn s (writeCalUser s off v.toNat d) := by
  obtain ⟨hlow, hhigh, -⟩ := (isRws_iff off).mp h
  have hblock : writeCal s off v.toNat d = writeCalUser s off v.toNat d :=
    (if_neg (by simp [h])).trans (if_neg (by simpa using hts))
  exact congrArg (goOn s) ((if_pos h).trans ((writeReg_of_reached hr).trans ((blockWrite_cal hlow hhigh).trans hblock)))

theorem exec_calOffsetWrite_inRange {s : State} {off : Nat} {v : Word} {d : RegDesc} (h : isRws off = true)
    (hts : ¬(0x2400 ≤ off ∧ off < 0x2600)) (hr : regReached s off d) (hok : calUserOk (off - 0x2000) v.toNat = true) :
    exec (.calOffsetWrite off v) s = goOn s
      (let t := regPut s off (written s off v.toNat d)
       let u := if calClamps (off - 0x2000) (otpReg (off - 4)) (regRaw t off) then regOr t calEvent 1 else t
       { u with out := .calibrate (off + 4) (BitVec.ofNat 32 (readReg u (off + 4))) :: u.out }) := by
  rw [exec_calOffsetWrite_reached h hts hr, ← storeWrite_of_writable (.inl (writable_of_isRws h hr.1))]
  simp only [writeCalUser, hok, if_true, emit]

theorem exec_calOffsetWrite_outOfRange {s : State} {off : Nat} {v : Word} {d : RegDesc} (h : isRws off = true)
    (hts : ¬(0x2400 ≤ off ∧ off < 0x2600)) (hr : regReached s off d) (hok : calUserOk (off - 0x2000) v.toNat = false) :
    exec (.calOffsetWrite off v) s = goOn s (regOr s calEvent 2) := by
  obtain ⟨hlow, hhigh, -⟩ := (isRws_iff off).mp h
  rw [exec_calOffsetWrite_reached h hts hr, ← rejectWrite_cal (s := s) hlow hhigh]
  simp only [writeCalUser, hok, Bool.false_eq_true, if_false]

theorem calTs_range {p : Nat} (tx : Bool) (hp : p < 16) :
    0x2400 ≤ calTs p (if tx then 4 else 1) ∧ calTs p (if tx then 4 else 1) < 0x2600 := by
  rw [calTs]
  split <;> omega

/-- RX_USER and TX_USER of a port's timestamp path. -/
theorem isRws_calTs {p : Nat} (tx : Bool) (hp : p < 16) : isRws (calTs p (if tx then 4 else 1)) = true := by
  rw [isRws_iff, UserPlace, calTs]
  split <;> omega

theorem exec_tsUserOffsetWrite_eq {s : State} {p : Nat} {tx : Bool} {v : Word} (hp : p < 16) :
    exec (.tsUserOffsetWrite p tx v) s = goOn s (writeReg s (calTs p (if tx then 4 else 1)) v.toNat) :=
  congrArg (goOn s) (if_pos hp)

/-- Up to 100 ns either way, in 2^-16 ns (R415). -/
theorem exec_tsUserOffsetWrite_reached {s : State} {p : Nat} {tx : Bool} {v : Word} {d : RegDesc} (hp : p < 16)
    (hr : regReached s (calTs p (if tx then 4 else 1)) d) :
    exec (.tsUserOffsetWrite p tx v) s = goOn s
      (if (sgn 32 v.toNat).natAbs ≤ 100 * 65536
       then regPut s (calTs p (if tx then 4 else 1)) (written s (calTs p (if tx then 4 else 1)) v.toNat d) else regOr s timEvent 16) := by
  have hrws := isRws_calTs tx hp
  have hrange := calTs_range tx hp
  rw [exec_tsUserOffsetWrite_eq hp, ← storeWrite_of_writable (.inl (writable_of_isRws hrws hr.1)), writeReg_of_reached hr,
    blockWrite_cal (by omega) (by omega)]
  exact congrArg (goOn s) ((if_neg (by simp [hrws])).trans (if_pos (by simpa using hrange)))

theorem exec_calOffsetWrite_calTs {s : State} {p : Nat} {tx : Bool} {v : Word} (hp : p < 16) :
    exec (.calOffsetWrite (calTs p (if tx then 4 else 1)) v) s = exec (.tsUserOffsetWrite p tx v) s := by
  rw [exec_tsUserOffsetWrite_eq hp]
  exact congrArg (goOn s) (if_pos (isRws_calTs tx hp))

-- ------------------------------------------------------------------ GLB_ADMIN_CTRL.EN (R571)

theorem exec_adminEnable_ready {s : State} {v : Word} (h : ready s rdyMgmt = true) :
    exec (.adminEnable v) s = goOn s (writeAdminCtrl s v.toNat) :=
  congrArg (goOn s) (writeReg_of_reached (reached_of_portless (off := glbAdminCtrl) rfl rfl h))

/-- EN written as 1 where it is 0: the checks decide. -/
theorem writeAdminCtrl_enable {s : State} {v : Word} (hen : regBit s glbAdminCtrl 0 = false) (hv : v.getLsbD 0 = true) :
    writeAdminCtrl s v.toNat =
      if adminOk s (b2n (v.getLsbD 1)) then enableAdmin s v.toNat else regOr (regPut s glbAdminCtrl (v.toNat % 8 / 2 * 2)) glbEvent 1 := by
  simp only [writeAdminCtrl, hen, bit_toNat, hv, if_true, Bool.false_eq_true, if_false]

theorem exec_adminEnable_ok {s : State} {v : Word} (h : ready s rdyMgmt = true) (hen : regBit s glbAdminCtrl 0 = false)
    (hv : v.getLsbD 0 = true) (hok : adminOk s (b2n (v.getLsbD 1)) = true) : exec (.adminEnable v) s = goOn s (enableAdmin s v.toNat) := by
  rw [exec_adminEnable_ready h, writeAdminCtrl_enable hen hv, if_pos hok]

theorem exec_adminEnable_rejected {s : State} {v : Word} (h : ready s rdyMgmt = true) (hen : regBit s glbAdminCtrl 0 = false)
    (hv : v.getLsbD 0 = true) (hbad : adminOk s (b2n (v.getLsbD 1)) = false) :
    exec (.adminEnable v) s = goOn s (regOr (regPut s glbAdminCtrl (v.toNat % 8 / 2 * 2)) glbEvent 1) := by
  rw [exec_adminEnable_ready h, writeAdminCtrl_enable hen hv, if_neg (Bool.eq_false_iff.mp hbad)]

/-- Settles O46, clause by clause from what each of the writes answers. -/
theorem setupWritesComplete : Obligations.SetupWritesComplete := by
  unfold Obligations.SetupWritesComplete
  refine ⟨?limit, ?wdog, ?pool, ?slew, ?capture, ?noCapture, ?tsUser, ?calIn, ?calOut, ?calTs, ?enable, ?reject⟩
  case limit => exact fun s v d hr => exec_pwrLimitWrite_reached hr
  case wdog => exact fun s v d hr => exec_joinWdogWrite_reached hr
  case pool => exact fun s v d hr => exec_streamPoolWrite_reached hr
  case slew =>
    intro s v d hr hv
    rw [exec_slewBoundWrite_reached hr, plainWritten, if_pos hv]
  case capture => exact fun s v h hv => exec_timCapture_one h hv
  case noCapture => exact fun s v h => exec_timCapture_ignored h
  case tsUser =>
    rintro s p tx v off d hp rfl hr
    exact exec_tsUserOffsetWrite_reached hp hr
  case calIn =>
    rintro s t off v d h hts hr hok rfl
    exact exec_calOffsetWrite_inRange h hts hr hok
  case calOut => exact fun s off v d h hts hr hok => exec_calOffsetWrite_outOfRange h hts hr hok
  case calTs => exact fun s p tx v hp => exec_calOffsetWrite_calTs hp
  case enable => exact fun s v h hen hv hok => exec_adminEnable_ok h hen hv hok
  case reject => exact fun s v h hen hv hbad => exec_adminEnable_rejected h hen hv hbad

end Sys2Proof.Proofs
end

section
/-! The life of a window in the wedge and in the glaze unit (R51-R93, R161, R337), and with it O30. -/

namespace Sys2Proof.Proofs

open Sys2Proof Machine Claims

theorem lateEntry_of_started {s : State} {m : Message} {c : Nat} (hlane : m.tookLane = some c) (hstarted : m.started = true)
    (hentered : m.entered = false) (hlate : c + 8 < cycleOf s) : lateEntry s m = true := by
  simp [lateEntry, hlane, hstarted, hentered, hlate]

/-- 12 ns and F core cycles after the window end (R62, R76), in the unit of State.now. -/
theorem verdictReady_of_windowEnd {m : Message} {t : Nat} (h : windowEnd m = some t) : verdictReady m = some (t + 12 * 600 + m.f * 375) :=
  congrArg (Option.map fun t => t + 12 * nsec + m.f * coreCycle) h

/-- The number of results of a kind that a message still awaits. -/
def pendingOf (m : Message) (kind : CheckKind) : Nat :=
  match kind with
  | .fcs => m.pendFcs
  | .crc => m.pendCrc
  | .tag => m.pendTag

theorem exec_entryLate_late {s : State} {id : Nat} {m : Message} (hm : getMsg s id = some m) (hlate : lateEntry s m = true)
    (hacted : m.acted = false) : exec (.entryLate id) s = goOnKeep s (unjudge (regOr (regAdd s arrEntryLate 1) arrEvent 4) id 1) := by
  refine congrArg (goOnKeep s) ?_
  rw [hm]
  exact if_pos ⟨hlate, hacted⟩

/-- At verdict-ready of a message that is not settled and whose copy C is not awaited, its unit's verdict is taken. -/
theorem exec_verdictRelease_ready {s h : State} {id ui t : Nat} {m : Message} {k : Binding} {u : MUnit} (hh : h = handOver s s.now)
    (hm : getMsg h id = some m) (hk : m.binding = some k) (hui : m.unit = some ui) (hu : getUnit h ui = some u)
    (hready : verdictReady m = some t) (hdue : t ≤ h.now) (hstarted : m.started = true) (hacted : m.acted = false) (hc : m.cDue = none) :
    exec (.verdictRelease id) s = goOnKeep s (if u.guard then releaseGuarded h id m k ui u t else releasePlain h id m u t) := by
  subst hh
  refine congrArg (goOnKeep s) ?_
  simp only [hm, hk, hui, hready, Option.bind_some, hu]
  exact if_pos (by simp [hstarted, hacted, hc, hdue])

theorem exec_guardArbitrate_due {s h : State} {id ui t : Nat} {m : Message} {u : MUnit} (hh : h = handOver s s.now)
    (hm : getMsg h id = some m) (hui : m.unit = some ui) (hu : getUnit h ui = some u) (hc : m.cDue = some t) (hdue : t ≤ h.now)
    (hacted : m.acted = false) : exec (.guardArbitrate id) s = goOnKeep s (arbitrate h id m ui u t) := by
  subst hh
  refine congrArg (goOnKeep s) ?_
  simp only [hm, hui, hc, Option.bind_some, hu]
  exact if_pos (by simp [hacted, hdue])

/-- A result that an unfinished message awaits has passed or failed; a handoff due at this very instant has not
taken place (R82, R83). -/
theorem exec_checkResult_awaited {s h : State} {id : Nat} {kind : CheckKind} {pass : Bool} {m : Message} (hh : h = handOver s (s.now - 1))
    (hm : getMsg h id = some m) (hfinished : m.finished = false) (hpending : 0 < pendingOf m kind) :
    exec (.checkResult id kind pass) s = goOnKeep s
      (if pass then checkPassed h id kind else if kind = .tag then checkFailedTag h id m (m.tagPsns.headD 0) else checkFailedFrame h id m kind) := by
  subst hh
  refine congrArg (goOnKeep s) ?_
  simp only [hm]
  exact if_pos ⟨hpending, hfinished⟩

/-- A provisional reply whose checks are pending at its limit is rescinded, its message discarded and its queue pair served (R84). -/
theorem exec_pTimeoutExpire_pending {s h : State} {id : Nat} {m : Message} {k : Binding} {r : Reply} (hh : h = handOver s s.now)
    (hm : getMsg h id = some m) (hk : m.binding = some k) (hr : m.reply = some r) (hprov : r.provisional = true)
    (hpending : checksPending m = true) (hresc : m.rescinded = false) (hdue : r.handedAt + k.pTimeout * 600 ≤ h.now) :
    exec (.pTimeoutExpire id) s = goOnKeep s
      (match m.qp with
       | some i =>
         if m.opcode = 4 then finishRead (discardMsg (rescind h id 3) id) i m.msn
         else updateCredit (completeAll (discardMsg (rescind h id 3) id) i) i
       | none => discardMsg (rescind h id 3) id) := by
  subst hh
  refine congrArg (goOnKeep s) ?_
  simp only [hm, hr, hk]
  exact if_pos (by simp [hprov, hpending, hresc, nsec, hdue])

theorem exec_steerHoldExpire_due {s : State} {id t : Nat} {m : Message} (hm : getMsg s id = some m) (huntil : m.steerUntil = some t)
    (hdue : t ≤ s.now) : exec (.steerHoldExpire id) s = goOnKeep s (unjudge s id 12) := by
  refine congrArg (goOnKeep s) ?_
  simp only [hm, huntil]
  exact if_pos hdue

/-- The full model's result is taken once, behind the first verdict, and not while C's verdict is awaited. -/
theorem exec_fullResult_ready {s h : State} {id t : Nat} {m : Message} {k : Binding} {u : MUnit} (hh : h = handOver s s.now)
    (hm : getMsg h id = some m) (hk : m.binding = some k) (hu : m.unit.bind (getUnit h) = some u) (hready : fullReady m = some t)
    (hacted : m.acted = true) (hdone : m.fullDone = false) (hdue : t ≤ h.now) (hc : ∀ d, m.cDue = some d → d ≤ h.now) :
    exec (.fullResult id) s = goOnKeep s (takeFull h id m k u t) := by
  subst hh
  refine congrArg (goOnKeep s) ?_
  have hcAll : m.cDue.all (fun d => decide (d ≤ (handOver s s.now).now)) = true := by simpa [Option.all_eq_true] using hc
  simp only [hm, hk, hu, hready]
  exact if_pos (by simp [hacted, hdone, hdue, hcAll])

/-- Settles O30, clause by clause from what each step of a window's life answers. -/
theorem windowsComplete : Obligations.WindowsComplete := by
  unfold Obligations.WindowsComplete
  refine ⟨?tokens, ?late, ?verdict, ?arbitrate, ?check, ?timeout, ?steer, ?full⟩
  case tokens => exact fun s id => ⟨rfl, rfl⟩
  case late => exact fun s id c m hm hlane hstarted hentered hacted hlate =>
    exec_entryLate_late hm (lateEntry_of_started hlane hstarted hentered hlate) hacted
  case verdict => exact fun s h id ui t m k u hh hm hk hui hu hend hdue hstarted hacted hc =>
    exec_verdictRelease_ready hh hm hk hui hu (verdictReady_of_windowEnd hend) hdue hstarted hacted hc
  case arbitrate => exact fun s h id ui t m u hh hm hui hu hc hdue hacted => exec_guardArbitrate_due hh hm hui hu hc hdue hacted
  case check => exact fun s h id kind pass m hh hm hfinished hpending => exec_checkResult_awaited hh hm hfinished hpending
  case timeout => exact fun s h id m k r hh hm hk hr hprov hpending hresc hdue =>
    exec_pTimeoutExpire_pending hh hm hk hr hprov hpending hresc hdue
  case steer => exact fun s id t m hm huntil hdue => exec_steerHoldExpire_due hm huntil hdue
  case full => exact fun s h id t m k u hh hm hk hu hready hacted hdone hdue hc =>
    exec_fullResult_ready hh hm hk hu hready hacted hdone hdue hc

end Sys2Proof.Proofs
end

section
/-! What a completion of a command leaves to the ports, the takeover of a gate list, and low-power idle (R69, R307, R377, R378, R382-R384,
R393), and with them O37. -/

namespace Sys2Proof.Proofs

open Sys2Proof Machine Claims

@[simp] theorem getPort_modPort_same (s : State) (p : Nat) (f : Port → Port) : getPort (modPort s p f) p = f (getPort s p) := by
  simp [getPort, tgetD, tmodD]

/-- The ports are read from the table of ports alone. -/
theorem getPort_congr {s t : State} (h : t.ports = s.ports) (p : Nat) : getPort t p = getPort s p := by
  simp only [getPort, h]

@[simp] theorem hostWrite_ports (s : State) (inst link addr : Nat) (data : Bytes) : (hostWrite s inst link addr data).ports = s.ports := by
  simp only [hostWrite]
  split
  · rfl
  · split <;> split <;> rfl

@[simp] theorem raiseIfDue_ports (s : State) (key : Nat) : (raiseIfDue s key).ports = s.ports := by
  simp only [raiseIfDue]
  split
  · rfl
  · split <;> rfl

@[simp] theorem ringPush_ports (s : State) (key : Nat) (rec : Bytes) : (ringPush s key rec).ports = s.ports := by
  simp only [ringPush]
  split
  · rfl
  · split <;> simp

@[simp] theorem completeCmd_ports (s : State) (r : CmdRing) (tag index : BitVec 32) (op st bytes : Nat) (res : List (Nat × Nat × Nat)) :
    (completeCmd s r tag index op st bytes res).ports = s.ports := by
  simp [completeCmd]

@[simp] theorem finishCmd_ports (s : State) (id st : Nat) (res : List (Nat × Nat × Nat)) : (finishCmd s id st res).ports = s.ports := by
  unfold finishCmd
  split <;> simp

@[simp] theorem finishCmd?_ports (s : State) (id : Option Nat) (st : Nat) (res : List (Nat × Nat × Nat)) :
    (finishCmd? s id st res).ports = s.ports := by
  unfold finishCmd?
  split <;> simp

-- ------------------------------------------------------------------ gate lists

theorem takeOver_refused {s : State} {p t : Nat} {g : GateList} (hpend : (getPort s p).pendGate = some (g, t))
    (href : gateRefused (modPort s p fun q => { q with pendGate := none }) p g = true) :
    takeOver s p = finishCmd? (modPort s p fun q => { q with pendGate := none })
      ((s.cmds.find? fun c => c.opcode = 0x41 && c.arg = p).map (·.id)) stNoResource [] := by
  unfold takeOver
  rw [hpend]
  exact if_pos href

/-- A pending list that the armature windows let in is in force after its takeover, and none pends. -/
theorem getPort_takeOver_accepted {s : State} {p t : Nat} {g : GateList} (hpend : (getPort s p).pendGate = some (g, t))
    (hok : gateRefused (modPort s p fun q => { q with pendGate := none }) p g = false) :
    (getPort (takeOver s p) p).oper = g ∧ (getPort (takeOver s p) p).pendGate = none := by
  unfold takeOver
  simp only [hpend, hok, Bool.false_eq_true, if_false]
  rw [getPort_congr (finishCmd?_ports ..), getPort_modPort_same]
  simp only [getPort_congr (regOr_ports ..), getPort_congr (regPut_ports ..), getPort_modPort_same, and_self]

theorem exec_gateEntryChange_ready {s : State} {p : Nat} (hport : portExists s p = true) (hready : ready s rdyTim = true) :
    exec (.gateEntryChange p) s = goOnKeep s (modPort s p fun q => { q with gates := gateWord s p }) :=
  congrArg (goOnKeep s) (if_pos (by rw [hport, hready]; rfl))

theorem exec_gateTakeover_base {s : State} {p t : Nat} {g : GateList} (hpend : (getPort s p).pendGate = some (g, t)) (hbase : t ≤ netNs s) :
    exec (.gateTakeover p) s = goOnKeep s (takeOver s p) := by
  refine congrArg (goOnKeep s) ?_
  rw [hpend]
  exact if_pos hbase

-- ------------------------------------------------------------------ low-power idle

/-- R377's conditions on a port that exists: it is up and offers low-power idle to a peer that takes it, is awake and has been idle for the
time it waits, replies to nothing that is FIRED, and no armature window opens before it could have entered and woken. -/
structure MayIdle (s : State) (p : Nat) : Prop where
  up : (getPort s p).linkUp = true
  enabled : regBit s (macLpi p) 0 = true
  negotiated : regBit s (macLpiWake p) 16 = true
  awake : (getPort s p).lpiTx = false
  empty : queuedFrames (getPort s p) = []
  sent : (getPort s p).txBusyUntil ≤ s.now
  woken : ∀ w, (getPort s p).wakeAt = some w → w ≤ s.now
  waited : (getPort s p).idleSince + regBits s (macLpi p) 31 16 * 600000 ≤ s.now
  noReplies : isReplyPort s p = false
  noWindow : windowWithin s p (wakeNs s p + Config.lpiEntryNs) = false

theorem exec_lpiEnter_tx {s : State} {p : Nat} (hport : portExists s p = true) (h : MayIdle s p) :
    exec (.lpiEnter ⟨p, false⟩) s = goOnKeep s (modPort s p fun q => { q with lpiTx := true, wakeAt := none }) := by
  have hwoken : (getPort s p).wakeAt.all (fun t => decide (t ≤ s.now)) = true := by simpa [Option.all_eq_true] using h.woken
  refine congrArg (goOnKeep s) ((if_neg Bool.false_ne_true).trans (if_pos ?_))
  simp [hport, h.up, h.enabled, h.negotiated, h.awake, h.empty, h.sent, hwoken, usec, h.waited, h.noReplies, h.noWindow]

theorem exec_lpiEnter_rx {s : State} {p : Nat} (hport : portExists s p = true) (hup : (getPort s p).linkUp = true) :
    exec (.lpiEnter ⟨p, true⟩) s = goOnKeep s (modPort s p fun q => { q with lpiRx := true }) :=
  congrArg (goOnKeep s) ((if_pos rfl).trans (if_pos (by rw [hport, hup]; rfl)))

theorem exec_lpiWake_tx {s : State} {p : Nat} (hidle : (getPort s p).lpiTx = true)
    (hcause : queuedFrames (getPort s p) ≠ [] ∨ windowWithin s p (wakeNs s p) = true) :
    exec (.lpiWake ⟨p, false⟩) s = goOnKeep s
      (modPort s p fun q => { q with lpiTx := false, wakeAt := some (s.now + wakeNs s p * 600) }) :=
  congrArg (goOnKeep s) ((if_neg Bool.false_ne_true).trans (if_pos (by simpa [hidle] using hcause)))

/-- Settles O37, clause by clause from what the gate engine and low-power idle answer. -/
theorem gatesAndIdleComplete : Obligations.GatesAndIdleComplete := by
  unfold Obligations.GatesAndIdleComplete
  refine ⟨?gates, ?accepted, ?refused, ?enterTx, ?enterRx, ?wakeTx, ?wakeRx⟩
  case gates => exact fun s p hport hready => exec_gateEntryChange_ready hport hready
  case accepted => exact fun s p t g hpend hbase hok =>
    ⟨_, exec_gateTakeover_base hpend hbase, getPort_takeOver_accepted hpend hok⟩
  case refused =>
    intro s p t g hpend hbase href
    rw [exec_gateTakeover_base hpend hbase, takeOver_refused hpend href]
  case enterTx => exact fun s p hport hup hen hneg hawake hempty hsent hwoken hwaited hreply hwindow =>
    exec_lpiEnter_tx hport ⟨hup, hen, hneg, hawake, hempty, hsent, hwoken, hwaited, hreply, hwindow⟩
  case enterRx => exact fun s p hport hup => exec_lpiEnter_rx hport hup
  case wakeTx => exact fun s p hidle hcause => exec_lpiWake_tx hidle hcause
  case wakeRx => exact fun s p => rfl

end Sys2Proof.Proofs
end

section
/-! What core SRAM reads after a write of a shelf's partition (R110), and with it O58. -/

namespace Sys2Proof.Proofs

open Sys2Proof Machine Claims

/-- A run of writes, each to its own place of a table, leaves every other key as it is. -/
theorem tgetD_foldl_tsetD_other {α : Type} [DecidableEq α] {key : Nat → Nat} (val : Nat → α) (d : α) {l : List Nat} {k : Nat}
    (hk : ∀ i ∈ l, k ≠ key i) (m : Table α) : tgetD (l.foldl (fun m i => tsetD m (key i) d (val i)) m) k d = tgetD m k d := by
  induction l generalizing m with
  | nil => rfl
  | cons i l ih =>
    obtain ⟨hi, hl⟩ := List.forall_mem_cons.mp hk
    exact (ih hl _).trans (tgetD_tsetD_other m _ d _ k hi)

/-- A run of writes to different keys leaves at each key what was written there. -/
theorem tgetD_foldl_tsetD_same {α : Type} [DecidableEq α] {key : Nat → Nat} (val : Nat → α) (d : α) {l : List Nat}
    (hkey : ∀ i ∈ l, ∀ j ∈ l, key i = key j → i = j) {i : Nat} (hi : i ∈ l) (m : Table α) :
    tgetD (l.foldl (fun m i => tsetD m (key i) d (val i)) m) (key i) d = val i := by
  induction l generalizing m with
  | nil => cases hi
  | cons j l ih =>
    by_cases hmem : i ∈ l
    · exact ih (fun a ha b hb => hkey a (List.mem_cons_of_mem _ ha) b (List.mem_cons_of_mem _ hb)) hmem _
    · obtain rfl : i = j := (List.mem_cons.mp hi).resolve_right hmem
      have hother : ∀ a ∈ l, key i ≠ key a := fun a ha he =>
        hmem (hkey i hi a (List.mem_cons_of_mem _ ha) he ▸ ha)
      exact (tgetD_foldl_tsetD_other val d hother _).trans (tgetD_tsetD_same m _ d _)

theorem partAddr_mem_partition {base size : Nat} (hsize : 0 < size) (a i : Nat) :
    base ≤ partAddr base size a i ∧ partAddr base size a i < base + size :=
  ⟨Nat.le_add_right .., Nat.add_lt_add_left (Nat.mod_lt _ hsize) base⟩

/-- The bytes of an access no longer than the partition lie at different addresses, although they wrap. -/
theorem partAddr_injective {base size a i j : Nat} (hi : i < size) (hj : j < size) (h : partAddr base size a i = partAddr base size a j) :
    i = j := by
  have hmod : a % size + i ≡ a % size + j [MOD size] := Nat.add_left_cancel h
  exact (Nat.ModEq.add_left_cancel' _ hmod).eq_of_lt_of_lt hi hj

/-- The place of byte i of a core's access in core SRAM: the key under which readCore reads it and writeCore writes it. -/
def coreKey (core : Nat) (c : CoreShelf) (a i : Nat) : Nat :=
  coreSpace c.shifted core * 2 ^ 16 + partAddr c.csBase c.csSize (a % 2 ^ 16) i

theorem writeCore_csram_other {core a k : Nat} {c : CoreShelf} {data : Bytes} (s : State) (h : ∀ i, i < data.length → k ≠ coreKey core c a i) :
    tgetD (writeCore s core c a data).csram k 0#8 = tgetD s.csram k 0#8 :=
  tgetD_foldl_tsetD_other (key := coreKey core c a) _ _ (fun i hi => h i (List.mem_range.mp hi)) s.csram

theorem writeCore_csram_same {core a i : Nat} {c : CoreShelf} {data : Bytes} (s : State) (hlen : data.length ≤ c.csSize)
    (hi : i < data.length) : tgetD (writeCore s core c a data).csram (coreKey core c a i) 0#8 = data.getD i 0#8 := by
  have hkey : ∀ i ∈ List.range data.length, ∀ j ∈ List.range data.length, coreKey core c a i = coreKey core c a j → i = j := by
    intro i hi j hj h
    rw [List.mem_range] at hi hj
    exact partAddr_injective (by omega) (by omega) (Nat.add_left_cancel h)
  exact tgetD_foldl_tsetD_same (fun i => data.getD i 0#8) _ hkey (List.mem_range.mpr hi) s.csram

theorem readCore_writeCore (s : State) (core a : Nat) {c : CoreShelf} {data : Bytes} (hlen : data.length ≤ c.csSize) :
    readCore (writeCore s core c a data) core c a data.length = data := by
  refine List.ext_getElem (by simp [readCore]) fun i _ hi => ?_
  have hread := writeCore_csram_same (core := core) (a := a) s hlen hi
  rw [List.getD_eq_getElem _ _ hi] at hread
  simpa [readCore, coreKey] using hread

/-- Settles O58, from the places of the bytes written and what a run of writes to different places leaves. -/
theorem coreMemoryReadsBack : Obligations.CoreMemoryReadsBack := by
  unfold Obligations.CoreMemoryReadsBack
  intro s core a c data hsize hlen
  exact ⟨partAddr_mem_partition hsize _, readCore_writeCore s core a hlen, fun k hk => writeCore_csram_other s hk, rfl,
    writeCore_wf s core c a data⟩

end Sys2Proof.Proofs
end

section
/-! The cycles of a core's router and engine and of a crossing (R98-R104, R146-R150, R156), and with them O23. -/

namespace Sys2Proof.Proofs

open Sys2Proof Machine Claims

theorem exec_operationFire_up {s : State} {core : Nat} (hup : coreUp s core = true) :
    exec (.operationFire core) s = goOnKeep s (engineCycle s core false) :=
  congrArg (goOnKeep s) (if_pos hup)

theorem exec_routerPass_up {s : State} {core : Nat} (hup : coreUp s core = true) :
    exec (.routerPass core) s = goOnKeep s (routeCore (settleCluster s (cycleOf s)) core (cycleOf s)) :=
  congrArg (goOnKeep s) (if_pos hup)

theorem exec_crossingTransfer_up {s : State} {core dir lat g : Nat} (hend : linkEnd core dir = .cross g) (hup : coreUp s core = true)
    (hfar : coreUp s g = true) :
    exec (.crossingTransfer core dir lat) s = goOnKeep s
      ((List.range 4).foldl (fun s k => crossShelf s core dir k (lat + xingDelay s (dieOf core) (dieOf g)) (cycleOf s)) s) := by
  refine congrArg (goOnKeep s) ?_
  rw [hend]
  exact if_pos (by rw [hup, hfar]; rfl)

/-- A core that has fired in the cycle only routes (R101). -/
theorem engineCycle_fired {s t : State} {core : Nat} {fails : Bool} (ht : t = routeCore (settleCluster s (cycleOf s)) core (cycleOf s))
    (hfired : tgetD t.coreFired core 0 = cycleOf s + 1) : engineCycle s core fails = t := by
  simp only [engineCycle, ← ht, hfired, if_true]

/-- A core without a ready operation only routes. -/
theorem engineCycle_idle {s t : State} {core : Nat} {fails : Bool} (ht : t = routeCore (settleCluster s (cycleOf s)) core (cycleOf s))
    (hnot : tgetD t.coreFired core 0 ≠ cycleOf s + 1) (hpick : pickOp t core (cycleOf s) = none) : engineCycle s core fails = t := by
  simp only [engineCycle, ← ht, hnot, if_false, hpick]

/-- A core that has not fired in the cycle fires the operation picked after its router's cycle (R101, R150). -/
theorem engineCycle_fires {s t : State} {core shelf e : Nat} {f : OpF} {m : Mode} {fails : Bool}
    (ht : t = routeCore (settleCluster s (cycleOf s)) core (cycleOf s)) (hnot : tgetD t.coreFired core 0 ≠ cycleOf s + 1)
    (hpick : pickOp t core (cycleOf s) = some (shelf, e, f, m)) :
    engineCycle s core fails =
      updateJoins (applyFiring t core shelf e (cycleOf s) f (fireOp t core shelf e (cycleOf s) f m) fails) core (cycleOf s) := by
  simp only [engineCycle, ← ht, hnot, if_false, hpick]

/-- Settles O23, clause by clause from what each cycle answers. -/
theorem arrayCyclesComplete : Obligations.ArrayCyclesComplete := by
  unfold Obligations.ArrayCyclesComplete
  refine ⟨?fire, ?route, ?cross⟩
  case fire =>
    intro s t core shelf e f m hup ht hnot hpick
    rw [exec_operationFire_up hup, engineCycle_fires ht hnot hpick]
  case route => exact fun s core hup => exec_routerPass_up hup
  case cross => exact fun s core dir lat g hend hup hfar => exec_crossingTransfer_up hend hup hfar

end Sys2Proof.Proofs
end

section
/-! What routing leaves as it is: the state outside the array, and of every unit all but the tokens kept for its exit links (R104, R110,
R146-R150, R163). -/

namespace Sys2Proof.Proofs

open Sys2Proof Machine Claims

-- ------------------------------------------------------------------ a change of listed values that g does not see

theorem mem_of_tget {α : Type} {t : Table α} {k : Nat} {v : α} (h : tget t k = some v) : (k, v) ∈ t := by
  induction t with
  | nil => cases h
  | cons x t ih =>
    simp only [tget] at h
    split at h
    next hk =>
      obtain rfl := Option.some.inj h
      exact hk ▸ List.mem_cons_self
    next => exact List.mem_cons_of_mem _ (ih h)

/-- Only in a table whose keys rise does a write find the place that a read finds. -/
theorem map_tset_of_same {α β : Type} {t : Table α} {k : Nat} {v w : α} (g : α → β) (hwf : twf t = true) (hget : tget t k = some v)
    (hsame : g w = g v) : (tset t k w).map (fun x => (x.1, g x.2)) = t.map fun x => (x.1, g x.2) := by
  induction t with
  | nil => cases hget
  | cons x t ih =>
    obtain ⟨k', v'⟩ := x
    obtain ⟨hbelow, hrest⟩ := (twf_cons k' v' t).mp hwf
    simp only [tget] at hget
    split at hget
    next hk =>
      obtain rfl := Option.some.inj hget
      subst hk
      simp [tset, hsame]
    next hk =>
      have hlt : k' < k := hbelow _ (mem_of_tget hget)
      simp [tset, hk, Nat.lt_asymm hlt, ih hrest hget]

theorem map_tmod_of_same {α β : Type} {t : Table α} (k : Nat) {f : α → α} (g : α → β) (hwf : twf t = true) (hsame : ∀ v, g (f v) = g v) :
    (tmod t k f).map (fun x => (x.1, g x.2)) = t.map fun x => (x.1, g x.2) := by
  simp only [tmod]
  split
  next => rfl
  next v hget => exact map_tset_of_same g hwf hget (hsame v)

-- ------------------------------------------------------------------ the frame

/-- t with what routing may change as it is in s: shelves of cores, queues, FIFOs, exit slots, cluster SRAM, the joins' counts and the units. -/
def routingOf (s t : State) : State :=
  { t with cores := s.cores, inqs := s.inqs, xfifos := s.xfifos, exitSlots := s.exitSlots, clsram := s.clsram, clPend := s.clPend,
           joinSince := s.joinSince, joinDone := s.joinDone, units := s.units }

/-- A unit without the tokens kept for its exit links. -/
def exitless (m : MUnit) : MUnit := { m with exits := [] }

/-- From s to t only what routing may change has changed, and of the units only the tokens kept for their exit links. -/
structure Routes (s t : State) : Prop where
  frame : routingOf s t = s
  units_wf : twf s.units = true → twf t.units = true
  units_exits : twf s.units = true → t.units.map (fun u => (u.1, exitless u.2)) = s.units.map fun u => (u.1, exitless u.2)

namespace Routes

theorem refl (s : State) : Routes s s := ⟨rfl, id, fun _ => rfl⟩

/-- A change of the array alone. -/
theorem of_units {s t : State} (hframe : routingOf s t = s) (hunits : t.units = s.units) : Routes s t :=
  ⟨hframe, fun h => hunits ▸ h, fun _ => by rw [hunits]⟩

theorem trans {s t u : State} (h : Routes s t) (g : Routes t u) : Routes s u where
  frame := (congrArg (routingOf s) g.frame).trans h.frame
  units_wf := fun hwf => g.units_wf (h.units_wf hwf)
  units_exits := fun hwf => (g.units_exits (h.units_wf hwf)).trans (h.units_exits hwf)

theorem foldl {α : Type} {f : State → α → State} (hf : ∀ s x, Routes s (f s x)) (l : List α) (s : State) : Routes s (l.foldl f s) :=
  List.foldlRecOn l f (refl s) fun t ht x _ => ht.trans (hf t x)

theorem csram {s t : State} (h : Routes s t) : t.csram = s.csram := (congrArg State.csram h.frame :)

end Routes

theorem routes_modQ (s : State) (core dir shelf : Nat) (f : InQ → InQ) : Routes s (modQ s core dir shelf f) := .of_units rfl rfl

theorem routes_modCs (s : State) (core shelf : Nat) (f : CoreShelf → CoreShelf) : Routes s (modCs s core shelf f) := .of_units rfl rfl

theorem routes_settleCluster (s : State) (t : Nat) : Routes s (settleCluster s t) := .of_units rfl rfl

theorem routes_updateJoins (s : State) (core t : Nat) : Routes s (updateJoins s core t) := by
  refine .foldl (fun s shelf => ?_) _ s
  split
  next => exact .refl s
  next =>
    split
    next =>
      refine .foldl (fun s e => ?_) _ s
      dsimp only
      split_ifs
      · exact .refl s
      all_goals exact .of_units rfl rfl
    next => exact .refl s

/-- A queue is settled where it is listed. -/
theorem routes_settleQs (s : State) (core t : Nat) : Routes s ((List.range 16).foldl (fun s i =>
    if (tget s.inqs (core * 16 + i)).isSome then { s with inqs := tmod s.inqs (core * 16 + i) (settleQ t) } else s) s) := by
  refine .foldl (fun s i => ?_) _ s
  split
  · exact .of_units rfl rfl
  · exact .refl s

theorem routes_settleShelves (s : State) (core t : Nat) : Routes s ((List.range 4).foldl (fun s k =>
    { s with cores := tmod s.cores (csKey core k) (settleCs t) }) s) := by
  refine .foldl (fun s k => ?_) _ s
  exact .of_units rfl rfl

theorem routes_settleCore (s : State) (core t : Nat) : Routes s (settleCore s core t) := by
  unfold settleCore
  refine Routes.trans (Routes.foldl (fun s c => ?_) _ s) ((routes_settleQs _ core t).trans (routes_settleShelves _ core t))
  exact (routes_settleQs s core c).trans (routes_updateJoins _ core c)

/-- A change of one unit's exit tokens. -/
theorem routes_modUnit (s : State) (u : Nat) {f : MUnit → MUnit} (hf : ∀ m, exitless (f m) = exitless m) :
    Routes s (modUnit s u f) where
  frame := rfl
  units_wf := twf_tmod _ _ _
  units_exits := fun hwf => map_tmod_of_same u exitless hwf hf

theorem routes_exitToken (s : State) (core dir : Nat) (k : Token) (c : Nat) : Routes s (exitToken s core dir k c) := by
  simp only [exitToken]
  split
  next => exact .of_units rfl rfl
  next =>
    refine Routes.trans ?slots (routes_modUnit _ _ fun m => ?tokens)
    case slots => exact .of_units rfl rfl
    case tokens => split <;> rfl

theorem routes_placeToken (s : State) (core dir : Nat) (k : Token) (c : Nat) : Routes s (placeToken s core dir k c) := by
  simp only [placeToken]
  split
  · exact routes_modQ ..
  · exact .of_units rfl rfl
  · exact routes_exitToken ..

theorem routes_routeRound (s : State) (core t : Nat) : Routes s (routeRound s core t) := by
  refine .foldl (fun s i => ?_) _ s
  dsimp only
  split
  next => exact .refl s
  next =>
    split_ifs
    · exact .refl s
    · exact routes_modQ ..
    · exact .refl s
    · exact (routes_modQ ..).trans (routes_placeToken ..)
    · exact .refl s
    · exact .refl s

theorem routes_routeCore (s : State) (core t : Nat) : Routes s (routeCore s core t) :=
  ((routes_settleCore s core t).trans (.foldl (fun s _ => routes_routeRound s core t) _ _)).trans (routes_updateJoins ..)

theorem routes_consumeSources (s : State) (core shelf t : Nat) (f : OpF) (p : Nat → Bool) : Routes s (consumeSources s core shelf t f p) := by
  refine .foldl (fun s d => ?_) _ s
  split
  · exact .refl s
  · exact routes_modQ ..

theorem routes_emitOn (s : State) (core shelf dir : Nat) (f : OpF) (toks : List (TokKind × DWord)) (c : Nat) :
    Routes s (emitOn s core shelf dir f toks c) :=
  .foldl (fun s _ => routes_placeToken s ..) _ s

theorem routes_writeCluster (s : State) (core : Nat) (c : CoreShelf) (a : Nat) (data : Bytes) (t : Nat) :
    Routes s (writeCluster s core c a data t) := by
  refine .foldl (fun s i => ?_) _ s
  exact .of_units rfl rfl

end Sys2Proof.Proofs
end

section
/-! What a firing and a crossing leave as they are (R104, R110, R112, R156), and with it O60. -/

namespace Sys2Proof.Proofs

open Sys2Proof Machine Claims

-- ------------------------------------------------------------------ the frame of a firing

/-- From s to t only what routing may change, core SRAM and the cores' marks of having fired have changed. -/
def Fires (s t : State) : Prop := Routes s { t with coreFired := s.coreFired, csram := s.csram }

/-- Routing is blind to core SRAM and to the cores' marks. -/
theorem Routes.withCore {s t : State} (h : Routes s t) (fired : Table Nat) (mem : Table Byte) :
    Routes { s with coreFired := fired, csram := mem } { t with coreFired := fired, csram := mem } where
  frame := congrArg (fun x : State => { x with coreFired := fired, csram := mem }) h.frame
  units_wf := h.units_wf
  units_exits := h.units_exits

theorem Fires.routes {s t : State} (h : Fires s t) : Routes s { t with coreFired := s.coreFired, csram := s.csram } := h

theorem Routes.fires {s t : State} (h : Routes s t) : Fires s t := h.withCore s.coreFired s.csram

theorem Fires.trans {s t u : State} (h : Fires s t) (g : Fires t u) : Fires s u := h.routes.trans (g.routes.withCore s.coreFired s.csram)

theorem fires_coreFired (s : State) (fired : Table Nat) : Fires s { s with coreFired := fired } := Routes.refl s

theorem fires_writeCore (s : State) (core : Nat) (c : CoreShelf) (a : Nat) (data : Bytes) : Fires s (writeCore s core c a data) := Routes.refl s

/-- What a command's outcome keeps of s beside its effect t. -/
def keptBy (s t : State) : State := { t with pending := s.pending, now := s.now, resetAt := s.resetAt, split := s.split, lfsr := s.lfsr }

theorem keptBy_csram (s t : State) : (keptBy s t).csram = t.csram := rfl

theorem goOnKeep_eq_next {s t u : State} : goOnKeep s t = .next u ↔ keptBy s t = u := by
  simp [goOnKeep, keptBy]

theorem Routes.kept {s t : State} (h : Routes s t) : Routes s (keptBy s t) where
  frame := congrArg (keptBy s) h.frame
  units_wf := h.units_wf
  units_exits := h.units_exits

theorem Fires.kept {s t : State} (h : Fires s t) : Fires s (keptBy s t) := h.routes.kept

-- ------------------------------------------------------------------ a firing, in its parts

/-- The memory write of a firing (R110, R112). -/
def storeFiring (s : State) (core : Nat) (c : CoreShelf) (t : Nat) (store : Option (Nat × Nat × Bytes)) : State :=
  match store with
  | some (0, addr, data) => writeCore s core c addr data
  | some (_, addr, data) => writeCluster s core c addr data t
  | none => s

/-- The tokens of a firing leave, those of toks i on output i (R104). -/
def emitFiring (s : State) (core shelf t : Nat) (f : OpF) (toks : Nat → List (TokKind × DWord)) : State :=
  (List.range (opOuts f).length).foldl (fun s i => emitOn s core shelf ((opOuts f).getD i 0) f (toks i) (t + opLat f)) s

/-- A firing consumes its sources, changes its core's shelf and mark, writes memory and sends tokens on its outputs. -/
theorem applyFiring_parts (s : State) (core shelf entry t : Nat) (f : OpF) (x : Firing) :
    ∃ (g : CoreShelf → CoreShelf) (fired : Table Nat) (toks : Nat → List (TokKind × DWord)),
      applyFiring s core shelf entry t f x false = emitFiring
        (storeFiring { modCs (consumeSources s core shelf t f x.eat) core shelf g with coreFired := fired } core (getCs s core shelf) t x.store)
        core shelf t f toks :=
  ⟨_, _, _, rfl⟩

theorem routes_emitFiring (s : State) (core shelf t : Nat) (f : OpF) (toks : Nat → List (TokKind × DWord)) :
    Routes s (emitFiring s core shelf t f toks) :=
  .foldl (fun s _ => routes_emitOn s ..) _ s

theorem fires_storeFiring (s : State) (core : Nat) (c : CoreShelf) (t : Nat) (store : Option (Nat × Nat × Bytes)) :
    Fires s (storeFiring s core c t store) := by
  unfold storeFiring
  split
  · exact fires_writeCore ..
  · exact (routes_writeCluster ..).fires
  · exact (Routes.refl s).fires

/-- A firing's write changes no byte of core SRAM but those it names. -/
theorem storeFiring_csram_other {s : State} {core t k : Nat} {c : CoreShelf} {store : Option (Nat × Nat × Bytes)}
    (hk : ∀ a data, store = some (0, a, data) → ∀ i, i < data.length → k ≠ coreKey core c a i) :
    tgetD (storeFiring s core c t store).csram k 0#8 = tgetD s.csram k 0#8 := by
  unfold storeFiring
  split
  next a data => exact writeCore_csram_other s (hk a data rfl)
  next => rw [(routes_writeCluster ..).csram]
  next => rfl

theorem fires_applyFiring (s : State) (core shelf entry t : Nat) (f : OpF) (x : Firing) : Fires s (applyFiring s core shelf entry t f x false) := by
  obtain ⟨g, fired, toks, h⟩ := applyFiring_parts s core shelf entry t f x
  rw [h]
  have hshelf := ((routes_consumeSources s core shelf t f x.eat).trans (routes_modCs _ core shelf g)).fires
  exact ((hshelf.trans (fires_coreFired _ fired)).trans (fires_storeFiring ..)).trans (routes_emitFiring ..).fires

theorem applyFiring_csram_other {s : State} {core shelf entry t k : Nat} {f : OpF} {x : Firing}
    (hk : ∀ a data, x.store = some (0, a, data) → ∀ i, i < data.length → k ≠ coreKey core (getCs s core shelf) a i) :
    tgetD (applyFiring s core shelf entry t f x false).csram k 0#8 = tgetD s.csram k 0#8 := by
  obtain ⟨g, fired, toks, h⟩ := applyFiring_parts s core shelf entry t f x
  have hsources := (routes_consumeSources s core shelf t f x.eat).csram
  rw [h, (routes_emitFiring ..).csram, storeFiring_csram_other hk]
  exact congrArg (fun mem => tgetD mem k 0#8) hsources

-- ------------------------------------------------------------------ the engine's cycle

/-- The state after the router's cycle, in which an operation is picked (R150). -/
def routed (s : State) (core : Nat) : State := routeCore (settleCluster s (cycleOf s)) core (cycleOf s)

theorem routes_routed (s : State) (core : Nat) : Routes s (routed s core) := (routes_settleCluster ..).trans (routes_routeCore ..)

/-- An engine cycle routes, and no more than one operation fires: the one picked. -/
theorem engineCycle_cases (s : State) (core : Nat) :
    engineCycle s core false = routed s core
    ∨ ∃ shelf e f m, pickOp (routed s core) core (cycleOf s) = some (shelf, e, f, m)
      ∧ engineCycle s core false =
        updateJoins (applyFiring (routed s core) core shelf e (cycleOf s) f (fireOp (routed s core) core shelf e (cycleOf s) f m) false) core
          (cycleOf s) := by
  by_cases hfired : tgetD (routed s core).coreFired core 0 = cycleOf s + 1
  · exact .inl (engineCycle_fired rfl hfired)
  · cases hpick : pickOp (routed s core) core (cycleOf s) with
    | none => exact .inl (engineCycle_idle rfl hfired hpick)
    | some x => exact .inr ⟨_, _, _, _, rfl, engineCycle_fires rfl hfired hpick⟩

theorem fires_engineCycle (s : State) (core : Nat) : Fires s (engineCycle s core false) := by
  obtain h | ⟨shelf, e, f, m, -, h⟩ := engineCycle_cases s core
  · exact h ▸ (routes_routed s core).fires
  · exact h ▸ ((routes_routed s core).fires.trans (fires_applyFiring ..)).trans (routes_updateJoins ..).fires

/-- Byte k of core SRAM is none of those that the store of the operation picked names, if one is picked and it stores there. -/
def StoreSpares (s : State) (core k : Nat) : Prop :=
  ∀ shelf e f m a data, pickOp (routed s core) core (cycleOf s) = some (shelf, e, f, m) →
    (fireOp (routed s core) core shelf e (cycleOf s) f m).store = some (0, a, data) →
    ∀ i, i < data.length → k ≠ coreKey core (getCs (routed s core) core shelf) a i

theorem engineCycle_csram_other {s : State} {core k : Nat} (hk : StoreSpares s core k) :
    tgetD (engineCycle s core false).csram k 0#8 = tgetD s.csram k 0#8 := by
  obtain h | ⟨shelf, e, f, m, hpick, h⟩ := engineCycle_cases s core
  · rw [h, (routes_routed s core).csram]
  · rw [h, (routes_updateJoins ..).csram, applyFiring_csram_other fun a data => hk shelf e f m a data hpick, (routes_routed s core).csram]

theorem exec_operationFire_fires {s t : State} {core : Nat} (h : exec (.operationFire core) s = .next t) : Fires s t := by
  obtain rfl := goOnKeep_eq_next.mp h
  refine Fires.kept ?_
  split
  · exact fires_engineCycle s core
  · exact (Routes.refl s).fires

theorem exec_operationFire_csram_other {s t : State} {core k : Nat} (h : exec (.operationFire core) s = .next t)
    (hk : StoreSpares s core k) : tgetD t.csram k 0#8 = tgetD s.csram k 0#8 := by
  obtain rfl := goOnKeep_eq_next.mp h
  rw [keptBy_csram]
  split
  · exact engineCycle_csram_other hk
  · rfl

theorem exec_routerPass_routes {s t : State} {core : Nat} (h : exec (.routerPass core) s = .next t) : Routes s t := by
  obtain rfl := goOnKeep_eq_next.mp h
  refine Routes.kept ?_
  split
  · exact routes_routed s core
  · exact .refl s

-- ------------------------------------------------------------------ crossings

/-- t with the queues and crossing FIFOs of s. -/
def queuesOf (s t : State) : State := { t with inqs := s.inqs, xfifos := s.xfifos }

theorem queuesOf_crossShelf (s t : State) (core dir shelf lat c : Nat) : queuesOf s (crossShelf t core dir shelf lat c) = queuesOf s t := by
  unfold crossShelf
  extract_lets
  split <;> rfl

theorem queuesOf_crossShelves (s : State) (core dir : Nat) (lat c : State → Nat) (l : List Nat) :
    queuesOf s (l.foldl (fun s k => crossShelf s core dir k (lat s) (c s)) s) = s :=
  List.foldlRecOn l _ (motive := fun t => queuesOf s t = s) rfl fun _ ht _ _ => (queuesOf_crossShelf ..).trans ht

theorem queuesOf_keptBy {s t : State} (h : queuesOf s t = s) : queuesOf s (keptBy s t) = s := congrArg (keptBy s) h

theorem exec_crossingTransfer_frame {s t : State} {core dir lat : Nat} (h : exec (.crossingTransfer core dir lat) s = .next t) :
    queuesOf s t = s := by
  obtain rfl := goOnKeep_eq_next.mp h
  refine queuesOf_keptBy ?_
  split
  next g _ =>
    split
    · exact queuesOf_crossShelves s core dir (fun s => lat + xingDelay s (dieOf core) (dieOf g)) cycleOf _
    · rfl
  next => rfl

/-- Settles O60, from the frames of a firing, of routing and of a crossing. That a firing draws no free value is more than O60 asks. -/
theorem arrayCycleFrames : Obligations.ArrayCycleFrames := by
  unfold Obligations.ArrayCycleFrames
  refine ⟨fun s t core h => ⟨?array, ?units, fun k hk => ?memory⟩, fun s t core h => (exec_routerPass_routes h).frame,
    fun s t core dir lat h => exec_crossingTransfer_frame h⟩
  case array => exact congrArg (fun u : State => { u with fresh := s.fresh }) (exec_operationFire_fires h).routes.frame
  case units => exact (exec_operationFire_fires h).routes.units_exits
  case memory => exact exec_operationFire_csram_other h fun shelf e f m a data => hk (routed s core) shelf e f m a data rfl

end Sys2Proof.Proofs
end

section
/-! A link word that fails its parity check, a retry on a ring link and a starved join (R158, R171-R175), and with them O24. -/

namespace Sys2Proof.Proofs

open Sys2Proof Machine Claims

/-- A word that arrives and fails its check is discarded, counted, located where no failure stands yet, and reported as a fault of the link (R174,
R175). -/
theorem exec_linkParityFail_arriving {s t u : State} {core dir : Nat} {shelf : WordShelf} (hup : coreUp s core = true)
    (hword : 0 < arrivingIn s core dir shelf.queue) (ht : t = regAdd (dropArriving s core dir shelf.queue) arrParityCount 1)
    (hu : u = regOr (if regBit t arrParityLoc 31 then t else regPut t arrParityLoc (parityLoc core dir shelf.tag)) arrEvent 2) :
    exec (.linkParityFail core dir shelf) s =
      goOnKeep s (arrayFault u 3 [linkChan core dir] (unitsOnLink u core dir) shelf.tag 0) := by
  have hfails : (coreUp s core && decide (0 < arrivingIn s core dir shelf.queue)) = true := by rw [hup, decide_eq_true hword]; rfl
  rw [hu, ht]
  exact congrArg (goOnKeep s) (if_pos hfails)

/-- A retry between two dies that are up is counted in the link's field, and what is in flight on the link is late by at most 32 cycles (R158). -/
theorem exec_ucieRetry_up {s : State} {l delay : Nat} (hl : l < 4) (hfrom : s.dieUp.getLsbD (ringDies l).1 = true)
    (hto : s.dieUp.getLsbD (ringDies l).2 = true) :
    exec (.ucieRetry l delay) s = goOnKeep s
      { regPut s arrXingRetry (putBits (regRaw s arrXingRetry) (8 * l + 7) (8 * l) (min 255 (regBits s arrXingRetry (8 * l + 7) (8 * l) + 1)))
        with xfifos := s.xfifos.map fun x =>
          if onRing l x.1 then (x.1, { x.2 with late := x.2.late ++ [(cycleOf s, min 32 delay)] }) else x } :=
  congrArg (goOnKeep s) (if_pos ⟨hl, hfrom, hto⟩)

/-- The operation f of a core of unit u is a join whose condition of R171 holds, and the unit is in a state in which it is counted. -/
structure JoinCounted (s : State) (core shelf : Nat) (u : MUnit) (f : OpF) : Prop where
  up : coreUp s core = true
  live : u.st = .fired ∨ u.st = .cooling
  unscrubbed : u.scrub = none
  present : u.retired = false
  inUse : coreAside u core = false
  join : isJoin f = true
  held : joinHeld s core shelf f = true

/-- A join counted since cycle c whose count has reached ARR_JOIN_WDOG, and not reached this value before, is starved (R172, R173). -/
theorem exec_joinStarved_expired {s : State} {core shelf entry c ui : Nat} {u : MUnit} {f : OpF}
    (hsince : tget s.joinSince (joinKey core shelf entry) = some c) (hunit : unitAt s (clusterOf core) shelf = some (ui, u))
    (hf : f = opDecode (tgetD (getCs s core shelf).ops entry 0)) (hcount : JoinCounted s core shelf u f)
    (hreach : c + wdogNow s ≤ cycleOf s + 1) (hnew : tget s.joinDone (joinKey core shelf entry) ≠ some (wdogNow s)) :
    exec (.joinStarved core shelf entry) s = goOnKeep s
      (starve { s with joinDone := tset s.joinDone (joinKey core shelf entry) (wdogNow s) } ui u core shelf entry) := by
  obtain ⟨hup, hlive, hscrub, hpresent, hinUse, hjoin, hheld⟩ := hcount
  refine congrArg (goOnKeep s) ?_
  rw [hsince, hunit]
  refine if_pos ?_
  rw [← hf]
  simp [hup, hlive, hscrub, hpresent, hinUse, hjoin, hheld, hreach, hnew]

/-- Settles O24, clause by clause from what each event answers. -/
theorem arrayEventsComplete : Obligations.ArrayEventsComplete := by
  unfold Obligations.ArrayEventsComplete
  refine ⟨?parity, ?retry, ?starved⟩
  case parity => exact fun s t u core dir shelf tag hup hword ht hu => exec_linkParityFail_arriving hup hword ht hu
  case retry => exact fun s l delay hl hfrom hto => exec_ucieRetry_up hl hfrom hto
  case starved =>
    intro s core shelf entry c ui u f hsince hunit hf hup hlive hscrub hpresent hinUse hjoin hheld hreach hnew
    exact exec_joinStarved_expired hsince hunit hf ⟨hup, hlive, hscrub, hpresent, hinUse, hjoin, hheld⟩ hreach hnew

end Sys2Proof.Proofs
end

section
/-! A command with the turn that its rule completes or keeps pending, and what LOAD, FIRE, COOL and SWAP do once admitted (R180-R190, R205, R209,
R210), and with them O3. -/

namespace Sys2Proof.Proofs

open Sys2Proof Machine Claims

-- ------------------------------------------------------------------ a command of the ring with the turn

theorem taken_now {s : State} {r : CmdRing} (h : turn s r) : (taken s r).now = s.now := by
  obtain ⟨q, t, -, ht⟩ := takeCmd_of_turn h.1
  rw [taken_of_takeCmd ht]
  exact (congrArg State.now (takeCmd_frame ht) :)

/-- The state in which a command with the turn is judged, as the one that taking it gives; the command's number is the next free one. -/
theorem taken_parts {s : State} {r : CmdRing} (h : turn s r) :
    ∃ t, takeCmd s r = some (indexOf s r, t) ∧ taken s r = { t with nextId := t.nextId + 1 } ∧ t.nextId = s.nextId
      ∧ t.mgmt.recovery = false := by
  obtain ⟨q, t, -, ht⟩ := takeCmd_of_turn h.1
  exact ⟨t, (indexOf_of_takeCmd ht).symm ▸ ht, taken_of_takeCmd ht, (congrArg State.nextId (takeCmd_frame ht) :),
    (takeCmd_recovery ht).trans h.2⟩

/-- A command for which the rule gives a completion without a record completes (R453). -/
theorem runCmd_completes {s u : State} {r : CmdRing} {d : Cmd} {op st : Nat} {f : Nat → Nat → State → State × Answer}
    {res : List (Nat × Nat × Nat)} (h : turn s r) (hd : d.unlisted = none) (hf : f (cmdInst r) s.nextId (taken s r) = (u, .done st res [])) :
    goOnKeep s (runCmd op false r d f s) = completes s u r d op st res := by
  obtain ⟨t, ht, htaken, hid, hr⟩ := taken_parts h
  rw [← hid, htaken] at hf
  rw [completes, runCmd_done ht hd (by simp [hr]) rfl hf]
  rfl

/-- A command that the rule lets wait stays pending (R460). -/
theorem runCmd_waits {s u : State} {r : CmdRing} {d : Cmd} {op arg : Nat} {f : Nat → Nat → State → State × Answer}
    (h : turn s r) (hd : d.unlisted = none) (hf : f (cmdInst r) s.nextId (taken s r) = (u, .wait arg)) :
    goOnKeep s (runCmd op false r d f s) = waits s u r d op arg := by
  obtain ⟨t, ht, htaken, hid, hr⟩ := taken_parts h
  rw [← hid, htaken] at hf
  rw [waits, runCmd_wait ht hd (by simp [hr]) rfl hf, hid]

-- ------------------------------------------------------------------ the conditions that commands naming a unit share (R185)

/-- A command may name each of some units, and its own conditions hold. -/
theorem firstFail_unitChecks {s : State} {inst : Nat} {mgr bad conflict : Bool} {us : List MUnit} (hready : ready s rdyShf = true)
    (hus : ∀ u ∈ us, mayName s inst mgr u) (hbad : bad = false) (hconflict : conflict = false) :
    firstFail (unitChecks s inst mgr (us.map some) bad conflict) = none := by
  have howner : ∀ u ∈ us, u.owner = inst ∨ (mgr = true ∧ inst = 0) := fun u hu => (hus u hu).2.1
  have hpresent : ∀ u ∈ us, u.retired = false ∧ lossComing s u = false := fun u hu => (hus u hu).2.2
  refine firstFail_none.mpr ?_
  simp only [unitChecks, List.forall_mem_cons, List.not_mem_nil, false_implies, implies_true, and_true]
  refine ⟨?ready, ?owner, ?present, ?named, hconflict⟩
  case ready => rw [hready]; rfl
  case owner => simpa [or_iff_not_imp_left] using howner
  case present => simpa using hpresent
  case named => simp [hbad]

theorem firstFail_unitChecks_one {s : State} {inst : Nat} {mgr bad conflict : Bool} {u : MUnit} (hname : mayName s inst mgr u)
    (hbad : bad = false) (hconflict : conflict = false) : firstFail (unitChecks s inst mgr [some u] bad conflict) = none :=
  firstFail_unitChecks (us := [u]) hname.1 (List.forall_mem_singleton.mpr hname) hbad hconflict

theorem firstFail_unitChecks_two {s : State} {inst : Nat} {mgr bad conflict : Bool} {u v : MUnit} (hu : mayName s inst mgr u)
    (hv : mayName s inst mgr v) (hbad : bad = false) (hconflict : conflict = false) :
    firstFail (unitChecks s inst mgr [some u, some v] bad conflict) = none :=
  firstFail_unitChecks (us := [u, v]) hu.1 (List.forall_mem_cons.mpr ⟨hu, List.forall_mem_singleton.mpr hv⟩) hbad hconflict

-- ------------------------------------------------------------------ LOAD, FIRE, COOL

theorem cmdLoad_taken {s : State} {d : Cmd} {inst id ui : Nat} {v : Variant} (h : admitLoad s inst d = .take ui v) :
    cmdLoad d inst id s = ({ s with units := tset s.units ui (newUnit s inst id d v) }, .wait ui) := by
  rw [cmdLoad, h]

theorem cmdFire_bisque {s : State} {d : Cmd} {inst id : Nat} {u : MUnit} (hargs : argsOnly d [(0, 2)] = true)
    (hu : getUnit s (argUnit d 0) = some u) (hname : mayName s inst false u) (hst : u.st = .bisque) (hscrub : u.scrub = none) (harm : u.arm = none)
    (hfree : fireBlocked s (argUnit d 0) u none = false) : cmdFire d inst id s = (fireUnit s (argUnit d 0), .ok) := by
  simp only [cmdFire, hu]
  refine orElse_ok (firstFail_unitChecks_one hname ?args ?state)
  case args => rw [hargs]; rfl
  case state => simp [hst, hscrub, harm, hfree]

/-- COOL drains a FIRED unit and scrubs a BISQUE one, which it may not retain (R184, R187, R205). -/
theorem cmdCool_admitted {s : State} {d : Cmd} {inst id : Nat} {u : MUnit} (hargs : argsOnly d [(0, 3), (4, 4)] = true)
    (hu : getUnit s (argUnit d 0) = some u) (hname : mayName s inst true u) (hscrub : u.scrub = none) (harm : u.arm = none)
    (hretain : argN d 2 1 ≤ 1) (hbound : argN d 4 4 ≤ 100000) (hclean : argN d 2 1 = 1 → u.drainClean = true)
    (hst : u.st = .fired ∨ (u.st = .bisque ∧ argN d 2 1 = 0)) :
    cmdCool d inst id s =
      if u.st = .fired then
        (startDrain s (argUnit d 0) (drainBound s (argN d 4 4)) (argN d 2 1 = 1) (some id) false, .wait (argUnit d 0))
      else (startScrub s (argUnit d 0) (some id) stOK, .wait (argUnit d 0)) := by
  simp only [cmdCool, hu]
  refine (orElse_ok (firstFail_unitChecks_one hname ?args ?state)).trans ?effect
  case args =>
    have hkept : (argN d 2 1 = 1 && !u.drainClean) = false := by simpa using hclean
    simp [hargs, boundOk, hretain, hbound, hkept]
  case state =>
    obtain hst | ⟨hst, hscrubs⟩ := hst
    · simp [hscrub, harm, hst]
    · simp [hscrub, harm, hst, hscrubs]
  case effect => simp

-- ------------------------------------------------------------------ SWAP

/-- A SWAP of unit oi for unit ni, whose records are old and new, meets every condition of R11, R184, R209, R210 and R553. -/
structure SwapAllowed (s : State) (inst : Nat) (d : Cmd) (oi ni : Nat) (old new : MUnit) : Prop where
  args : argsOnly d [(0, 8)] = true
  distinct : oi ≠ ni
  nameOld : mayName s inst false old
  nameNew : mayName s inst false new
  bound : argN d 4 4 ≤ 100000
  oldFired : old.st = .fired
  oldArm : old.arm = none
  oldSwap : old.swap = none
  newBisque : new.st = .bisque
  newScrub : new.scrub = none
  newArm : new.arm = none
  unperturbed : ((old.clusters ++ new.clusters).any fun c => (perturbedDies s).contains (dieOfCluster c)) = false
  kind : old.kind = new.kind
  free : fireBlocked s ni new (some oi) = false
  disjoint : old.kind = 1 → old.clusters.any new.clusters.contains = false

/-- An allowed SWAP of message units takes effect at once, one of generation units waits for the old unit's round start (R210, R264). -/
theorem cmdSwap_allowed {s : State} {d : Cmd} {inst id oi ni : Nat} {old new : MUnit} (hoi : oi = argUnit d 0) (hni : ni = argUnit d 2)
    (hold : getUnit s oi = some old) (hnew : getUnit s ni = some new) (h : SwapAllowed s inst d oi ni old new) :
    cmdSwap d inst id s =
      if old.kind = 1 then
        (modUnit s oi fun u =>
          { u with swap := some { newUnit := ni, gap := 0, atRound := true, cmd := some id, bound := drainBound s (argN d 4 4) } }, .wait oi)
      else (swapMessage s oi ni (drainBound s (argN d 4 4)) id old new, .wait oi) := by
  subst hoi hni
  simp only [cmdSwap, hold, hnew]
  refine orElse_ok (firstFail_unitChecks_two h.nameOld h.nameNew ?args ?state)
  case args => simp [h.args, boundOk, h.bound]
  case state =>
    have hdisjoint : (old.kind = 1 && old.clusters.any new.clusters.contains) = false := by
      by_cases hgen : old.kind = 1
      · rw [h.disjoint hgen, Bool.and_false]
      · rw [decide_eq_false hgen, Bool.false_and]
    rw [hdisjoint, h.unperturbed]
    simp [h.distinct, h.oldFired, h.oldArm, h.oldSwap, h.newBisque, h.newScrub, h.newArm, h.kind, h.free]

theorem exec_swap_message {s : State} {r : CmdRing} {d : Cmd} {oi ni : Nat} {old new : MUnit} (h : turn s r) (hoi : oi = argUnit d 0)
    (hni : ni = argUnit d 2) (hold : getUnit (taken s r) oi = some old) (hnew : getUnit (taken s r) ni = some new)
    (hallowed : SwapAllowed (taken s r) (cmdInst r) d oi ni old new) (hkind : old.kind = 0) :
    exec (.swap r d) s = waits s (swapMessage (taken s r) oi ni (drainBound (taken s r) (argN d 4 4)) s.nextId old new) r d 0x04 oi :=
  runCmd_waits h (listed_of_argsOnly hallowed.args)
    ((cmdSwap_allowed hoi hni hold hnew hallowed).trans (if_neg (by rw [hkind]; decide)))

theorem exec_swap_generation {s : State} {r : CmdRing} {d : Cmd} {oi ni : Nat} {old new : MUnit} (h : turn s r) (hoi : oi = argUnit d 0)
    (hni : ni = argUnit d 2) (hold : getUnit (taken s r) oi = some old) (hnew : getUnit (taken s r) ni = some new)
    (hallowed : SwapAllowed (taken s r) (cmdInst r) d oi ni old new) (hkind : old.kind = 1) :
    exec (.swap r d) s = waits s
      (modUnit (taken s r) oi fun u =>
        { u with swap := some { newUnit := ni, gap := 0, atRound := true, cmd := some s.nextId,
                                bound := drainBound (taken s r) (argN d 4 4) } })
      r d 0x04 oi :=
  runCmd_waits h (listed_of_argsOnly hallowed.args) ((cmdSwap_allowed hoi hni hold hnew hallowed).trans (if_pos hkind))

/-- Settles O3, clause by clause from what the rule of each command gives once it is admitted. -/
theorem shelfCommandsComplete : Obligations.ShelfCommandsComplete := by
  unfold Obligations.ShelfCommandsComplete
  refine ⟨?load, ?fire, ?drain, ?scrub, ?message, ?generation⟩
  case load => exact fun s r d ui v h hd hadmit => runCmd_waits h hd (cmdLoad_taken hadmit)
  case fire =>
    intro s r d u h hargs hu hname hst hscrub harm hfree
    exact runCmd_completes h (listed_of_argsOnly hargs) (cmdFire_bisque hargs hu hname hst hscrub harm hfree)
  case drain =>
    intro s r d u h hargs hu hname hscrub harm hretain hbound hclean hst
    have hcool := (cmdCool_admitted (id := s.nextId) hargs hu hname hscrub harm hretain hbound hclean (.inl hst)).trans (if_pos hst)
    rw [startDrain, taken_now h] at hcool
    exact runCmd_waits h (listed_of_argsOnly hargs) hcool
  case scrub =>
    intro s r d u h hargs hu hname hscrub harm hretain hbound hst
    have hcool := (cmdCool_admitted (id := s.nextId) hargs hu hname hscrub harm (by omega) hbound (by omega) (.inr ⟨hst, hretain⟩)).trans
      (if_neg (by simp [hst]))
    rw [startScrub, taken_now h] at hcool
    exact runCmd_waits h (listed_of_argsOnly hargs) hcool
  case message =>
    intro s r d old new oi ni h hargs hoi hni hne hold hnew hnameOld hnameNew hbound hfired holdArm hswap hbisque hscrub hnewArm hdies holdKind
      hnewKind hfree
    exact exec_swap_message h hoi hni hold hnew ⟨hargs, hne, hnameOld, hnameNew, hbound, hfired, holdArm, hswap, hbisque, hscrub, hnewArm, hdies,
      holdKind.trans hnewKind.symm, hfree, fun hgen => absurd (holdKind.symm.trans hgen) (by decide)⟩ holdKind
  case generation =>
    intro s r d old new oi ni h hargs hoi hni hne hold hnew hnameOld hnameNew hbound hfired holdArm hswap hbisque hscrub hnewArm hdies holdKind
      hnewKind hfree hdisjoint
    exact exec_swap_generation h hoi hni hold hnew ⟨hargs, hne, hnameOld, hnameNew, hbound, hfired, holdArm, hswap, hbisque, hscrub, hnewArm, hdies,
      holdKind.trans hnewKind.symm, hfree, fun _ => hdisjoint⟩ holdKind

end Sys2Proof.Proofs
end

section
/-! Verification, the end of a drain and of a scrub, and the switch of patterns (R181, R182, R191, R199-R201, R206-R208, R210), and with them O5. -/

namespace Sys2Proof.Proofs

open Sys2Proof Machine Claims

/-- A GREEN unit whose load has not been given up is verified: BISQUE, or a scrub that ends the LOAD with verification's status (R181, R191). -/
theorem verifyDone_green {s : State} {ui : Nat} {b : Bytes} {u : MUnit} (hu : getUnit s ui = some u) (hst : u.st = .green)
    (hret : u.retired = false) (hscrub : u.scrub = none) :
    verifyDone s ui b =
      if verifyStatus s u.owner u.outcome u.tried u.left u.image b = stOK then
        finishCmd? (verified (writeShelves s u b) ui u b) u.loadCmd stOK (loadResult ui u)
      else startScrub (modUnit (writeShelves s u b) ui fun u => { u with loadCmd := none, image := [] }) ui u.loadCmd
        (verifyStatus s u.owner u.outcome u.tried u.left u.image b) := by
  rw [verifyDone, hu]
  exact if_pos ⟨hst, hret, hscrub⟩

/-- Unit ui, whose record is u, drains, and neither a retirement, a scrub nor a coming loss of a die overtakes the drain (R206, R207, R214). -/
structure Draining (s : State) (ui : Nat) (u : MUnit) (d : Drain) : Prop where
  unit : getUnit s ui = some u
  drain : u.drain = some d
  cooling : u.st = .cooling
  present : u.retired = false
  unscrubbed : u.scrub = none
  safe : lossComing s u = false

theorem exec_drainComplete_done {s : State} {ui : Nat} {u : MUnit} {d : Drain} (h : Draining s ui u d) (hdone : drainDone s ui u = true) :
    exec (.drainComplete ui) s = goOnKeep s (finishDrain s ui u d) := by
  refine congrArg (goOnKeep s) ?_
  simp only [h.unit, h.drain]
  exact if_pos (by simp [h.cooling, h.present, h.safe, h.unscrubbed, hdone])

/-- A drain that is not complete at its bound is squashed, a generation unit's between its rounds (R207, R265). -/
theorem exec_drainBoundExpire_expired {s : State} {ui : Nat} {u : MUnit} {d : Drain} (h : Draining s ui u d) (hbound : d.deadline ≤ s.now)
    (hdone : drainDone s ui u = false) (hround : u.kind = 0 ∨ roundsRun u = false ∨ roundDue s u = true) :
    exec (.drainBoundExpire ui) s = goOnKeep s (squashUnit s ui) := by
  have hbetween : (u.kind = 0 || !roundsRun u || roundDue s u) = true := by simpa [or_assoc] using hround
  refine congrArg (goOnKeep s) ?_
  simp only [h.unit, h.drain]
  exact if_pos (by simp only [h.cooling, h.present, h.safe, h.unscrubbed, hbound, hdone, hbetween]; rfl)

theorem exec_scrubComplete_scrubbing {s : State} {ui t st : Nat} {u : MUnit} {cmd : Option Nat} (hu : getUnit s ui = some u)
    (hscrub : u.scrub = some (t, cmd, st)) : exec (.scrubComplete ui) s = goOnKeep s (emptyUnit s ui u cmd st) := by
  refine congrArg (goOnKeep s) ?_
  simp only [hu, hscrub]

theorem exec_swapEntryPoint_known {s : State} {ui : Nat} {u : MUnit} (hu : getUnit s ui = some u) (hknown : entryKnown s ui u = true) :
    exec (.swapEntryPoint ui) s = goOnKeep s (swapEntry s ui) := by
  refine congrArg (goOnKeep s) ?_
  simp only [hu]
  exact if_pos hknown

theorem exec_shelfPatternSwitch_due {s : State} {c t : Nat} {p : Pattern} (hat : (getCluster s c).switchAt = some (t, p)) (hdue : t ≤ cycleOf s) :
    exec (.shelfPatternSwitch c) s = goOnKeep s (modCluster s c fun k => { k with pattern := p, switchAt := none }) := by
  refine congrArg (goOnKeep s) ?_
  simp only [hat]
  exact if_pos hdue

/-- Settles O5, clause by clause from what each step of a unit answers. -/
theorem unitStepsComplete : Obligations.UnitStepsComplete := by
  unfold Obligations.UnitStepsComplete
  refine ⟨?verify, ?drained, ?expired, ?scrubbed, ?entry, ?pattern⟩
  case verify => exact fun s ui b u hu hst hret hscrub => congrArg (goOnKeep s) (verifyDone_green hu hst hret hscrub)
  case drained =>
    exact fun s ui u d hu hd hst hret hscrub hloss hdone => exec_drainComplete_done ⟨hu, hd, hst, hret, hscrub, hloss⟩ hdone
  case expired =>
    intro s ui u d hu hd hst hret hscrub hloss hbound hdone hround
    exact exec_drainBoundExpire_expired ⟨hu, hd, hst, hret, hscrub, hloss⟩ hbound hdone hround
  case scrubbed => exact fun s ui u t cmd st hu hscrub => exec_scrubComplete_scrubbing hu hscrub
  case entry => exact fun s ui u hu hknown => exec_swapEntryPoint_known hu hknown
  case pattern => exact fun s c t p hat hdue => exec_shelfPatternSwitch_due hat hdue

end Sys2Proof.Proofs
end

section
/-! The attachment of queue pairs to a service (R241, R242), and with it O6. -/

namespace Sys2Proof.Proofs

open Sys2Proof Machine Claims

/-- A queue pair that a command of issuer inst names by its number is the issuer's own, the WGT function is READY, and SERVICE and the
reserved bytes are in range: what SEQ_ATTACH and SEQ_DETACH both ask for (R11, R242). -/
structure NamesServiceQp (s : State) (inst : Nat) (d : Cmd) (qi : Nat) (q : Qp) : Prop where
  args : argsOnly d [(0, 1), (4, 4)] = true
  wgtReady : ready s rdyWgt = true
  named : qpByNum s (argN d 4 4) = some (qi, q)
  owner : q.owner = inst
  service : argN d 0 1 ≤ 15

/-- SEQ_ATTACH of a queue pair that has no service, to one that has room for it: it is attached from now on. -/
theorem cmdSeqAttach_free {s : State} {d : Cmd} {inst id qi now : Nat} {q : Qp} (h : NamesServiceQp s inst d qi q) (hnow : s.now = now)
    (hfree : q.service = none) (hroom : (tgetD s.services (serviceKey inst (argN d 0 1)) {}).attached.length < 256) :
    cmdSeqAttach d inst id s =
      (modQp { s with services := tmodD s.services (serviceKey inst (argN d 0 1)) {} fun v => { v with attached := v.attached ++ [qi] } } qi
        fun q => { q with service := some (serviceKey inst (argN d 0 1)), serviceAt := now }, .ok) := by
  subst hnow
  simp only [cmdSeqAttach, h.named]
  exact orElse_ok (firstFail_none.mpr (by simp [h.wgtReady, h.owner, h.service, h.args, hfree, hroom]))

/-- SEQ_DETACH of an attached queue pair that holds no slot: it is detached at once, and no slot is closed. -/
theorem cmdSeqDetach_slotless {s : State} {d : Cmd} {inst id qi now : Nat} {q : Qp} (h : NamesServiceQp s inst d qi q) (hnow : s.now = now)
    (hattached : q.service = some (serviceKey inst (argN d 0 1))) (hslots : qpHoldsSlot s qi = false) :
    cmdSeqDetach d inst id s =
      (modQp { s with services := tmodD s.services (serviceKey inst (argN d 0 1)) {} fun v => { v with attached := v.attached.filter (· ≠ qi) } }
        qi fun q => { q with service := none, serviceEnd := now, seqIn := [] }, .done stOK [(0, 2, 0)] []) := by
  subst hnow
  simp only [cmdSeqDetach, h.named]
  refine (orElse_ok (firstFail_none.mpr (by simp [h.wgtReady, h.owner, h.service, h.args, hattached]))).trans ?_
  exact if_neg (Bool.eq_false_iff.mp hslots)

/-- Two functions that agree on a key's value change it alike. -/
theorem tmod_congr {α : Type} {t : Table α} {k : Nat} {v : α} {f g : α → α} (hv : tget t k = some v) (hfg : f v = g v) :
    tmod t k f = tmod t k g := by
  simp only [tmod, hv, hfg]

/-- The one detach of a queue pair that no slot holds up any more ends. -/
theorem exec_seqDetachDone_last {s : State} {qi id n : Nat} {q : Qp} (hq : tget s.qps qi = some q) (hdetach : q.detach = [(id, n)])
    (hscrubbed : slotAwaits s qi id = false) :
    exec (.seqDetachDone qi) s =
      goOnKeep s (finishCmd (modQp s qi fun q => { q with detach := [] }) id stOK [(0, 2, n)]) := by
  have hdone : detachedNow s qi q = [(id, n)] := by simp [detachedNow, hdetach, hscrubbed]
  have hqps : modQp s qi (fun q => { q with detach := q.detach.filter fun x => !([(id, n)].contains x) })
      = modQp s qi fun q => { q with detach := [] } :=
    congrArg (fun t => { s with qps := t }) (tmod_congr hq (by simp [hdetach]))
  refine congrArg (goOnKeep s) ?_
  simp only [hq, hdone, List.cons_ne_nil, if_false, List.foldl_cons, List.foldl_nil]
  rw [hqps]

/-- Settles O6: SEQ_ATTACH and SEQ_DETACH from what their rule gives once it is admitted, SEQ_DETACH_DONE from what it ends. -/
theorem attachCommandsComplete : Obligations.AttachCommandsComplete := by
  unfold Obligations.AttachCommandsComplete
  refine ⟨?attach, ?detach, ?done⟩
  case attach =>
    intro s r d qi q h hargs hready hq howner hservice hfree hroom
    exact runCmd_completes h (listed_of_argsOnly hargs)
      (cmdSeqAttach_free ⟨hargs, hready, hq, howner, hservice⟩ (taken_now h) hfree hroom)
  case detach =>
    intro s r d qi q h hargs hready hq howner hservice hattached hslots
    exact runCmd_completes h (listed_of_argsOnly hargs)
      (cmdSeqDetach_slotless ⟨hargs, hready, hq, howner, hservice⟩ (taken_now h) hattached hslots)
  case done => exact fun s qi id n q hq hdetach hscrubbed => exec_seqDetachDone_last hq hdetach hscrubbed

end Sys2Proof.Proofs
end

section
/-! Round starts, turns and RESULTs of a generation unit (R248, R250-R253, R260, R261, R264), and with them O25. -/

namespace Sys2Proof.Proofs

open Sys2Proof Machine Claims

/-- At a round start that is due, a SWAP that waits takes effect, slots that must close do so, and every slot's turn is fixed. -/
theorem exec_genRoundStart_due {s t : State} {ui : Nat} {u v : MUnit} {g : GenParams} (hu : getUnit s ui = some u) (hdue : roundDue s u = true)
    (hscrub : u.scrub = none) (ht : t = closeDue (swapAtRound s ui u) ui u) (hv : getUnit t ui = some v) (hg : v.gen = some g) :
    exec (.genRoundStart ui) s = goOnKeep s (fixTurns t ui v g) := by
  subst ht
  have hstarts : (roundDue s u && u.scrub.isNone) = true := by rw [hdue, hscrub]; rfl
  refine congrArg (goOnKeep s) ?_
  simp only [hu]
  refine (if_pos hstarts).trans ?_
  simp only [hv, hg]

/-- The turn n that the round fixed for slot k of unit ui, whose record is u, may start: its cycle has come, no other turn of the slot runs,
and the unit is neither scrubbed nor retired (R250). -/
structure TurnDue (s : State) (ui k : Nat) (u : MUnit) (g : GenParams) (n : GenTurn) : Prop where
  unit : getUnit s ui = some u
  gen : u.gen = some g
  fixed : (getSlot u k).next = some n
  come : n.start ≤ cycleOf s
  unscrubbed : u.scrub = none
  present : u.retired = false
  idle : (getSlot u k).turn = none

/-- The state after the start of turn t in slot k: p is the state with the turn's tokens placed and counted; the exit token is awaited. -/
def turnStarted (p : State) (ui k : Nat) (t : GenTurn) (running : Option GenTurn) : State :=
  modSlot (modUnit p ui fun u => { u with awaits := tmodD u.awaits 0 [] fun a => a ++ [if t.sampling then k else k + 64] }) ui k fun l =>
    { l with next := none, turn := running,
             req := l.req.map fun r => if t.feed then r else { r with toIngest := r.toIngest.drop t.tokens.length } }

/-- What GEN_TURN_START does with a turn that is due: an idle turn is neither counted nor kept as running. -/
theorem exec_genTurnStart_due {s : State} {ui k : Nat} {u : MUnit} {g : GenParams} {n t : GenTurn} (h : TurnDue s ui k u g n)
    (ht : t = startedTurn u g (getSlot u k) n) :
    exec (.genTurnStart ui k) s = goOnKeep s
      (let p := placeTurn s u k (getSlot u k) t
       if t.tokens.length = 0 then turnStarted p ui k t none
       else turnStarted (countService (countService p (serviceOf u) 1 1) (serviceOf u) 11 (t.base + t.tokens.length - g.onCtx)) ui k t (some t)) := by
  have hstarts : (n.start ≤ cycleOf s && u.scrub.isNone && !u.retired && (getSlot u k).turn.isNone) = true := by
    simp [h.come, h.unscrubbed, h.present, h.idle]
  subst ht
  refine congrArg (goOnKeep s) ?_
  simp only [h.unit, h.gen, h.fixed]
  refine (if_pos hstarts).trans ?_
  by_cases hidle : (startedTurn u g (getSlot u k) n).tokens.length = 0
  · simp only [hidle, if_true]
    rw [turnStarted, hidle]
  · simp only [hidle, if_false]
    rfl

theorem exec_genTurnStart_idle {s : State} {ui k : Nat} {u : MUnit} {g : GenParams} {n t : GenTurn} (h : TurnDue s ui k u g n)
    (ht : t = startedTurn u g (getSlot u k) n) (htokens : t.tokens = []) :
    exec (.genTurnStart ui k) s = goOnKeep s (turnStarted (placeTurn s u k (getSlot u k) t) ui k t none) :=
  (exec_genTurnStart_due h ht).trans (congrArg (goOnKeep s) (if_pos (List.length_eq_zero_iff.mpr htokens)))

theorem exec_genTurnStart_working {s : State} {ui k : Nat} {u : MUnit} {g : GenParams} {n t : GenTurn} (h : TurnDue s ui k u g n)
    (ht : t = startedTurn u g (getSlot u k) n) (htokens : t.tokens ≠ []) :
    exec (.genTurnStart ui k) s = goOnKeep s
      (turnStarted (countService (countService (placeTurn s u k (getSlot u k) t) (serviceOf u) 1 1) (serviceOf u) 11
        (t.base + t.tokens.length - g.onCtx)) ui k t (some t)) :=
  (exec_genTurnStart_due h ht).trans (congrArg (goOnKeep s) (if_neg fun hlen => htokens (List.length_eq_zero_iff.mp hlen)))

theorem exec_genTurnComplete_due {s : State} {ui k : Nat} {u : MUnit} {g : GenParams} {t : GenTurn} (hu : getUnit s ui = some u)
    (hg : u.gen = some g) (hturn : (getSlot u k).turn = some t) (hdone : t.done ≤ cycleOf s) (hpresent : u.retired = false)
    (hscrub : u.scrub = none) : exec (.genTurnComplete ui k) s = goOnKeep s (turnComplete s ui k u g t) := by
  have hcompletes : (t.done ≤ cycleOf s && !u.retired && u.scrub.isNone) = true := by simp [hdone, hpresent, hscrub]
  refine congrArg (goOnKeep s) ?_
  simp only [hu, hg, hturn]
  exact if_pos hcompletes

theorem exec_genResultSend_due {s : State} {ui : Nat} {r : Nat × GenResult} (hr : dueResult s ui = some r) :
    exec (.genResultSend ui) s = goOnKeep s (sendResult { s with results := s.results.erase r } r.2.qp r.2.data) := by
  refine congrArg (goOnKeep s) ?_
  simp only [hr]

/-- Settles O25, clause by clause from what each step answers when it is due. -/
theorem generationStepsComplete : Obligations.GenerationStepsComplete := by
  unfold Obligations.GenerationStepsComplete
  refine ⟨?round, ?idle, ?working, ?complete, ?result⟩
  case round => exact fun s t ui u v g hu hdue hscrub ht hv hg => exec_genRoundStart_due hu hdue hscrub ht hv hg
  case idle =>
    intro s ui k u g n t hu hg hnext hcome hscrub hpresent hturn ht htokens
    rw [exec_genTurnStart_idle ⟨hu, hg, hnext, hcome, hscrub, hpresent, hturn⟩ ht htokens, turnStarted, htokens, List.length_nil]
  case working =>
    exact fun s ui k u g n t hu hg hnext hcome hscrub hpresent hturn ht htokens =>
      exec_genTurnStart_working ⟨hu, hg, hnext, hcome, hscrub, hpresent, hturn⟩ ht htokens
  case complete => exact fun s ui k u g t hu hg hturn hdone hpresent hscrub => exec_genTurnComplete_due hu hg hturn hdone hpresent hscrub
  case result => exact fun s ui r hr => exec_genResultSend_due hr

end Sys2Proof.Proofs
end

section
/-! The sequence message that is taken first (R241, R247, R249, R251, R265), and with it O26. -/

namespace Sys2Proof.Proofs

open Sys2Proof Machine Claims

/-- x is the first message waiting on queue pair qp, attached to service k, that may be taken now; h is its header (R241, R251). -/
structure TakesMessage (s : State) (qp k : Nat) (q : Qp) (x : Nat × Bytes) (h : SeqHdr) : Prop where
  pair : getQp s qp = some q
  attached : q.service = some k
  first : q.seqIn.find? (seqReady s k) = some x
  header : h = parseSeq x.2

/-- The state without the message taken. -/
def withoutMessage (s : State) (qp : Nat) (x : Nat × Bytes) : State := modQp s qp fun q => { q with seqIn := q.seqIn.erase x }

/-- A message of the operation asked for is taken, and refused or carried out by the checks of R249 on the unit it goes to. -/
theorem seqTake_first {s : State} {qp k : Nat} {q : Qp} {x : Nat × Bytes} {h : SeqHdr} (hx : TakesMessage s qp k q x h) :
    seqTake s qp h.op =
      match firstFail (seqChecks qp q h x.2 (seqUnit s k h)), seqUnit s k h with
      | some st, u => seqRefuse (withoutMessage s qp x) qp k h u st
      | none, some (ui, v) => seqApply (withoutMessage s qp x) qp k ui v h x.2
      | none, none => withoutMessage s qp x := by
  obtain ⟨hq, hattached, hfirst, rfl⟩ := hx
  simp only [seqTake, hq, hattached, hfirst]
  exact if_neg fun hother => hother.1 rfl

/-- A message refused for no reason of R249 has its effect on the unit it goes to (R247). -/
theorem seqTake_accepted {s : State} {qp k ui : Nat} {q : Qp} {x : Nat × Bytes} {h : SeqHdr} {v : MUnit} (hx : TakesMessage s qp k q x h)
    (hunit : seqUnit s k h = some (ui, v)) (hchecks : firstFail (seqChecks qp q h x.2 (some (ui, v))) = none) :
    seqTake s qp h.op = seqApply (withoutMessage s qp x) qp k ui v h x.2 := by
  rw [seqTake_first hx, hunit, hchecks]

/-- A message that fails a check is answered with the first one's status (R11, R249). -/
theorem seqTake_refused {s : State} {qp k st : Nat} {q : Qp} {x : Nat × Bytes} {h : SeqHdr} (hx : TakesMessage s qp k q x h)
    (hchecks : firstFail (seqChecks qp q h x.2 (seqUnit s k h)) = some st) :
    seqTake s qp h.op = seqRefuse (withoutMessage s qp x) qp k h (seqUnit s k h) st := by
  rw [seqTake_first hx, hchecks]

/-- Each of the four instructions takes the messages of its own operation, so what a message of operation n leads to, the instruction of
operation n answers. -/
theorem exec_seq_of_seqTake {s t : State} {qp n : Nat} (htake : seqTake s qp n = t) :
    (n = 1 → exec (.seqOpen qp) s = goOnKeep s t) ∧ (n = 2 → exec (.seqAppend qp) s = goOnKeep s t)
      ∧ (n = 3 → exec (.seqDraft qp) s = goOnKeep s t) ∧ (n = 4 → exec (.seqClose qp) s = goOnKeep s t) := by
  subst htake
  refine ⟨?_, ?_, ?_, ?_⟩ <;> (rintro rfl; rfl)

/-- Settles O26: the message taken is carried out or refused, whichever of the four operations it is. -/
theorem sequenceMessagesComplete : Obligations.SequenceMessagesComplete := by
  unfold Obligations.SequenceMessagesComplete
  rintro s t qp k q x h hq hattached hfirst hheader rfl
  have hx : TakesMessage s qp k q x h := ⟨hq, hattached, hfirst, hheader⟩
  exact ⟨fun ui v hunit hchecks => exec_seq_of_seqTake (seqTake_accepted hx hunit hchecks),
    fun st hchecks => exec_seq_of_seqTake (seqTake_refused hx hchecks)⟩

end Sys2Proof.Proofs
end

section
/-! The commands that name an armature slot: their conditions, what each does once admitted, and the record of ARM_QUERY (R294-R298, R301,
R466, R472), and with them O9 and O10. -/

namespace Sys2Proof.Proofs

open Sys2Proof Machine Claims

-- ------------------------------------------------------------------ a command that answers with a record (R453, R461)

theorem length_overlay (bs : Bytes) (off : Nat) (data : Bytes) : (overlay bs off data).length = bs.length := by
  simp only [overlay, List.length_append, List.length_take, List.length_drop]
  omega

theorem length_record (size : Nat) (fs : List (Nat × Nat × Nat)) : (record size fs).length = size := by
  have hfold : ∀ b : Bytes, (fs.foldl (fun b f => overlay b f.1 (toLe f.2.1 f.2.2)) b).length = b.length := by
    induction fs with
    | nil => exact fun b => rfl
    | cons f fs ih => exact fun b => (ih _).trans (length_overlay ..)
  exact (hfold _).trans List.length_replicate

/-- A command for which the rule gives a record writes it to its buffer and completes with OK. -/
theorem runCmd_answers {s u : State} {r : CmdRing} {d : Cmd} {op : Nat} {f : Nat → Nat → State → State × Answer} {buf : Bytes}
    (h : turn s r) (hd : d.unlisted = none) (hbuf : buf ≠ []) (hf : f (cmdInst r) s.nextId (taken s r) = (u, .done stOK [] buf)) :
    goOnKeep s (runCmd op false r d f s) = answers s u r d op buf := by
  obtain ⟨t, ht, htaken, hid, hr⟩ := taken_parts h
  rw [← hid, htaken] at hf
  rw [answers, runCmd_done ht hd (by simp [hr]) rfl hf, if_neg hbuf]

-- ------------------------------------------------------------------ the conditions that commands naming an armature slot share (R297)

theorem armChecks_pass {s : State} {inst : Nat} {mgr bad : Bool} {a : Armature} (hname : mayNameArm s inst mgr a) (hbad : bad = false) :
    ∀ x ∈ armChecks s inst mgr (some a) bad, x.1 = false := by
  obtain ⟨hready, howner⟩ := hname
  simp only [armChecks, List.forall_mem_cons, List.not_mem_nil, false_implies, implies_true, and_true]
  refine ⟨?ready, ?owner, ?named⟩
  case ready => rw [hready]; rfl
  case owner => simpa [or_iff_not_imp_left] using howner
  case named => rw [hbad]; rfl

/-- A command may name armature a, and the conditions of its own hold as well. -/
theorem firstFail_armChecks {s : State} {inst : Nat} {mgr bad : Bool} {a : Armature} {own : List (Bool × Nat)} (hname : mayNameArm s inst mgr a)
    (hbad : bad = false) (hown : ∀ x ∈ own, x.1 = false) : firstFail (armChecks s inst mgr (some a) bad ++ own) = none :=
  firstFail_none.mpr (List.forall_mem_append.mpr ⟨armChecks_pass hname hbad, hown⟩)

-- ------------------------------------------------------------------ ARM_CREATE and ARM_QUERY

/-- Unit u may be attached to an armature of owner inst as the unit of shard h (R269, R295, R296). -/
structure Attachable (inst : Nat) (h : Shard) (u : MUnit) : Prop where
  owner : u.owner = inst
  bisque : u.st = .bisque
  unscrubbed : u.scrub = none
  present : u.retired = false
  free : u.arm = none
  exitInTime : u.lastExit ≤ h.firing

/-- No shard's unit has a property that no attachable unit has. -/
theorem any_shardUnit_eq_false {s : State} {inst : Nat} {hs : List Shard} {p : Shard → MUnit → Bool}
    (hunits : ∀ h ∈ hs, ∃ u, getUnit s h.unit = some u ∧ Attachable inst h u) (hp : ∀ h u, Attachable inst h u → p h u = false) :
    (hs.any fun h => (getUnit s h.unit).any (p h)) = false := by
  refine List.any_eq_false.mpr fun h hh => ?_
  obtain ⟨u, hu, hattach⟩ := hunits h hh
  rw [hu, Option.any_some, hp h u hattach]
  exact Bool.false_ne_true

/-- The armature a that an ARM_CREATE of issuer inst describes, with its local shards hs, meets the plan's rules and finds slot n, the units
and the resources that it needs (R295, R296). -/
structure CreateAllowed (s : State) (inst : Nat) (d : Cmd) (n : Nat) (a : Armature) (hs : List Shard) : Prop where
  arm : a = armOf d inst
  shards : hs = localShards a.plan a.member
  arrReady : ready s rdyArr = true
  timReady : ready s rdyTim = true
  armReady : ready s rdyArm = true
  plan : planBad s d = false
  units : ∀ h ∈ hs, ∃ u, getUnit s h.unit = some u ∧ Attachable inst h u
  slot : lowestFree s.arms 4 = some n
  ports : (List.range 16).any (portOverfull s a) = false
  buffers : bundleBytes a + ((tvals s.arms).map bundleBytes).sum ≤ 4 * MiB
  slack : planSMin s a.plan = a.plan.sMin

/-- Slot n holds armature a, and its local shards' units are attached to it. -/
def armAttached (s : State) (n : Nat) (a : Armature) (hs : List Shard) : State :=
  hs.foldl (fun s h => modUnit s h.unit fun u => { u with arm := some n }) { s with arms := tset s.arms n a }

theorem cmdArmCreate_allowed {s : State} {d : Cmd} {inst id n : Nat} {a : Armature} {hs : List Shard} (h : CreateAllowed s inst d n a hs) :
    cmdArmCreate d inst id s = (armAttached s n a hs, .done stOK [(0, 1, n), (4, 4, a.plan.sMin)] []) := by
  obtain ⟨rfl, rfl, harr, htim, harm, hplan, hunits, hslot, hports, hbuffers, hslack⟩ := h
  rw [cmdArmCreate]
  refine (orElse_ok (firstFail_none.mpr ?checks)).trans ?effect
  case effect => rw [hslot]; rfl
  case checks =>
    simp only [List.forall_mem_cons, List.not_mem_nil, false_implies, implies_true, and_true, List.any_map, Function.comp_def]
    refine ⟨?ready, ?owner, hplan, ?state, ?resource, ?integrity⟩
    case ready => simp [harr, htim, harm]
    case owner => exact any_shardUnit_eq_false hunits fun h u hu => by simp [hu.owner]
    case state => exact any_shardUnit_eq_false hunits fun h u hu => by simp [hu.bisque, hu.unscrubbed, hu.present, hu.free]
    case resource => simpa [hslot, hbuffers] using hports
    case integrity =>
      rw [any_shardUnit_eq_false hunits fun h u hu => by simp [hu.exitInTime]]
      simp [hslack]

/-- A command that BAD_PARAM does not refuse carries its own opcode (R295). -/
theorem listed_of_planBad {s : State} {d : Cmd} (h : planBad s d = false) : d.unlisted = none := by
  have hargs : argsOnly d [] = true := by
    by_contra hbad
    simp [planBad, hbad] at h
  exact listed_of_argsOnly hargs

theorem armRecord_ne_nil (s : State) (n : Nat) (a : Armature) : armRecord s n a ≠ [] := by
  refine List.ne_nil_of_length_pos ?_
  simp only [armRecord, List.length_append, length_record]
  omega

theorem cmdArmQuery_named {s : State} {d : Cmd} {inst id : Nat} {a : Armature} (hargs : argsOnly d [(0, 1)] = true)
    (ha : getArm s (argN d 0 1) = some a) (hname : mayNameArm s inst true a) :
    cmdArmQuery d inst id s = (s, .done stOK [] (armRecord s (argN d 0 1) a)) := by
  simp only [cmdArmQuery, ha]
  exact orElse_ok (firstFail_none.mpr (armChecks_pass hname (by rw [hargs]; rfl)))

/-- Settles O9: ARM_CREATE and ARM_QUERY from what their rule gives once it is admitted. -/
theorem armCreateQueryComplete : Obligations.ArmCreateQueryComplete := by
  unfold Obligations.ArmCreateQueryComplete
  refine ⟨?create, ?query⟩
  case create =>
    intro s r d n a hs h ha hhs harr htim harm hplan hunits hslot hports hbuffers hslack
    have hattach : ∀ h ∈ hs, ∃ u, getUnit (taken s r) h.unit = some u ∧ Attachable (cmdInst r) h u := by
      intro h hh
      obtain ⟨u, hu, howner, hbisque, hscrub, hpresent, hfree, hexit⟩ := hunits h hh
      exact ⟨u, hu, howner, hbisque, hscrub, hpresent, hfree, hexit⟩
    exact runCmd_completes h (listed_of_planBad hplan)
      (cmdArmCreate_allowed ⟨ha, hhs, harr, htim, harm, hplan, hattach, hslot, hports, hbuffers, hslack⟩)
  case query =>
    intro s r d a h hargs ha hname
    exact runCmd_answers h (listed_of_argsOnly hargs) (armRecord_ne_nil _ _ _) (cmdArmQuery_named hargs ha hname)

-- ------------------------------------------------------------------ ARM_START, ARM_STOP and ARM_DESTROY

theorem cmdArmStart_idle {s : State} {d : Cmd} {inst id : Nat} {a : Armature} (hargs : argsOnly d [(0, 1), (8, 8)] = true)
    (ha : getArm s (argN d 0 1) = some a) (hname : mayNameArm s inst false a) (hlater : curPeriod s a.plan + 2 ≤ (argN d 8 8 : Int))
    (hidle : a.st = .idle) (htime : timeLocked s a.plan = true) :
    cmdArmStart d inst id s =
      (modArm s (argN d 0 1) fun a => { a with st := .armed, startK := argN d 8 8, startCmd := some id }, .wait (argN d 0 1)) := by
  simp only [cmdArmStart, ha]
  refine orElse_ok (firstFail_armChecks hname ?args ?state)
  case args => simp [hargs, not_lt.mpr hlater]
  case state => simp [hidle, htime]

/-- ARM_STOP has an effect on an armature that is not IDLE: at once on an ARMED one, whose pending ARM_START the model ends with FLUSHED, and
later on a RUNNING one, of whose several stops the first to come acts (R297; log entry 78). -/
theorem cmdArmStop_notIdle {s : State} {d : Cmd} {inst id : Nat} {a : Armature} (hargs : argsOnly d [(0, 1), (8, 8)] = true)
    (ha : getArm s (argN d 0 1) = some a) (hname : mayNameArm s inst true a) (hactive : a.st ≠ .idle) :
    cmdArmStop d inst id s =
      if a.st = .armed then
        (finishCmd? (modArm s (argN d 0 1) fun a => { a with st := .idle, startCmd := none }) a.startCmd stFlushed [], .ok)
      else (modArm s (argN d 0 1) fun a => { a with stopAt := a.stopAt ++ [(argN d 8 8, some id)] }, .wait (argN d 0 1)) := by
  simp only [cmdArmStop, ha]
  refine (orElse_ok (firstFail_armChecks hname ?args ?state)).trans ?effect
  case args => rw [hargs]; rfl
  case state => simp [hactive]
  case effect => simp

theorem cmdArmDestroy_idle {s : State} {d : Cmd} {inst id : Nat} {a : Armature} (hargs : argsOnly d [(0, 1)] = true)
    (ha : getArm s (argN d 0 1) = some a) (hname : mayNameArm s inst true a) (hidle : a.st = .idle) :
    cmdArmDestroy d inst id s = (removeArm s (argN d 0 1), .ok) := by
  simp only [cmdArmDestroy, ha]
  refine orElse_ok (firstFail_armChecks hname ?args ?state)
  case args => rw [hargs]; rfl
  case state => simp [hidle]

-- ------------------------------------------------------------------ ARM_PROMOTE and ARM_DEMOTE

/-- A member of a RUNNING armature that has the role asked for in a shard has the change of role pending there (R297, R301). -/
theorem armRole_running {s : State} {d : Cmd} {inst : Nat} {a : Armature} {h : Shard} {role : Shard → Nat} {f : ShardRun → ShardRun}
    (hargs : argsOnly d [(0, 1), (2, 2)] = true) (ha : getArm s (argN d 0 1) = some a) (hname : mayNameArm s inst false a)
    (hrunning : a.st = .running) (hshard : findShard a.plan (argN d 2 2) = some h) (hrole : role h = a.member) :
    armRole d inst s role f = (modArm s (argN d 0 1) fun a => { a with shards := tmodD a.shards (argN d 2 2) {} f }, .ok) := by
  simp only [armRole, ha]
  refine orElse_ok (firstFail_armChecks hname ?args ?state)
  case args => simp [hargs, hshard, hrole]
  case state => simp [hrunning]

/-- Settles O10, clause by clause from what the rule of each command gives once it is admitted. -/
theorem armStateCommandsComplete : Obligations.ArmStateCommandsComplete := by
  unfold Obligations.ArmStateCommandsComplete
  refine ⟨?start, ?stopRunning, ?stopArmed, ?destroy, ?promote, ?demote⟩
  case start =>
    intro s r d a h hargs ha hname hlater hidle htime
    exact runCmd_waits h (listed_of_argsOnly hargs) (cmdArmStart_idle hargs ha hname hlater hidle htime)
  case stopRunning =>
    intro s r d a h hargs ha hname hrunning
    exact runCmd_waits h (listed_of_argsOnly hargs)
      ((cmdArmStop_notIdle hargs ha hname (by simp [hrunning])).trans (if_neg (by simp [hrunning])))
  case stopArmed =>
    intro s r d a h hargs ha hname harmed
    exact runCmd_completes h (listed_of_argsOnly hargs) ((cmdArmStop_notIdle hargs ha hname (by simp [harmed])).trans (if_pos harmed))
  case destroy =>
    intro s r d a h hargs ha hname hidle
    exact runCmd_completes h (listed_of_argsOnly hargs) (cmdArmDestroy_idle hargs ha hname hidle)
  case promote =>
    intro s r d a h hturn hargs ha hname hrunning hshard hrole
    exact runCmd_completes hturn (listed_of_argsOnly hargs) (armRole_running (role := (·.standby)) hargs ha hname hrunning hshard hrole)
  case demote =>
    intro s r d a h hturn hargs ha hname hrunning hshard hrole
    exact runCmd_completes hturn (listed_of_argsOnly hargs) (armRole_running (role := (·.primary)) hargs ha hname hrunning hshard hrole)

end Sys2Proof.Proofs
end

section
/-! Period starts of an armature and the loss of its time (R298, R299, R301, R303, R304), and with them O27. -/

namespace Sys2Proof.Proofs

open Sys2Proof Machine Claims

/-- At T_K an ARMED armature begins, or returns to IDLE: where its time condition does not hold (R298), or where its units are blocked, which is
the model's choice (log entry 114). -/
theorem exec_armPeriodStart_armed {s : State} {slot : Nat} {a : Armature} (ha : getArm s slot = some a) (harmed : a.st = .armed)
    (hcome : periodAt a.plan a.startK ≤ netNs s) : exec (.armPeriodStart slot) s = goOnKeep s (armBegin s slot a) := by
  refine congrArg (goOnKeep s) ?_
  simp only [ha, harmed]
  exact if_pos hcome

/-- At the next period start a RUNNING armature stops where a stop or the loss of time names it, and goes on where none does (R299, R304). -/
theorem exec_armPeriodStart_running {s : State} {slot : Nat} {a : Armature} (ha : getArm s slot = some a) (hrunning : a.st = .running)
    (hcome : periodAt a.plan (a.period + 1) ≤ netNs s) :
    exec (.armPeriodStart slot) s =
      goOnKeep s (if stopsAt a (a.period + 1) then stopArm s slot a else nextPeriod s slot (a.period + 1) a) := by
  refine congrArg (goOnKeep s) ?_
  simp only [ha, hrunning]
  exact if_pos hcome

/-- The loss of the time condition of a RUNNING armature, not taken note of before, is noted and reported (R303, R304). -/
theorem exec_armTimeLost_new {s : State} {slot : Nat} {a : Armature} (ha : getArm s slot = some a) (hrunning : a.st = .running)
    (htime : timeOk s a = false) (hnew : a.timeLost = false) :
    exec (.armTimeLost slot) s = goOnKeep s
      (armReport (regOr (modArm s slot fun a => { a with timeLost := true }) armEvent 2) a evTimeLost stTimeLost [slot]
        [(0, 1, slot), (8, 8, a.period)]) := by
  refine congrArg (goOnKeep s) ?_
  simp only [ha]
  exact if_pos (by simp [hrunning, htime, hnew])

/-- Settles O27, clause by clause from what each step answers when it is due. -/
theorem armaturePeriodsComplete : Obligations.ArmaturePeriodsComplete := by
  unfold Obligations.ArmaturePeriodsComplete
  refine ⟨?begins, ?next, ?lost⟩
  case begins =>
    intro s slot a ha harmed hcome
    rw [exec_armPeriodStart_armed ha harmed hcome, armBegin]
    simp only [Bool.and_eq_true]
  case next => exact fun s slot a ha hrunning hcome => exec_armPeriodStart_running ha hrunning hcome
  case lost => exact fun s slot a ha hrunning htime hnew => exec_armTimeLost_new ha hrunning htime hnew

end Sys2Proof.Proofs
end

section
/-! Feeds, bundles, deadlines and collection of an armature (R278-R285, R288-R293, R300, R301), and with them O28. -/

namespace Sys2Proof.Proofs

open Sys2Proof Machine Claims

/-- Two functions that agree on an armature change it alike. -/
theorem modArm_congr {s : State} {n : Nat} {a : Armature} {f g : Armature → Armature} (ha : getArm s n = some a) (hfg : f a = g a) :
    modArm s n f = modArm s n g :=
  congrArg (fun arms => { s with arms := arms }) (tmod_congr ha hfg)

-- ------------------------------------------------------------------ feeds (R278, R279)

/-- The tokens that a feed slot read for period k gives: none where its head is wrong or its stream's consume beat has begun. -/
def feedTokens (s : State) (a : Armature) (t : Stream) (k : Nat) (data : Bytes) : List (TokKind × DWord) :=
  if le data 0 8 = k ∧ le data 8 2 = t.groups ∧ net600 s ≤ beatAt a.plan k t.consumeBeat * 600 then readGroups false data 16 t.groups else []

/-- A local feed whose slot of period k is due is read. -/
theorem exec_armFeedRead_due {s : State} {slot stream k : Nat} {data : Bytes} {a : Armature} {t : Stream} (ha : getArm s slot = some a)
    (ht : findStream a.plan stream = some t) (hkind : t.kind = 1) (hlocal : isLocalShard a.plan a.member t.dst = true)
    (hdue : feedPeriod s a t = some k) :
    exec (.armFeedRead slot stream data) s = goOnKeep s
      (modArm s slot fun a =>
        { a with streams := tmodD a.streams stream {} fun r => { r with feed := r.feed ++ [(k, feedTokens s a t k data)] } }) := by
  refine congrArg (goOnKeep s) ?_
  simp only [ha, ht, hdue]
  refine (if_pos (by simp [hkind, hlocal])).trans (modArm_congr ha ?_)
  simp only [feedTokens, Bool.and_eq_true, decide_eq_true_eq, and_assoc]

-- ------------------------------------------------------------------ bundles sent (R281, R285, R292, R301)

/-- The bundle ts of stream t, whose source is shard h, may leave by port p now: composed for the running period and not sent yet, by a member
that speaks for a shard that is not mute and whose unit runs, in its window, by a port that can carry it. -/
structure BundleDue (s : State) (slot stream p : Nat) (a : Armature) (t : Stream) (h : Shard) (ts : List (TokKind × DWord)) : Prop where
  arm : getArm s slot = some a
  named : findStream a.plan stream = some t
  port : windowPort a t = some p
  source : findShard a.plan t.src = some h
  running : a.st = .running
  composed : (streamRun a stream).out = some (a.period, ts)
  speaks : speaks a h = true
  notMute : (shardRun a h.num).muteUntil ≠ some a.period
  unsent : (streamRun a stream).sentPeriod ≠ some a.period
  unitRuns : (shardUnit s slot h).isSome = true
  window : inWindow s a t p = true
  free : bundlePort s p = true

/-- The stream's bundle of the running period counts as sent. -/
def bundleMarked (s : State) (slot stream : Nat) : State :=
  modArm s slot fun a => { a with streams := tmodD a.streams stream {} fun r => { r with sentPeriod := some a.period } }

theorem modStream_sentPeriod {s : State} {slot stream : Nat} {a : Armature} (ha : getArm s slot = some a) :
    (modStream s slot stream fun r => { r with sentPeriod := some a.period }) = bundleMarked s slot stream :=
  modArm_congr ha rfl

/-- The state in which a bundle has left: it counts as sent, its taint and the port's counter are counted, and the port carries its frame. -/
def bundleSent (s : State) (slot stream p : Nat) (a : Armature) (t : Stream) (h : Shard) (ts : List (TokKind × DWord)) : State :=
  let s' := bundleMarked s slot stream
  let d := bundleFrame s' a t p a.period ((shardRun a h.num).tainted = some a.period) (h.standby = a.member) ts
  let u := if (shardRun a h.num).tainted = some a.period then countTaint s' slot a.period else s'
  depart (countPort u p 6 1) p { kind := .bundle, data := d, inst := a.owner, queuedAt := u.now }

theorem exec_armBundleSend_due {s : State} {slot stream p : Nat} {a : Armature} {t : Stream} {h : Shard} {ts : List (TokKind × DWord)}
    (hb : BundleDue s slot stream p a t h ts) : exec (.armBundleSend slot stream) s = goOn s (bundleSent s slot stream p a t h ts) := by
  refine congrArg (goOn s) ?_
  simp only [hb.arm, hb.named, hb.port, hb.source, hb.composed, Option.bind_some]
  refine (if_pos (by simp [hb.running, hb.speaks, hb.notMute, hb.unsent, hb.unitRuns, hb.window, hb.free])).trans ?_
  simp only [modStream_sentPeriod hb.arm, bundleSent]

-- ------------------------------------------------------------------ bundles received (R283, R284, R288, R300)

/-- Bundle frame f belongs to armature a of slot n and its stream b, passes its checks with the tokens ts, and is of the current period or the
next. -/
structure BundleAccepted (t : State) (f : RxFrame) (n : Nat) (a : Armature) (b : Stream) (ts : List (TokKind × DWord)) : Prop where
  owner : bundleOwner t f.data = some (n, a, b)
  checked : bundleCheck a b f.data = some ts
  timely : (be f.data 28 8 : Int) = curPeriod t a.plan ∨ (be f.data 28 8 : Int) = curPeriod t a.plan + 1

theorem exec_armBundleReceive_accepted {s t : State} {port n : Nat} {f : RxFrame} {a : Armature} {b : Stream} {ts : List (TokKind × DWord)}
    (hf : waiting s port (fun d => d = .armature) = some f) (ht : t = takeWaiting s port fun d => d = .armature)
    (hacc : BundleAccepted t f n a b ts) :
    exec (.armBundleReceive port) s = goOnKeep s (acceptBundle (countPort t port 7 1) n a b f ts) := by
  subst ht
  refine congrArg (goOnKeep s) ?_
  simp only [hf, hacc.owner, hacc.checked]
  exact if_pos hacc.timely

/-- A bundle frame that no armature accepts is a stray (R283). -/
theorem exec_armBundleReceive_stray {s t : State} {port : Nat} {f : RxFrame} (hf : waiting s port (fun d => d = .armature) = some f)
    (ht : t = takeWaiting s port fun d => d = .armature) (hno : ∀ n a b ts, ¬ BundleAccepted t f n a b ts) :
    exec (.armBundleReceive port) s = goOnKeep s (regAdd t armStray 1) := by
  subst ht
  refine congrArg (goOnKeep s) ?_
  simp only [hf]
  cases howner : bundleOwner (takeWaiting s port fun d => d = .armature) f.data with
  | none => rfl
  | some x =>
    obtain ⟨n, a, b⟩ := x
    cases hcheck : bundleCheck a b f.data with
    | none => simp only [hcheck]
    | some ts =>
      simp only [hcheck]
      exact if_neg fun htimely => hno n a b ts ⟨howner, hcheck, htimely⟩

-- ------------------------------------------------------------------ deadlines (R279, R289, R293, R300, R301)

/-- The consume beat of stream t in the running period has begun, for a member with a shard that consumes it or that hears it, and has not been
acted on. -/
structure DeadlineDue (s : State) (slot stream : Nat) (a : Armature) (t : Stream) : Prop where
  arm : getArm s slot = some a
  named : findStream a.plan stream = some t
  running : a.st = .running
  consumed : t.kind ≠ 2
  concerns : isLocalShard a.plan a.member t.dst = true ∨ hears a t = true
  begun : beatAt a.plan a.period t.consumeBeat ≤ netNs s
  new : (streamRun a stream).done ≠ some a.period

/-- The state in which a stream's deadline in this period is past, with an untimely stream noted. -/
def deadlineNoted (s : State) (slot stream : Nat) (a : Armature) (t : Stream) : State :=
  let s1 := modStream s slot stream fun r => { r with done := some a.period }
  if (dueTokens a t).isSome then s1 else if t.kind = 0 then lateStream s1 slot a t else regOr (regAdd s1 armFeedLate 1) armEvent 8

/-- What a stream's destination takes at the deadline: its on-time tokens, which may taint the period, or VOID tokens, which do. -/
def deadlineTaken (s : State) (slot : Nat) (a : Armature) (t : Stream) : State :=
  match dueTokens a t with
  | some (ts, taint) => injectStream (if taint then taintShard s slot t.dst else s) slot a t ts
  | none => injectStream (taintShard s slot t.dst) slot a t (voidTokens t)

theorem exec_armDeadline_due {s : State} {slot stream : Nat} {a : Armature} {t : Stream} (hd : DeadlineDue s slot stream a t) :
    exec (.armDeadline slot stream) s = goOnKeep s
      (if isLocalShard a.plan a.member t.dst then deadlineTaken (deadlineNoted s slot stream a t) slot a t
       else deadlineNoted s slot stream a t) := by
  have hmine : (isLocalShard a.plan a.member t.dst && decide (t.kind ≠ 2)) = isLocalShard a.plan a.member t.dst := by
    rw [decide_eq_true hd.consumed, Bool.and_true]
  refine congrArg (goOnKeep s) ?_
  simp only [hd.arm, hd.named, hmine]
  refine (if_pos (by simp [hd.running, hd.concerns, hd.begun, hd.new])).trans ?_
  simp only [deadlineTaken, deadlineNoted]
  cases dueTokens a t with
  | none => rfl
  | some x => rfl

-- ------------------------------------------------------------------ collection (R280, R290, R292, R293)

theorem exec_armCollect_due {s : State} {slot shard : Nat} {a : Armature} {h : Shard} (ha : getArm s slot = some a)
    (hlocal : (localShards a.plan a.member).find? (·.num = shard) = some h) (hrunning : a.st = .running)
    (hbegun : beatAt a.plan a.period h.collectBeat ≤ netNs s) (hnew : (shardRun a shard).collected ≠ some a.period)
    (hholds : h.primary = a.member ∨ (shardUnit s slot h).isSome = true) :
    exec (.armCollect slot shard) s = goOnKeep s (collectShard s slot a h ((shardUnit s slot h).getD {})) := by
  refine congrArg (goOnKeep s) ?_
  simp only [ha, hlocal]
  exact if_pos (by simp [hrunning, hbegun, hnew, hholds])

/-- Settles O28, clause by clause from what each step answers when it is due. -/
theorem armatureStreamsComplete : Obligations.ArmatureStreamsComplete := by
  unfold Obligations.ArmatureStreamsComplete
  refine ⟨?feed, ?send, ?accept, ?stray, ?deadline, ?collect⟩
  case feed => exact fun s slot stream k data a t ha ht hkind hlocal hdue => exec_armFeedRead_due ha ht hkind hlocal hdue
  case send =>
    intro s slot stream p a t h ts ha ht hp hh hrunning hout hspeaks hmute hunsent hunit hwindow hport
    exact exec_armBundleSend_due ⟨ha, ht, hp, hh, hrunning, hout, hspeaks, hmute, hunsent, hunit, hwindow, hport⟩
  case accept =>
    exact fun s t port n f a b ts hf ht howner hcheck htimely => exec_armBundleReceive_accepted hf ht ⟨howner, hcheck, htimely⟩
  case stray =>
    intro s t port f hf ht hno
    refine exec_armBundleReceive_stray hf ht fun n a b ts hacc => ?_
    obtain ⟨hnotCurrent, hnotNext⟩ := hno n a b hacc.owner ts hacc.checked
    exact hacc.timely.elim hnotCurrent hnotNext
  case deadline =>
    intro s slot stream a t ha ht hrunning hkind hconcerns hbegun hnew
    exact exec_armDeadline_due ⟨ha, ht, hrunning, hkind, hconcerns, hbegun, hnew⟩
  case collect =>
    exact fun s slot shard a h ha hlocal hrunning hbegun hnew hholds => exec_armCollect_due ha hlocal hrunning hbegun hnew hholds

end Sys2Proof.Proofs
end

section
/-! The commands that name a queue pair: the conditions they share and what each does once admitted (R317-R322, R463, R471, R481), and with
them O7 and O8. -/

namespace Sys2Proof.Proofs

open Sys2Proof Machine Claims

/-- A command of issuer inst names by its number the queue pair q, of index qi, which is the issuer's own; the WGT function is READY (R11, R317). -/
structure NamesQp (s : State) (inst : Nat) (d : Cmd) (qi : Nat) (q : Qp) : Prop where
  wgtReady : ready s rdyWgt = true
  named : qpByNum s (argN d 0 4) = some (qi, q)
  owner : q.owner = inst

-- ------------------------------------------------------------------ QP_CREATE, QP_QUERY and QP_DESTROY

/-- The completion queue of number n is there, and the issuer inst owns it (R463). -/
def OwnsCq (s : State) (inst n : Nat) : Prop := ∃ c, getRing s (ringKey rkCq n) = some c ∧ c.owner = inst

/-- QP_CREATE with queues of the issuer's own, rings in range and an index free takes that index (R317, R463, R481). -/
theorem cmdQpCreate_free {s : State} {d : Cmd} {inst id n : Nat} (hargs : argsOnly d [(0, 4), (8, 12), (24, 12)] = true)
    (hready : ready s rdyWgt = true) (hsend : OwnsCq s inst (argN d 0 2)) (hrecv : OwnsCq s inst (argN d 2 2))
    (hsq : ringShapeOk (argN d 16 4) (argN d 8 8) = true) (hrq : ringShapeOk (argN d 32 4) (argN d 24 8) = true)
    (hfree : lowestFrom (fun k => !((tget s.qps k).any (·.live))) 262144 0 = some n) (hshare : qpsOf s inst < (getInst s inst).shares.qps) :
    cmdQpCreate d inst id s =
      ({ s with
         qps := tset s.qps n (freshQp s n inst (argN d 0 2) (argN d 2 2))
         rings := tset (tset s.rings (ringKey rkSq n)
             { kind := rkSq, owner := inst, number := n, base := argN d 8 8, entries := argN d 16 4 }) (ringKey rkRq n)
             { kind := rkRq, owner := inst, number := n, base := argN d 24 8, entries := argN d 32 4 } },
       .done stOK [(0, 4, qpNum n (freshQp s n inst (argN d 0 2) (argN d 2 2)))] []) := by
  obtain ⟨c1, hc1, howner1⟩ := hsend
  obtain ⟨c2, hc2, howner2⟩ := hrecv
  simp only [cmdQpCreate, hfree]
  exact orElse_ok (firstFail_none.mpr (by simp [hready, hc1, howner1, hc2, howner2, hargs, hsq, hrq, hshare]))

/-- A new queue pair is in RESET, whatever had its index before (R320). -/
@[simp] theorem freshQp_st (s : State) (k inst sendCq recvCq : Nat) : (freshQp s k inst sendCq recvCq).st = .reset := by
  unfold freshQp
  split <;> rfl

theorem cmdQpQuery_named {s : State} {d : Cmd} {inst id qi : Nat} {q : Qp} (hargs : argsOnly d [(0, 4)] = true) (h : NamesQp s inst d qi q) :
    cmdQpQuery d inst id s = (s, .done stOK [] (qpRecord qi q)) := by
  simp only [cmdQpQuery, h.named]
  exact orElse_ok (firstFail_none.mpr (by simp [h.wgtReady, h.owner, hargs]))

theorem cmdQpDestroy_named {s : State} {d : Cmd} {inst id qi : Nat} {q : Qp} (hargs : argsOnly d [(0, 4)] = true) (h : NamesQp s inst d qi q) :
    cmdQpDestroy d inst id s = (freeQp s qi, .ok) := by
  simp only [cmdQpDestroy, h.named]
  exact orElse_ok (firstFail_none.mpr (by simp [h.wgtReady, h.owner, hargs]))

theorem qpRecord_ne_nil (qi : Nat) (q : Qp) : qpRecord qi q ≠ [] := by
  refine List.ne_nil_of_length_pos ?_
  simp only [qpRecord, length_overlay, length_record]
  decide

/-- Settles O7, clause by clause from what the rule of each command gives once it is admitted. -/
theorem qpCreateQueryDestroyComplete : Obligations.QpCreateQueryDestroyComplete := by
  unfold Obligations.QpCreateQueryDestroyComplete
  refine ⟨?create, ?query, ?destroy⟩
  case create =>
    intro s r d n c1 c2 h hargs hready hc1 howner1 hc2 howner2 hsq hrq hfree hshare
    exact ⟨freshQp_st .., runCmd_completes h (listed_of_argsOnly hargs)
      (cmdQpCreate_free hargs hready ⟨c1, hc1, howner1⟩ ⟨c2, hc2, howner2⟩ hsq hrq hfree hshare)⟩
  case query =>
    intro s r d qi q h hargs hready hq howner
    exact runCmd_answers h (listed_of_argsOnly hargs) (qpRecord_ne_nil qi q) (cmdQpQuery_named hargs ⟨hready, hq, howner⟩)
  case destroy =>
    intro s r d qi q h hargs hready hq howner
    exact runCmd_completes h (listed_of_argsOnly hargs) (cmdQpDestroy_named hargs ⟨hready, hq, howner⟩)

-- ------------------------------------------------------------------ QP_MODIFY

/-- A QP_MODIFY names a queue pair, whose state allows the transition and whose attributes are in range, and the conditions of its own hold. -/
theorem firstFail_qpChecks {s : State} {inst qi : Nat} {d : Cmd} {bad conflict : Qp → Bool} {own : List (Bool × Nat)} {q : Qp}
    (hargs : argsOnly d [(0, 6)] = true) (h : NamesQp s inst d qi q) (htarget : argN d 4 1 ≤ 4) (hbad : bad q = false)
    (hconflict : conflict q = false) (hown : ∀ x ∈ own, x.1 = false) : firstFail (qpChecks s inst d bad conflict ++ own) = none := by
  refine firstFail_none.mpr (List.forall_mem_append.mpr ⟨?_, hown⟩)
  simp only [qpChecks, h.named, List.forall_mem_cons, List.not_mem_nil, false_implies, implies_true, and_true]
  refine ⟨?ready, ?owner, ?attributes, hconflict⟩
  case ready => rw [h.wgtReady]; rfl
  case owner => simp [h.owner]
  case attributes => simp [hargs, htarget, hbad]

/-- The same for a target without conditions of its own. -/
theorem orElse_qpChecks {s : State} {inst qi : Nat} {d : Cmd} {bad conflict : Qp → Bool} {q : Qp} {ok : State → State × Answer}
    (hargs : argsOnly d [(0, 6)] = true) (h : NamesQp s inst d qi q) (htarget : argN d 4 1 ≤ 4) (hbad : bad q = false)
    (hconflict : conflict q = false) : orElse s (qpChecks s inst d bad conflict) ok = ok s :=
  orElse_ok (List.append_nil (qpChecks s inst d bad conflict) ▸
    firstFail_qpChecks hargs h htarget hbad hconflict (List.forall_mem_nil _))

theorem cmdQpRtr_reset {s p : State} {d : Cmd} {inst id qi : Nat} {q : Qp} (hargs : argsOnly d [(0, 6)] = true) (h : NamesQp s inst d qi q)
    (htarget : argN d 4 1 = 1) (hattr : attrRtrOk s d = true) (hst : q.st = .reset)
    (hpeer : addPeer s (bufN d 0x19 1) (BitVec.ofNat 128 (attrIp d)) (bufN d 0x18 1) = some p) :
    cmdQpRtr d inst id s = (modQp p (argQp d) fun q => setRtr q (argQp d) d, .ok) := by
  simp only [cmdQpRtr, hpeer]
  exact orElse_ok (firstFail_qpChecks hargs h (by omega) (by simp [hattr]) (by simp [hst]) (by simp))

theorem cmdQpRts_rtr {s : State} {d : Cmd} {inst id qi : Nat} {q : Qp} (hargs : argsOnly d [(0, 6)] = true) (h : NamesQp s inst d qi q)
    (htarget : argN d 4 1 = 2) (hattr : attrRtsOk q d = true) (hst : q.st = .rtr) :
    cmdQpRts d inst id s = (modQp s (argQp d) fun q => setRts s q d, .ok) :=
  orElse_qpChecks hargs h (by omega) (by simp [hattr]) (by simp [hst])

/-- The state in which a queue pair in RTS takes new attributes: with the peer entry of its new path, where MASK names one (R319, R347). -/
def PathPeer (s : State) (d : Cmd) (q : Qp) (p : State) : Prop :=
  if bit (argN d 5 1) 0 then attrPortOk s d = true ∧ attrVlanOk d = true ∧ addPeer s (bufN d 0x19 1) q.peerIp q.ipv = some p else p = s

theorem cmdQpInRts_rts {s p : State} {d : Cmd} {inst id qi : Nat} {q : Qp} (hargs : argsOnly d [(0, 6)] = true) (h : NamesQp s inst d qi q)
    (htarget : argN d 4 1 = 4) (hmask : argN d 5 1 ≤ 7) (hpath : PathPeer s d q p) (hsport : bit (argN d 5 1) 1 = true → attrSportOk d = true)
    (hprofile : bit (argN d 5 1) 2 = true → bufN d 0x2E 1 ≤ 15) (hresv : attrResvOk d = true) (hst : q.st = .rts) :
    cmdQpInRts d inst id s = (freePeers (modQp p (argQp d) fun q => setInRts p q (argQp d) d), .ok) := by
  have hpeer : (if bit (argN d 5 1) 0 then addPeer s (bufN d 0x19 1) q.peerIp q.ipv else some s) = some p
      ∧ (bit (argN d 5 1) 0 && (!attrPortOk s d || !attrVlanOk d)) = false := by
    unfold PathPeer at hpath
    split at hpath
    next hset =>
      obtain ⟨hport, hvlan, hadd⟩ := hpath
      exact ⟨(if_pos hset).trans hadd, by simp [hport, hvlan]⟩
    next hclear => exact ⟨(if_neg hclear).trans (congrArg some hpath.symm), by simp [hclear]⟩
  obtain ⟨hpeer, hpathOk⟩ := hpeer
  simp only [cmdQpInRts, h.named, hpeer]
  refine orElse_ok (firstFail_qpChecks hargs h (by omega) ?attributes (by simp [hst]) (by simp))
  case attributes =>
    rw [hpathOk]
    simpa [hmask, hresv] using ⟨hsport, hprofile⟩

theorem cmdQpError_named {s : State} {d : Cmd} {inst id qi : Nat} {q : Qp} (hargs : argsOnly d [(0, 6)] = true) (h : NamesQp s inst d qi q)
    (htarget : argN d 4 1 = 3) :
    cmdQpError d inst id s =
      (modQp (qpError (settleArrived s (argQp d)) (argQp d) none none) (argQp d) fun q => { q with st := .error }, .ok) :=
  orElse_qpChecks hargs h (by omega) rfl rfl

theorem cmdQpReset_named {s : State} {d : Cmd} {inst id qi : Nat} {q : Qp} (hargs : argsOnly d [(0, 6)] = true) (h : NamesQp s inst d qi q)
    (htarget : argN d 4 1 = 0) :
    cmdQpReset d inst id s = (freePeers (modQp (markClosing (flushLive s (argQp d)) (argQp d)) (argQp d) resetQp), .ok) :=
  orElse_qpChecks hargs h (by omega) rfl rfl

/-- A QP_MODIFY whose TARGET is the row's, and for which the row's rule gives OK, completes. -/
theorem modifyCmd_completes {s u : State} {r : CmdRing} {d : Cmd} {target : Nat} {f : Nat → Nat → State → State × Answer} (h : turn s r)
    (hargs : argsOnly d [(0, 6)] = true) (htarget : argN d 4 1 = target) (hf : f (cmdInst r) s.nextId (taken s r) = (u, .ok)) :
    goOnKeep s (modifyCmd target r d f s) = completes s u r d 0x21 stOK [] :=
  (congrArg (goOnKeep s) (if_pos (.inl htarget))).trans (runCmd_completes h (listed_of_argsOnly hargs) hf)

/-- Settles O8, target by target from what its rule gives once it is admitted. -/
theorem qpModifyCompletes : Obligations.QpModifyCompletes := by
  unfold Obligations.QpModifyCompletes
  refine ⟨?rtr, ?rts, ?inRts, ?error, ?reset⟩
  case rtr =>
    intro s r d qi q p h hargs htarget hready hq howner hattr hst hpeer
    exact modifyCmd_completes h hargs htarget (cmdQpRtr_reset hargs ⟨hready, hq, howner⟩ htarget hattr hst hpeer)
  case rts =>
    intro s r d qi q h hargs htarget hready hq howner hattr hst
    exact modifyCmd_completes h hargs htarget (cmdQpRts_rtr hargs ⟨hready, hq, howner⟩ htarget hattr hst)
  case inRts =>
    intro s p r d qi q h hargs htarget hmask hpath hready hq howner hsport hprofile hresv hst
    exact modifyCmd_completes h hargs htarget
      (cmdQpInRts_rts hargs ⟨hready, hq, howner⟩ htarget hmask hpath hsport hprofile hresv hst)
  case error =>
    intro s r d qi q h hargs htarget hready hq howner
    exact modifyCmd_completes h hargs htarget (cmdQpError_named hargs ⟨hready, hq, howner⟩ htarget)
  case reset =>
    intro s r d qi q h hargs htarget hready hq howner
    exact modifyCmd_completes h hargs htarget (cmdQpReset_named hargs ⟨hready, hq, howner⟩ htarget)

end Sys2Proof.Proofs
end

section
/-! A producer index that stays within its ring, and the receive buffers that it posts (R5, R352, R431, R432, R435, R445), and with them O17. -/

namespace Sys2Proof.Proofs

open Sys2Proof Machine Claims

/-- On a page that serves, a doorbell acts on the ring that it names (R433, R478). -/
theorem onDoorbell_of_reaches {s : State} {kind page k : Nat} {b : Doorbell} {r : Ring} {f : Nat → Ring → State} (h : reaches s kind page b k r) :
    onDoorbell s kind page b f = f k r := by
  obtain ⟨hresetting, hdestroying, hring⟩ := h
  simp only [onDoorbell, hresetting, hdestroying, or_self, if_false, hring]

/-- An index that the ring holds replaces the producer index (R352, R435; that an index may take entries back is log entry 83). -/
theorem producerBell_held {s : State} {k : Nat} {r : Ring} {b : Doorbell} {ds : List Bytes} (h : (b.index - r.cons).toNat ≤ r.entries) :
    producerBell s k r b ds = modRing s k (rung r b ds) :=
  if_neg (not_lt.mpr h)

-- ------------------------------------------------------------------ raw receive buffers (R445, R447)

theorem postRawRx_wellFormed {s : State} {k : Nat} {r : Ring} {b : Doorbell} {ds : List Bytes} (h : (b.index - r.cons).toNat ≤ r.entries)
    (hnew : ∀ d ∈ newDescs ds ((b.index - r.cons).toNat - ringCount r), recvOk 17 d = true) :
    postRawRx s k r b ds = modRing s k (rung r b ds) := by
  rw [← producerBell_held h]
  exact if_pos (by rw [List.all_eq_true.mpr hnew, Bool.or_true])

/-- The one new buffer is malformed: it completes with BAD_PARAM instead of being posted (R5, R445). -/
theorem postRawRx_malformed {s : State} {k : Nat} {r : Ring} {b : Doorbell} {ds : List Bytes} {d : Bytes}
    (h : (b.index - r.cons).toNat ≤ r.entries) (hnew : newDescs ds ((b.index - r.cons).toNat - ringCount r) = [d])
    (hbad : recvOk 17 d = false) :
    postRawRx s k r b ds =
      rejectRawRx (modRing (modRing s k (rung r b ds)) k fun x => { x with posted := x.posted.filter (recvOk 17) }) k r d := by
  have hsome : (decide (r.entries < (b.index - r.cons).toNat) || [d].all (recvOk 17)) = false := by
    rw [decide_eq_false (not_lt.mpr h)]
    simp [hbad]
  have hmalformed : [d].filter (fun d => !recvOk 17 d) = [d] := by simp [hbad]
  simp only [postRawRx, hnew, hsome, hmalformed, producerBell_held h, Bool.false_eq_true, if_false, List.foldl_cons, List.foldl_nil]

-- ------------------------------------------------------------------ receive requests (R320, R445)

theorem exec_rqDoorbell_held {s : State} {page k n : Nat} {b : Doorbell} {r r' : Ring} {ds : List Bytes} (h : reaches s rkRq page b k r)
    (hr' : r' = { r with cons := rqCons s b.number.toNat r }) (hn : n = (b.index - r'.cons).toNat) (hheld : n ≤ r.entries) :
    exec (.rqDoorbell page b ds) s = goOnKeep s (serveHeld
      (takeRecvs
        (modQp (modRing (modRing s k fun _ => r') k fun r => { r with prod := b.index }) b.number.toNat
          fun q => { q with recvs := q.recvs.take n })
        b.number.toNat r.prod (newDescs ds (n - ringCount r'))) page) := by
  subst hr' hn
  exact congrArg (goOnKeep s) ((onDoorbell_of_reaches h).trans (if_neg (not_lt.mpr hheld)))

/-- Settles O17: each doorbell acts on the ring it names, and an index within the ring is not an overrun. -/
theorem producerDoorbellsComplete : Obligations.ProducerDoorbellsComplete := by
  unfold Obligations.ProducerDoorbellsComplete
  refine ⟨fun s page k b r ds hheld => ⟨?sq, ?rawTx, ?rawRx, ?malformed, ?command, ?admin⟩,
    fun s page k n b r r' ds h hr' hn hheld => exec_rqDoorbell_held h hr' hn hheld⟩
  case sq => exact fun h => congrArg (goOnKeep s) ((onDoorbell_of_reaches h).trans (producerBell_held hheld))
  case rawTx => exact fun h => congrArg (goOnKeep s) ((onDoorbell_of_reaches h).trans (producerBell_held hheld))
  case rawRx => exact fun h hnew => congrArg (goOnKeep s) ((onDoorbell_of_reaches h).trans (postRawRx_wellFormed hheld hnew))
  case malformed =>
    exact fun d h hnew hbad => congrArg (goOnKeep s) ((onDoorbell_of_reaches h).trans (postRawRx_malformed hheld hnew hbad))
  case command =>
    exact fun h => congrArg (goOnKeep s) ((onDoorbell_of_reaches h).trans (congrArg (modRing · k _) (producerBell_held hheld)))
  case admin =>
    exact fun h => congrArg (goOnKeep s) ((onDoorbell_of_reaches h).trans (congrArg (modRing · k _) (producerBell_held hheld)))

end Sys2Proof.Proofs
end

section
/-! Requests at the head of a send queue or of a raw transmit ring that pass their checks, and reads over PCIe that fail (R320, R323, R351, R386,
R428, R444, R446), and with them O22. -/

namespace Sys2Proof.Proofs

open Sys2Proof Machine Claims

-- ------------------------------------------------------------------ send work requests (R320, R323, R351, R444)

/-- The access to local memory that a request of an opcode makes: a READ writes it, the others read it (R444). -/
def sendAccess (op : Nat) : Nat := if op = 3 then acLocalWrite else 0

/-- The bytes that a request of an opcode takes from local memory: a READ takes none. -/
def sendPayload (op : Nat) (payload : Bytes) (w : SendWr) : Bytes := if op = 3 then [] else sliceZ payload 0 w.length

/-- A request in its turn that passes its checks, with its buffer in reach, leaves the ring and begins. -/
theorem startWr_mayStart {s : State} {i op : Nat} {q : Qp} {index : BitVec 32} {d payload : Bytes} {w : SendWr} (h : mayStart s i op q index d w)
    (haccess : (localAccess s q.owner w.lkey w.localAddr w.length (sendAccess op)).1 = stOK) :
    startWr s i op payload =
      countInst (modQp (takeHead (sendServed s i q) i) i fun q => beginSend q { w with payload := sendPayload op payload w }) q.owner 6 1 := by
  obtain ⟨hq, hhead, hw, hop, hst, hgood, hturn⟩ := h
  subst hw hop
  have hserved : (localAccess (sendServed s i q) q.owner (parseSend index d []).lkey (parseSend index d []).localAddr
      (parseSend index d []).length (sendAccess (parseSend index d []).opcode)).1 = stOK := haccess
  have hturned : ¬((byteAt d 0 ≠ (parseSend index d []).opcode ∧ 1 ≤ byteAt d 0 ∧ byteAt d 0 ≤ 3) ∨ sendTurn s i q = false) := by
    simp [hturn, parseSend]
  simp only [startWr, hq, hhead]
  rw [if_neg hturned]
  simp only [sendAccess] at hserved
  simp only [serveWr, hserved, hst, hgood]
  rfl

-- ------------------------------------------------------------------ raw transmit descriptors (R386, R446)

/-- The state in which the descriptor d at the head of raw transmit ring r is taken, with t behind it. -/
def rawTaken (s : State) (inst number : Nat) (d : Bytes) (t : List Bytes) : State :=
  modRing s (rawKey rkRawTx inst number) fun r =>
    { r with cons := r.cons + 1, posted := t, rawOut := r.rawOut ++ [rawOutOf r.cons (parseRaw d)] }

/-- A good descriptor that its owner's shaper permits, behind none that failed: its frame, charged, enters the class queue of an open port. -/
theorem rawTransmit_good {s : State} {inst number : Nat} {frame d f : Bytes} {t : List Bytes} {r : Ring} {x : RawDesc}
    (hr : getRing s (rawKey rkRawTx inst number) = some r) (hposted : r.posted = d :: t) (hactive : instActive s inst = true)
    (hx : x = parseRaw d) (hf : f = sliceZ frame 0 (min x.length 16384)) (hport : portExists s x.port = true → portReady s x.port = true)
    (hunfailed : r.failed = false) (hgood : rawBad s d x f = false) (haccess : (localAccess s inst x.lkey x.addr x.length 0).1 = stOK)
    (hshaper : bucketPermits s (instBucket inst false) = true)
    (hopen : txOpen (bucketCharge (rawTaken s inst number d t) (instBucket inst false) (wireBytes f.length)) x.port = true) :
    rawTransmit s inst number frame =
      queueTc (bucketCharge (rawTaken s inst number d t) (instBucket inst false) (wireBytes f.length)) x.port x.tc
        (rawFrame s inst number r.cons x f) := by
  subst hx hf
  have hready : (portExists s (parseRaw d).port && !portReady s (parseRaw d).port) = false := by
    simpa using hport
  simp only [rawTransmit, hr, hposted, hactive, hready, haccess, hgood, hunfailed, hshaper]
  exact if_pos hopen

-- ------------------------------------------------------------------ reads that fail (R428)

/-- Both events of a read that fails do what they do by their status: NOT_PERMITTED for Unsupported Request or Completer Abort, TIMEOUT for no
completion (R428). -/
theorem exec_readFailed {s : State} {f : ReadFor} {u : Nat → State} (h : ∀ st, readFailed s f st = u st) :
    exec (.pcieReadCompletion f) s = goOnKeep s (u stNotPermitted) ∧ exec (.pcieCompletionTimeout f) s = goOnKeep s (u stTimeout) :=
  ⟨congrArg (goOnKeep s) (h stNotPermitted), congrArg (goOnKeep s) (h stTimeout)⟩

/-- The oldest request that is not wholly sent takes its queue pair to ERROR (log entries 67, 112). -/
theorem readFailed_workRequest {s : State} {i : Nat} {q : Qp} {w : SendWr} (hq : getQp s i = some q)
    (hw : q.sends.find? (fun w => w.started && w.done.isNone && w.opcode ≠ 3 && w.sent < w.packets) = some w) (st : Nat) :
    readFailed s (.workRequest i) st = qpError s i (some (w.index, st)) none := by
  simp only [readFailed, failWr, hq, hw]

/-- A LOAD in verification ends, and its unit is scrubbed (R191). -/
theorem readFailed_load {s : State} {r : CmdRing} {tag : BitVec 32} {c : PendCmd} {ui : Nat} {u : MUnit}
    (hc : s.cmds.find? (fun c => c.ring = r && c.tag = tag) = some c) (hu : s.units.find? (fun u => u.2.loadCmd = some c.id) = some (ui, u))
    (op st : Nat) :
    readFailed s (.command r tag op) st = startScrub (modUnit s ui fun u => { u with loadCmd := none, image := [] }) ui (some c.id) st := by
  simp only [readFailed, failCmd, hc, hu]

/-- A command that is not pending fails as it is taken (R453). -/
theorem readFailed_command {s t : State} {r : CmdRing} {tag index : BitVec 32}
    (hnone : s.cmds.find? (fun c => c.ring = r && c.tag = tag) = none) (ht : takeCmd s r = some (index, t)) (op st : Nat) :
    readFailed s (.command r tag op) st = completeCmd t r tag index op st 0 [] := by
  simp only [readFailed, failCmd, hnone, ht]

theorem readFailed_rawTransmit {s : State} {inst number : Nat} {r : Ring} {d : Bytes} {t : List Bytes}
    (hr : getRing s (rawKey rkRawTx inst number) = some r) (hposted : r.posted = d :: t) (hactive : instActive s inst = true) (st : Nat) :
    readFailed s (.rawTransmit inst number) st = rawFinish (rawTaken s inst number d t) inst number r.cons st := by
  simp only [readFailed, failRaw, hr, hposted, hactive]
  rfl

/-- The data of a peer's READ fails as R321's access failures do (log entry 113). -/
theorem readFailed_readData {s : State} {i psn msn : Nat} {q : Qp} {x : Nat × Bytes × Bool} {rest : List (Nat × Nat × Nat × Bytes × Bool)}
    (hq : getQp s i = some q) (hresp : q.respQ = (psn, msn, x) :: rest) (st : Nat) :
    readFailed s (.readData i) st = rxError s i msn st 2 psn := by
  simp only [readFailed, failReadData, hq, Option.bind_some, hresp, List.head?_cons]

/-- Settles O22: work requests and raw descriptors from what the engine does with a good one, each failed read from what it was for. -/
theorem workRequestsStart : Obligations.WorkRequestsStart := by
  unfold Obligations.WorkRequestsStart
  refine ⟨fun s i q index d p w => ⟨?send, ?write, ?read⟩, ?raw, ?workRequest, ?load, ?command, ?rawTransmit, ?message, ?readData⟩
  case send => exact fun h haccess => congrArg (goOnKeep s) (startWr_mayStart h haccess)
  case write => exact fun h haccess => congrArg (goOnKeep s) (startWr_mayStart h haccess)
  case read => exact fun h haccess => congrArg (goOnKeep s) (startWr_mayStart h haccess)
  case raw =>
    intro s inst number frame d f t r x hr hposted hactive hx hf hport hunfailed hgood haccess hshaper u hu hopen
    subst hx hu
    exact congrArg (goOnKeep s) (rawTransmit_good hr hposted hactive rfl hf hport hunfailed hgood haccess hshaper hopen)
  case workRequest => exact fun s i q w hq hw => exec_readFailed (readFailed_workRequest hq hw)
  case load => exact fun s r tag c ui u hc hu op => exec_readFailed (readFailed_load hc hu op)
  case command => exact fun s t r tag index op hnone ht => exec_readFailed (readFailed_command hnone ht op)
  case rawTransmit =>
    intro s inst number r d t hr hposted hactive u hu
    subst hu
    exact exec_readFailed (readFailed_rawTransmit hr hposted hactive)
  case message => exact fun s id => exec_readFailed fun _ => rfl
  case readData => exact fun s i psn msn q x rest hq hresp => exec_readFailed (readFailed_readData hq hresp)

end Sys2Proof.Proofs
end

section
/-! Packets that a queue pair accepts, and probes (R313, R318, R321, R325-R334, R344-R348): what the one at the head of a port's queue brings
about, and with it O31 and O32. -/

namespace Sys2Proof.Proofs

open Sys2Proof Machine Claims

-- ------------------------------------------------------------------ a packet that its queue pair accepts

/-- An accepted packet counts, its peer is heard, and it acts on its queue pair (R318, R346, R347). -/
theorem withQp_accepted {u : State} {port inst i : Nat} {f : RxFrame} {q : Qp} {act : Nat → Qp → State → State}
    (hcrc : (parsePkt f.data).crcOk = true) (hpair : acceptingQp u port inst (parsePkt f.data) = some (i, q)) :
    withQp u port inst (parsePkt f.data) act = act i q (countInst (heardFrom u port q.ipv q.peerIp) q.owner 7 1) := by
  simp only [withQp, hcrc, hpair, Bool.not_true, Bool.false_eq_true, if_false]

theorem exec_ackReceive_accepted {s t : State} {port i : Nat} {f : RxFrame} {q : Qp} (h : acceptsPacket s port [0x10] f i q t)
    (hst : q.st = .rts) :
    exec (.ackReceive port) s = goOnKeep s (applyAck t i (parsePkt f.data) ((waitingFrom t i q 0x11).map (·.psn))) := by
  obtain ⟨inst, u, hhead, -, -, hcrc, hpair, rfl⟩ := h
  refine congrArg (goOnKeep s) ?_
  simp only [hhead]
  exact (withQp_accepted hcrc hpair).trans (if_pos hst)

/-- A NAK acts by its code: RNR delays the request, a code of R331 fails it and its queue pair, another one is stray (R318, R321, R331, R332). -/
def nakTaken (t : State) (i : Nat) (q : Qp) (k : Pkt) (code : Nat) : State :=
  if code = 1 then nakRnr t i q k
  else match nakStatus code with
    | some st => qpError t i ((sendOfMsn q k.msn).map fun w => (w.index, st)) none
    | none => regAdd t wgtStray 1

theorem exec_nakReceive_accepted {s t : State} {port i : Nat} {f : RxFrame} {q : Qp} (h : acceptsPacket s port [0x11] f i q t) :
    exec (.nakReceive port) s = goOnKeep s (nakTaken t i q (parsePkt f.data) (byteAt (parsePkt f.data).body 0)) := by
  obtain ⟨inst, u, hhead, -, -, hcrc, hpair, rfl⟩ := h
  refine congrArg (goOnKeep s) ?_
  simp only [hhead]
  exact withQp_accepted hcrc hpair

-- ------------------------------------------------------------------ probes (R326, R348)

theorem exec_probeReceive_head {s u : State} {port : Nat} {f : RxFrame} (hhead : headProbe s port 0x12 = some (f, u))
    (hcrc : (parsePkt f.data).crcOk = true) :
    exec (.probeReceive port) s = goOnKeep s
      (queueProbeReply (heardFrom u port (ipVer f.data) (BitVec.ofNat 128 (ipSrc f.data))) port
        (probeFrame (heardFrom u port (ipVer f.data) (BitVec.ofNat 128 (ipSrc f.data))) port (ipVer f.data) (ipSrc f.data) (be f.data 6 6)
          (frameVid f.data) 0x13 (parsePkt f.data).body)) := by
  refine congrArg (goOnKeep s) ?_
  simp only [hhead, hcrc, Bool.not_true, Bool.false_eq_true, if_false]

/-- A reply from a peer that is known stops its probing. -/
theorem exec_probeReplyReceive_head {s u : State} {port n : Nat} {f : RxFrame} (hhead : headProbe s port 0x13 = some (f, u))
    (hcrc : (parsePkt f.data).crcOk = true) (hpeer : peerOf u port (ipVer f.data) (BitVec.ofNat 128 (ipSrc f.data)) = some n) :
    exec (.probeReplyReceive port) s = goOnKeep s
      (modPeer (heardFrom u port (ipVer f.data) (BitVec.ofNat 128 (ipSrc f.data))) n fun p => { p with probes := none }) := by
  refine congrArg (goOnKeep s) ?_
  simp only [hhead, hcrc, hpeer, Bool.not_true, Bool.false_eq_true, if_false]

/-- Settles O32, clause by clause from what the packet at the head of the port's queue brings about. -/
theorem controlPacketsComplete : Obligations.ControlPacketsComplete := by
  unfold Obligations.ControlPacketsComplete
  refine ⟨?ack, ?nak, ?probe, ?reply⟩
  case ack => exact fun s t port i f q h hst => exec_ackReceive_accepted h hst
  case nak =>
    rintro s t port i code f q k h rfl rfl
    exact exec_nakReceive_accepted h
  case probe =>
    rintro s u port f k hhead rfl hcrc
    exact exec_probeReceive_head hhead hcrc
  case reply =>
    rintro s u port n f k hhead rfl hcrc hpeer
    exact exec_probeReplyReceive_head hhead hcrc hpeer

end Sys2Proof.Proofs
end

section
/-! A PROBE that is addressed to a queue pair (R313, R318, R348), which the statement on received packets takes for a data packet, and with it the
refutation of O31. -/

namespace Sys2Proof.Proofs

open Sys2Proof Machine Claims

/-- The transport's oldest frame at a port is taken by the step that handles its opcode. -/
theorem headPkt_of_waiting {s : State} {port inst : Nat} {ops : List Nat} {f : RxFrame} (hwaits : waiting s port isTransport = some f)
    (hdest : f.dest = some (.transport inst)) (hop : headOp s f ∈ ops) : headPkt s port ops = some (f, inst, takeFrame s port f) := by
  simp only [headPkt, hwaits, hdest]
  exact if_pos (List.contains_iff_mem.mpr hop)

/-- A frame that is neither data nor an acknowledgement goes with the data packets, and no queue pair takes it (R318). -/
theorem exec_wgtDataReceive_stray {s u : State} {port inst : Nat} {f : RxFrame} (hhead : headPkt s port [0, 1, 2] = some (f, inst, u))
    (hop : headOp u f = 0) : exec (.wgtDataReceive port) s = goOnKeep s (regAdd u wgtStray 1) := by
  refine congrArg (goOnKeep s) ?_
  simp only [hhead]
  exact if_pos hop

theorem regs_of_goOnKeep_eq {s t u : State} (h : goOnKeep s t = goOnKeep s u) : t.regs = u.regs := by
  have hnext := Host.Outcome.next.inj h
  exact (congrArg State.regs hnext :)

-- ------------------------------------------------------------------ the counterexample

/-- The PROBE's WGT header and identity: to queue pair 2^18 from queue pair 17, with PSN 300. -/
def pairProbeWgt : Bytes := wgtHeader 0x12 0 0 (2 ^ 18) 17 300 0 0 ++ toBe 8 0

/-- The PROBE in a frame from 10.0.0.2, with its CRC32C. -/
def pairProbeBytes : Bytes :=
  ethHeader 0 0 none 0 0x0800
    ++ toBe 12 0x450000480000000040110000 ++ toBe 8 0x0A0000020A000001
    ++ toBe 8 0xC00012D100340000 ++ pairProbeWgt ++ toBe 4 (crc32c pairProbeWgt).toNat

/-- The frame, where it waits for the transport and owner 0. -/
def pairProbe : RxFrame := { data := pairProbeBytes, fcsOk := true, capture := 0, t0 := 0, perByte := 12, dest := some (.transport 0) }

/-- The queue pair that the PROBE names, whose peer sent it. -/
def probedQp : Qp := { st := .rtr, port := 8, peerIp := 0x0A000002, peerQp := 17 }

/-- Port 8 has the PROBE waiting for queue pair 0, and nothing else has come since the reset. -/
def probedState : State := { State.reset with ports := [(8, { inbox := [pairProbe] })], qps := [(0, probedQp)] }

/-- The state after the PROBE was taken. -/
def probeTaken : State := takeFrame probedState 8 pairProbe

/-- The state after it was taken, its peer heard and it counted, as acceptsPacket has it. -/
def probeCounted : State := countInst (heardFrom probeTaken 8 probedQp.ipv probedQp.peerIp) probedQp.owner 7 1

theorem pairProbe_head : headPkt probedState 8 [0, 1, 2] = some (pairProbe, 0, probeTaken) :=
  headPkt_of_waiting (by decide +kernel) rfl (by decide +kernel)

theorem pairProbe_accepted : acceptsPacket probedState 8 [0, 1, 2] pairProbe 0 probedQp probeCounted :=
  ⟨0, probeTaken, pairProbe_head, by decide +kernel, by decide +kernel, by decide +kernel, by decide +kernel, rfl⟩

theorem pairProbe_stray : exec (.wgtDataReceive 8) probedState = goOnKeep probedState (regAdd probeTaken wgtStray 1) :=
  exec_wgtDataReceive_stray pairProbe_head (by decide +kernel)

/-- Refutes O31. Its first clause takes every packet that waits among the data packets and that a queue pair accepts for a SEND or WRITE; but a
PROBE addressed to a queue pair waits there, too, and the model discards it as stray (R318, R348). The one here has PSN 300 at ePSN 0: the
statement has it count as out of the window, the model counts it as stray. -/
theorem not_receivedPacketsComplete : ¬ Obligations.ReceivedPacketsComplete := by
  unfold Obligations.ReceivedPacketsComplete
  rintro ⟨hdata, -, -⟩
  have hclaim := hdata probedState probeCounted 8 0 pairProbe probedQp _ pairProbe_accepted rfl
  have htag : ¬(parsePkt pairProbe.data).tagOk probedQp.rxKey = false := by decide +kernel
  have hfresh : ¬(2 ^ 23 ≤ seqSub (parsePkt pairProbe.data).psn probedQp.ePsn ∨ (parsePkt pairProbe.data).psn ∈ probedQp.got) := by
    decide +kernel
  have hbeyond : ((parsePkt pairProbe.data).msn, (parsePkt pairProbe.data).psn) ∉ probedQp.rnrPsns
      ∧ 256 ≤ seqSub (parsePkt pairProbe.data).psn probedQp.ePsn := by decide +kernel
  rw [pairProbe_stray, if_neg htag, if_neg fun h => hfresh h.2, if_pos hbeyond] at hclaim
  have hstray : regRaw (regAdd probeTaken wgtStray 1) wgtStray = regRaw (regAdd probeCounted wgtOowPkts 1) wgtStray := by
    simp only [regRaw, regs_of_goOnKeep_eq hclaim]
  exact absurd hstray (by decide +kernel)

end Sys2Proof.Proofs
end

section
/-! What a queue pair sends in its turn (R324, R329, R338, R343, R386), and with it O33. -/

namespace Sys2Proof.Proofs

open Sys2Proof Machine Claims

/-- A queue pair in RTS sends in the state in which its held acknowledgements have left. -/
theorem exec_wgtPacketSend_rts {s h : State} {i : Nat} {q : Qp} (hh : h = ctlSent s i) (hq : getQp h i = some q) (hst : q.st = .rts) :
    exec (.wgtPacketSend i) s = goOnKeep s (sendNext h i q) := by
  subst hh
  refine congrArg (goOnKeep s) ?_
  simp only [ctlSent] at hq ⊢
  simp only [hq]
  exact if_pos hst

/-- The cipher counter stops before 2^63 (R343). -/
theorem sendNext_counterSpent {h : State} {i : Nat} {q : Qp} (hkey : q.txKey.isSome = true) (hspent : 2 ^ 63 ≤ q.ivCtr + 1) :
    sendNext h i q = qpError h i ((nextNew q).map fun x => (x.1.index, stIntegrity)) none :=
  if_pos (by rw [hkey, decide_eq_true hspent, Bool.true_and])

section
variable {h : State} {i : Nat} {q : Qp} (hcounter : q.txKey = none ∨ q.ivCtr + 1 < 2 ^ 63)
include hcounter

/-- The cipher counter is not in the way of a queue pair without a key, nor below 2^63. -/
theorem counter_free : ¬(q.txKey.isSome && 2 ^ 63 ≤ q.ivCtr + 1) = true := by
  obtain hnone | hbelow := hcounter
  · simp [hnone]
  · rw [decide_eq_false (not_le.mpr hbelow), Bool.and_false]
    exact Bool.false_ne_true

theorem sendNext_retransmission {psn : Nat} {rest : List Nat} {w : SendWr} (hretx : q.retxQ = psn :: rest) (hw : sendOfPsn q psn = some w)
    (hmay : maySend h i q psn = true) : sendNext h i q = sendPacket h i q w psn true := by
  rw [sendNext, if_neg (counter_free hcounter)]
  simp only [hretx, hw]
  exact if_pos hmay

/-- READ responses go ahead of new packets, which is the model's choice: no rule orders the two. -/
theorem sendNext_response {x : Nat × Nat × Nat × Bytes × Bool} {rest : List (Nat × Nat × Nat × Bytes × Bool)} (hretx : q.retxQ = [])
    (hresp : q.respQ = x :: rest) (hmay : maySend h i q q.unaPsn = true) : sendNext h i q = sendResponse h i q x := by
  rw [sendNext, if_neg (counter_free hcounter)]
  simp only [hretx, hresp]
  exact if_pos hmay

theorem sendNext_new {psn : Nat} {w : SendWr} (hretx : q.retxQ = []) (hresp : q.respQ = []) (hnew : nextNew q = some (w, psn))
    (hmay : maySend h i q psn = true) : sendNext h i q = sendPacket h i q w psn false := by
  rw [sendNext, if_neg (counter_free hcounter)]
  simp only [hretx, hresp, hnew]
  exact if_pos hmay

end

/-- Settles O33, clause by clause from what the queue pair sends next. -/
theorem packetSendCompletes : Obligations.PacketSendCompletes := by
  unfold Obligations.PacketSendCompletes
  refine ⟨?retransmission, ?response, ?new, ?counterSpent⟩
  case retransmission =>
    intro s h i psn rest q w hh hq hst hcounter hretx hw hmay
    rw [exec_wgtPacketSend_rts hh hq hst, sendNext_retransmission hcounter hretx hw hmay]
  case response =>
    intro s h i q x rest hh hq hst hcounter hretx hresp hmay
    rw [exec_wgtPacketSend_rts hh hq hst, sendNext_response hcounter hretx hresp hmay]
  case new =>
    intro s h i psn q w hh hq hst hcounter hretx hresp hnew hmay
    rw [exec_wgtPacketSend_rts hh hq hst, sendNext_new hcounter hretx hresp hnew hmay]
  case counterSpent =>
    intro s h i q hh hq hst hkey hspent
    rw [exec_wgtPacketSend_rts hh hq hst, sendNext_counterSpent hkey hspent]

end Sys2Proof.Proofs
end

section
/-! The transport's timers when their time has come (R321, R326, R329, R330, R332, R336, R348, R349), and with them O34. -/

namespace Sys2Proof.Proofs

open Sys2Proof Machine Claims

/-- A queue pair in RTR or RTS, as the steps test it. -/
theorem decide_rtr_or_rts {q : Qp} (h : q.st = .rtr ∨ q.st = .rts) : (q.st = .rtr || q.st = .rts) = true := by
  simpa using h

theorem exec_ackCoalExpire_due {s : State} {i t : Nat} {q : Qp} (hq : getQp s i = some q) (hst : q.st = .rtr ∨ q.st = .rts)
    (hunacked : q.unackedAt = some t) (hdue : t + regBits s wgtAckCoal 23 8 * nsec ≤ s.now) :
    exec (.ackCoalExpire i) s = goOnKeep s (sendAck s i) := by
  refine congrArg (goOnKeep s) ?_
  simp only [hq, hunacked]
  exact if_pos (by rw [decide_rtr_or_rts hst, decide_eq_true hdue, Bool.and_true])

/-- The retransmission timer's expiry: the oldest packet is sent again, or, after RETRY_MAX expiries, its queue pair fails (R321, R330). -/
theorem exec_retxTimerExpire_due {s : State} {i t psn : Nat} {q : Qp} (hq : getQp s i = some q) (hst : q.st = .rts)
    (htimer : q.timerAt = some t) (hdue : t ≤ s.now) (holdest : oldestOut q = some psn) (hack : ackComing s i q = false) :
    exec (.retxTimerExpire i) s = goOnKeep s
      (if q.retryMax ≤ q.expiries then qpError s i ((sendOfPsn q psn).map fun w => (w.index, stTimeout)) none
       else startTimer (modQp s i fun q => { q with expiries := q.expiries + 1, retxQ := psn :: q.retxQ.filter (· ≠ psn) }) i) := by
  refine congrArg (goOnKeep s) ?_
  simp only [hq, htimer, holdest]
  exact if_pos (by simp [hst, hdue, hack])

/-- A packet outstanding behind one acknowledged is lost once WGT_REORDER has passed (R329). -/
theorem exec_reorderExpire_due {s : State} {i t : Nat} {q : Qp} {x : OutPkt} (hq : getQp s i = some q) (hx : x ∈ q.outPkts)
    (hunacked : x.sacked = false) (hnew : x.lost = false) (hafter : x.sackAfter = some t)
    (hdue : t + regBits s wgtReorderNs 15 0 * nsec ≤ s.now) :
    exec (.reorderExpire i x.psn) s = goOnKeep s (modQp s i fun q => declareLost q [x.psn]) := by
  refine congrArg (goOnKeep s) ?_
  simp only [hq]
  exact if_pos (List.any_eq_true.mpr ⟨x, hx, by simp [hunacked, hnew, hafter, hdue]⟩)

theorem exec_rnrDelayExpire_due {s : State} {i t : Nat} {q : Qp} (hq : getQp s i = some q) (hdelay : q.rnrUntil = some t) (hdue : t ≤ s.now) :
    exec (.rnrDelayExpire i) s = goOnKeep s (modQp s i fun q => { q with rnrUntil := none }) := by
  refine congrArg (goOnKeep s) ?_
  simp only [hq, hdelay]
  exact if_pos (decide_eq_true hdue)

theorem exec_creditResume_free {s : State} {i : Nat} {q : Qp} (hq : getQp s i = some q) (hst : q.st = .rtr ∨ q.st = .rts)
    (hfrozen : q.frozen = true) (hfree : creditHeld s i = false) : exec (.creditResume i) s = goOnKeep s (updateCredit s i) := by
  refine congrArg (goOnKeep s) ?_
  simp only [hq]
  exact if_pos (by rw [hfrozen, hfree, decide_rtr_or_rts hst]; rfl)

-- ------------------------------------------------------------------ peers (R348, R349)

/-- A peer not heard for WGT_PEER_TIMEOUT, to which a queue pair has packets outstanding, is silent (R348). -/
theorem peerSilent_of_outstanding {s : State} {p : Peer} {j : Nat} {q : Qp}
    (hdue : p.lastHeard + regBits s wgtPeerTimeout 19 0 * usec ≤ s.now) (hj : (j, q) ∈ peerQps s p) (hout : q.outPkts ≠ []) :
    peerSilent s p = true := by
  rw [peerSilent, decide_eq_true hdue, Bool.true_and]
  exact List.any_eq_true.mpr ⟨(j, q), hj, decide_eq_true hout⟩

theorem exec_peerSilentExpire_due {s : State} {k : Nat} {p : Peer} (hp : tget s.peers k = some p) (hidle : p.probes = none)
    (hsilent : peerSilent s p = true) : exec (.peerSilentExpire k) s = goOnKeep s (probePeer s k p 1) := by
  refine congrArg (goOnKeep s) ?_
  simp only [hp]
  exact if_pos (by rw [hidle, hsilent]; rfl)

/-- What the end of a probe interval brings: the end of the probing, the next PROBE, or the loss of the peer (R348, R349, R353). -/
theorem exec_probeIntervalExpire_due {s : State} {k n t : Nat} {p : Peer} (hp : tget s.peers k = some p) (hprobes : p.probes = some (n, t))
    (hdue : t ≤ s.now) :
    exec (.probeIntervalExpire k) s = goOnKeep s
      (if peerSilent s p = false then modPeer s k fun p => { p with probes := none }
       else if n < regBits s wgtProbe 19 16 then probePeer s k p (n + 1)
       else if peerComing s p then s
       else peerLost s k p) := by
  refine congrArg (goOnKeep s) ?_
  simp only [hp, hprobes, Bool.not_eq_true']
  exact if_pos hdue

/-- Settles O34, timer by timer from what each brings when it is due. -/
theorem transportTimersComplete : Obligations.TransportTimersComplete := by
  unfold Obligations.TransportTimersComplete
  refine ⟨?ackCoal, ?retx, ?reorder, ?rnr, ?credit, ?silent, ?probe⟩
  case ackCoal => exact fun s i t q hq hst hunacked hdue => exec_ackCoalExpire_due hq hst hunacked hdue
  case retx => exact fun s i t psn q hq hst htimer hdue holdest hack => exec_retxTimerExpire_due hq hst htimer hdue holdest hack
  case reorder => exact fun s i t q x hq hx hunacked hnew hafter hdue => exec_reorderExpire_due hq hx hunacked hnew hafter hdue
  case rnr => exact fun s i t q hq hdelay hdue => exec_rnrDelayExpire_due hq hdelay hdue
  case credit => exact fun s i q hq hst hfrozen hfree => exec_creditResume_free hq hst hfrozen hfree
  case silent =>
    exact fun s k j p q hp hidle hdue hj hout => exec_peerSilentExpire_due hp hidle (peerSilent_of_outstanding hdue hj hout)
  case probe => exact fun s k n t p hp hprobes hdue => exec_probeIntervalExpire_due hp hprobes hdue

end Sys2Proof.Proofs
end

section
/-! The passing of time on an empty queue (R398; log entry 1), and with it O52. -/

namespace Sys2Proof.Proofs

open Sys2Proof Machine Claims

/-- The network clock started with the time base's first READY and runs on its own clock (R398, R521, R540, R542). -/
def ClockRuns (s : State) : Prop := (ready s rdyTim = true ∨ (s.tb.started = true ∧ s.poweredDown = false)) ∧ s.tb.fallback = false

/-- In the next n units with no command nothing but the clock moves: no frame of STORE_FORWARD is released in them, and no STATS is pending. -/
structure Idles (s : State) (n : Nat) : Prop where
  empty : s.pending = []
  clock : ClockRuns s
  held : ∀ m ∈ s.msgs, m.2.finished = true ∨ m.2.releaseAt ≤ s.now ∨ s.now + n < m.2.releaseAt
  noStats : ∀ c ∈ s.cmds, c.opcode ≠ 0x09

/-- What the network clock gains in the n units after now: 1 ns + a in each TIME cycle that ends in them. -/
def clockGain (s : State) (n : Nat) : Nat := ((s.now + n) / timeCycle - s.now / timeCycle) * (2 ^ 48 + s.tb.adj).toNat

/-- The state n units later, when only the clock moved. -/
def afterIdle (s : State) (n : Nat) : State := { s with now := s.now + n, tb := { s.tb with clock := s.tb.clock + clockGain s n } }

theorem clockGain_zero (s : State) : clockGain s 0 = 0 := by simp [clockGain]

theorem afterIdle_zero (s : State) : afterIdle s 0 = s := by simp [afterIdle, clockGain_zero]

/-- One unit is a TIME cycle's last, or none ends in it. -/
theorem clockGain_one (s : State) : clockGain s 1 = if (s.now + 1) % timeCycle = 0 then (2 ^ 48 + s.tb.adj).toNat else 0 := by
  rw [clockGain, Nat.succ_div, Nat.add_sub_cancel_left, ite_mul, one_mul, zero_mul]
  simp only [Nat.dvd_iff_mod_eq_zero]

/-- The gains of two stretches of time, one after the other, add up. -/
theorem clockGain_add (s : State) (m n : Nat) : clockGain s m + clockGain (afterIdle s m) n = clockGain s (m + n) := by
  have hm : s.now / timeCycle ≤ (s.now + m) / timeCycle := Nat.div_le_div_right (Nat.le_add_right _ _)
  have hn : (s.now + m) / timeCycle ≤ (s.now + m + n) / timeCycle := Nat.div_le_div_right (Nat.le_add_right _ _)
  simp only [clockGain, afterIdle, ← Nat.add_mul, ← Nat.add_assoc]
  congr 1
  omega

theorem afterIdle_afterIdle (s : State) (m n : Nat) : afterIdle (afterIdle s m) n = afterIdle s (m + n) := by
  have hclock : s.tb.clock + clockGain s m + clockGain (afterIdle s m) n = s.tb.clock + clockGain s (m + n) := by
    rw [Nat.add_assoc, clockGain_add]
  have hnow : s.now + m + n = s.now + (m + n) := Nat.add_assoc ..
  exact congrArg₂ (fun now clock => { s with now := now, tb := { s.tb with clock := clock } }) hnow hclock

-- ------------------------------------------------------------------ one unit

theorem settleStats_none {s : State} (h : ∀ c ∈ s.cmds, c.opcode ≠ 0x09) : settleStats s = s := by
  have hnone : s.cmds.filter (·.opcode = 0x09) = [] := by simpa using h
  simp [settleStats, hnone]

theorem releaseFrames_none {s : State} (h : ∀ m ∈ s.msgs, m.2.finished = true ∨ m.2.releaseAt ≠ s.now) : releaseFrames s = s := by
  have hnone : s.msgs.filter (fun m => m.2.releaseAt = s.now && !m.2.finished) = [] := by
    simp only [List.filter_eq_nil_iff]
    intro m hm
    obtain hfinished | hlater := h m hm
    · simp [hfinished]
    · simp [hlater]
  rw [releaseFrames, hnone]
  rfl

/-- A clock that runs takes one TIME cycle's advance where a TIME cycle ends, and no other (R398). -/
theorem clockStep_of_runs {s : State} (h : ClockRuns s) :
    clockStep s = if s.now % timeCycle = 0 then { s with tb := { s.tb with clock := s.tb.clock + (2 ^ 48 + s.tb.adj).toNat } } else s := by
  obtain ⟨hstarted, hfallback⟩ := h
  have hruns : (ready s rdyTim || (s.tb.started && !s.poweredDown)) = true := by simpa using hstarted
  simp only [clockStep, hruns, hfallback, if_true, Bool.false_eq_true, if_false]

theorem tick_of_idles {s : State} {n : Nat} (h : Idles s (n + 1)) : tick s = afterIdle s 1 := by
  have hclock : clockStep { s with now := s.now + 1 } = afterIdle s 1 := by
    rw [clockStep_of_runs (show ClockRuns { s with now := s.now + 1 } from h.clock), afterIdle, clockGain_one]
    split <;> rfl
  have hheld : ∀ m ∈ s.msgs, m.2.finished = true ∨ m.2.releaseAt ≠ s.now + 1 := by
    intro m hm
    obtain hfinished | hpast | hlater := h.held m hm
    · exact .inl hfinished
    · exact .inr (by omega)
    · exact .inr (by omega)
  rw [tick, settleStats_none h.noStats, hclock, releaseFrames_none hheld]

theorem idles_afterIdle_one {s : State} {n : Nat} (h : Idles s (n + 1)) : Idles (afterIdle s 1) n where
  empty := h.empty
  clock := h.clock
  held m hm := by
    have hlater : (afterIdle s 1).now = s.now + 1 := rfl
    obtain hfinished | hpast | hlater := h.held m hm
    · exact .inl hfinished
    · exact .inr (.inl (by omega))
    · exact .inr (.inr (by omega))
  noStats := h.noStats

-- ------------------------------------------------------------------ many units

theorem step_of_idles {s : State} {n : Nat} (h : Idles s (n + 1)) : step s = .next (afterIdle s 1) := by
  rw [step, h.empty, tick_of_idles h]

theorem run_succ_of_next {M : Host.Core} {s t : M.State} {n : Nat} (h : M.step s = .next t) : M.run (n + 1) s = M.run n t := by
  simp only [Host.Core.run, h]

/-- By induction on the units that pass: the first one leaves a state in which the rest may pass. -/
theorem run_of_idles {s : State} {n : Nat} (h : Idles s n) : Host.Core.run Sys2Proof.core n s = .next (afterIdle s n) := by
  induction n generalizing s with
  | zero => exact congrArg Host.Outcome.next (afterIdle_zero s).symm
  | succ n ih =>
    calc Host.Core.run Sys2Proof.core (n + 1) s
        _ = Host.Core.run Sys2Proof.core n (afterIdle s 1) := run_succ_of_next (step_of_idles h)
        _ = .next (afterIdle (afterIdle s 1) n) := ih (idles_afterIdle_one h)
        _ = .next (afterIdle s (n + 1)) := by rw [afterIdle_afterIdle, Nat.add_comm]

/-- Settles O52 from the run of n idle units. -/
theorem idleStepsAdvanceClock : Obligations.IdleStepsAdvanceClock := by
  unfold Obligations.IdleStepsAdvanceClock
  exact fun s n hempty hstarted hfallback hheld hstats => run_of_idles ⟨hempty, ⟨hstarted, hfallback⟩, hheld, hstats⟩

end Sys2Proof.Proofs
end

section
/-! What a command of the administration ring finds as it was before it was taken, the conditions of the commands for ports and time (R356, R383,
R390, R410), and with them O11. -/

namespace Sys2Proof.Proofs

open Sys2Proof Machine Claims

-- ------------------------------------------------------------------ the state in which a command is judged

/-- Taking a command changes rings, instances' counts, the round robin and the next number, and nothing else. -/
theorem taken_frame {s : State} {r : CmdRing} (h : turn s r) :
    { taken s r with rings := s.rings, instances := s.instances, rrLast := s.rrLast, nextId := s.nextId } = s := by
  obtain ⟨t, ht, htaken, hid, -⟩ := taken_parts h
  have hframe := takeCmd_frame ht
  rw [htaken]
  exact (congrArg (fun u : State => { u with nextId := s.nextId }) hframe :)

/-- What does not read the rings, the instances, the round robin or the next number is judged as before the command was taken. -/
theorem eq_of_taken {α : Type} {F : State → α} {s : State} {r : CmdRing} (h : turn s r)
    (hF : ∀ (u : State) rings instances rrLast nextId,
      F { u with rings := rings, instances := instances, rrLast := rrLast, nextId := nextId } = F u) : F (taken s r) = F s := by
  rw [← hF (taken s r) s.rings s.instances s.rrLast s.nextId, taken_frame h]

theorem ready_taken {s : State} {r : CmdRing} (h : turn s r) (i : Nat) : ready (taken s r) i = ready s i :=
  eq_of_taken (F := fun u => ready u i) h fun _ _ _ _ _ => rfl

/-- On the administration ring it makes no difference that an opcode is administration-only (R461). -/
theorem runCmd_admin (op : Nat) (d : Cmd) (f : Nat → Nat → State → State × Answer) (s : State) :
    runCmd op true .admin d f s = runCmd op false .admin d f s := by
  simp [runCmd]

theorem runCmd_admin_completes {s u : State} {d : Cmd} {op st : Nat} {f : Nat → Nat → State → State × Answer} {res : List (Nat × Nat × Nat)}
    (h : turn s .admin) (hd : d.unlisted = none) (hf : f 0 s.nextId (taken s .admin) = (u, .done st res [])) :
    goOnKeep s (runCmd op true .admin d f s) = completes s u .admin d op st res :=
  (congrArg (goOnKeep s) (runCmd_admin ..)).trans (runCmd_completes h hd hf)

theorem runCmd_admin_waits {s u : State} {d : Cmd} {op arg : Nat} {f : Nat → Nat → State → State × Answer} (h : turn s .admin)
    (hd : d.unlisted = none) (hf : f 0 s.nextId (taken s .admin) = (u, .wait arg)) :
    goOnKeep s (runCmd op true .admin d f s) = waits s u .admin d op arg :=
  (congrArg (goOnKeep s) (runCmd_admin ..)).trans (runCmd_waits h hd hf)

/-- A condition that does not hold leaves the verdict to those behind it. -/
theorem firstFail_cons {c : Bool} {st : Nat} {l : List (Bool × Nat)} (hc : c = false) (hl : firstFail l = none) :
    firstFail ((c, st) :: l) = none := by
  simp [firstFail, hc, hl]

-- ------------------------------------------------------------------ PORT_SPLIT (R355, R356)

/-- No unit is loaded, no queue pair is in use, no armature exists and no other split is on its way (R356). -/
def SplitAllowed (s : State) : Prop :=
  (tvals s.units).any (fun u => u.st ≠ .green) = false ∧ s.arms = [] ∧ (tvals s.qps).any (fun q => q.live && q.st ≠ .reset) = false
    ∧ s.splitCmd = none

theorem splitAllowed_taken {s : State} {r : CmdRing} (h : turn s r) (hs : SplitAllowed s) : SplitAllowed (taken s r) :=
  (eq_of_taken (F := SplitAllowed) h fun _ _ _ _ _ => rfl).mpr hs

theorem cmdPortSplit_allowed {s : State} {d : Cmd} {inst id : Nat} (hargs : argsOnly d [(0, 1)] = true) (hcode : argN d 0 1 ≤ 3)
    (h : SplitAllowed s) : cmdPortSplit d inst id s = ({ changeSplit s (argN d 0 1) with splitCmd := some id }, .wait 0) := by
  obtain ⟨hunits, harms, hqps, hsplit⟩ := h
  refine orElse_ok (firstFail_cons ?params (firstFail_cons ?state rfl))
  case params => simp [hargs, hcode]
  case state =>
    rw [hunits, hqps]
    simp [harms, hsplit]

/-- The split of the next state is the new one, which goOnKeep would not keep. -/
theorem exec_portSplit_allowed {s : State} {d : Cmd} (h : turn s .admin) (hargs : argsOnly d [(0, 1)] = true) (hcode : argN d 0 1 ≤ 3)
    (hs : SplitAllowed s) :
    exec (.portSplit .admin d) s = goOn s
      { changeSplit (taken s .admin) (argN d 0 1) with
        splitCmd := some s.nextId
        cmds := (changeSplit (taken s .admin) (argN d 0 1)).cmds
          ++ [{ id := s.nextId, ring := .admin, tag := d.tag, index := indexOf s .admin, opcode := 0x40, arg := 0 }] } := by
  obtain ⟨t, ht, htaken, hid, hr⟩ := taken_parts h
  have hrule := cmdPortSplit_allowed (inst := 0) (id := t.nextId) hargs hcode (splitAllowed_taken h hs)
  rw [htaken] at hrule
  refine congrArg (goOn s) ((runCmd_wait ht (listed_of_argsOnly hargs) (by simp [hr]) rfl hrule).trans ?_)
  rw [htaken, hid]

-- ------------------------------------------------------------------ GATE_COMMIT (R307, R383, R384)

theorem listed_of_gateArgs {s : State} {d : Cmd} (h : gateArgsBad s d = false) : d.unlisted = none := by
  simp only [gateArgsBad, Bool.or_eq_false_iff, Bool.not_eq_eq_eq_not, Bool.not_false] at h
  obtain ⟨⟨hargs, -⟩, -⟩ := h
  exact listed_of_argsOnly hargs

/-- Port p is READY and may take list g: a good list that begins 10 us from now or later, with no other pending, that the armature windows let
in (R307, R382, R383). -/
def CommitAllowed (s : State) (d : Cmd) (p : Nat) (g : GateList) : Prop :=
  g = adminList s p ∧ portReady s p = true ∧ gateArgsBad s d = false ∧ gateListOk g = true ∧ netNs s + 10000 ≤ g.base
    ∧ (getPort s p).pendGate = none ∧ gateRefused s p g = false

theorem commitAllowed_taken {s : State} {r : CmdRing} {d : Cmd} {p : Nat} {g : GateList} (h : turn s r) (hs : CommitAllowed s d p g) :
    CommitAllowed (taken s r) d p g :=
  (eq_of_taken (F := fun u => CommitAllowed u d p g) h fun _ _ _ _ _ => rfl).mpr hs

theorem cmdGateCommit_allowed {s : State} {d : Cmd} {inst id p : Nat} {g : GateList} (hp : p = argN d 0 1) (h : CommitAllowed s d p g) :
    cmdGateCommit d inst id s = (modPort s p fun q => { q with pendGate := some (g, g.base) }, .wait p) := by
  obtain ⟨rfl, hready, hargs, hlist, hbase, hnone, haccepted⟩ := h
  subst hp
  simp only [cmdGateCommit]
  refine orElse_ok (firstFail_cons ?ready (firstFail_cons ?params (firstFail_cons ?state (firstFail_cons haccepted rfl))))
  case ready => simp [hready]
  case params => simp [hargs, hlist, hbase]
  case state => simp [hnone]

theorem exec_gateCommit_allowed {s : State} {d : Cmd} {p : Nat} {g : GateList} (h : turn s .admin) (hcancel : gateCancel d = false)
    (hp : p = argN d 0 1) (hs : CommitAllowed s d p g) :
    exec (.gateCommit .admin d) s =
      waits s (modPort (taken s .admin) p fun q => { q with pendGate := some (g, g.base) }) .admin d 0x41 p := by
  have hcommits : exec (.gateCommit .admin d) s = goOnKeep s (runCmd 0x41 true .admin d (cmdGateCommit d) s) :=
    congrArg (goOnKeep s) (if_neg (by simp [hcancel]))
  have hrule := cmdGateCommit_allowed (inst := 0) (id := s.nextId) hp (commitAllowed_taken h hs)
  obtain ⟨-, -, hargs, -⟩ := hs
  exact hcommits.trans (runCmd_admin_waits h (listed_of_gateArgs hargs) hrule)

/-- Port p is READY and has a list that waits for its BASE. -/
def CancelAllowed (s : State) (d : Cmd) (p : Nat) (g : GateList × Nat) : Prop :=
  portReady s p = true ∧ gateArgsBad s d = false ∧ (getPort s p).pendGate = some g

theorem cancelAllowed_taken {s : State} {r : CmdRing} {d : Cmd} {p : Nat} {g : GateList × Nat} (h : turn s r) (hs : CancelAllowed s d p g) :
    CancelAllowed (taken s r) d p g :=
  (eq_of_taken (F := fun u => CancelAllowed u d p g) h fun _ _ _ _ _ => rfl).mpr hs

theorem cmdGateCommitCancel_allowed {s : State} {d : Cmd} {inst id : Nat} {g : GateList × Nat} (h : CancelAllowed s d (argN d 0 1) g) :
    cmdGateCommitCancel d inst id s = (dropTakeover s (argN d 0 1), .ok) := by
  obtain ⟨hready, hargs, hpend⟩ := h
  simp only [cmdGateCommitCancel]
  refine orElse_ok (firstFail_cons ?ready (firstFail_cons hargs (firstFail_cons ?state rfl)))
  case ready => simp [hready]
  case state => simp [hpend]

theorem exec_gateCommitCancel_allowed {s : State} {d : Cmd} {g : GateList × Nat} (h : turn s .admin) (hcancel : gateCancel d = true)
    (hs : CancelAllowed s d (argN d 0 1) g) :
    exec (.gateCommitCancel .admin d) s = completes s (dropTakeover (taken s .admin) (argN d 0 1)) .admin d 0x41 stOK [] := by
  have hcancels : exec (.gateCommitCancel .admin d) s = goOnKeep s (runCmd 0x41 true .admin d (cmdGateCommitCancel d) s) :=
    congrArg (goOnKeep s) (if_pos hcancel)
  have hrule := cmdGateCommitCancel_allowed (inst := 0) (id := s.nextId) (cancelAllowed_taken h hs)
  obtain ⟨-, hargs, -⟩ := hs
  exact hcancels.trans (runCmd_admin_completes h (listed_of_gateArgs hargs) hrule)

-- ------------------------------------------------------------------ TIME_STEP (R410) and TLM_SET (R390)

theorem listed_of_stepGood {s : State} {d : Cmd} (h : stepBad s d = false) : d.unlisted = none := by
  simp only [stepBad, Bool.or_eq_false_iff, Bool.not_eq_eq_eq_not, Bool.not_false] at h
  obtain ⟨⟨⟨⟨-, hargs⟩, -⟩, -⟩, -⟩ := h
  exact listed_of_argsOnly hargs

/-- The time base is READY, the step leads to a time that network time may take, and no armature keeps time by it (R397, R410). -/
def StepAllowed (s : State) (d : Cmd) : Prop :=
  ready s rdyTim = true ∧ stepBad s d = false ∧ (tvals s.arms).any (fun a => a.st ≠ .idle) = false

theorem stepAllowed_taken {s : State} {r : CmdRing} {d : Cmd} (h : turn s r) (hs : StepAllowed s d) : StepAllowed (taken s r) d :=
  (eq_of_taken (F := fun u => StepAllowed u d) h fun _ _ _ _ _ => rfl).mpr hs

theorem stepTarget_taken {s : State} {r : CmdRing} (h : turn s r) (d : Cmd) : stepTarget (taken s r) d = stepTarget s d :=
  eq_of_taken (F := fun u => stepTarget u d) h fun _ _ _ _ _ => rfl

theorem cmdTimeStep_allowed {s : State} {d : Cmd} {inst id : Nat} (h : StepAllowed s d) :
    cmdTimeStep d inst id s = (stepClock s (stepTarget s d).toNat, .ok) := by
  obtain ⟨hready, hgood, hidle⟩ := h
  exact orElse_ok (firstFail_cons (by simp [hready]) (firstFail_cons hgood (firstFail_cons hidle rfl)))

theorem exec_timeStep_allowed {s : State} {d : Cmd} (h : turn s .admin) (hs : StepAllowed s d) :
    exec (.timeStep .admin d) s = completes s (stepClock (taken s .admin) (stepTarget s d).toNat) .admin d 0x42 stOK [] := by
  have hrule := cmdTimeStep_allowed (inst := 0) (id := s.nextId) (stepAllowed_taken h hs)
  rw [stepTarget_taken h] at hrule
  obtain ⟨-, hgood, -⟩ := hs
  exact runCmd_admin_completes h (listed_of_stepGood hgood) hrule

theorem cmdTlmSet_ready {s : State} {d : Cmd} {inst id : Nat} (hready : ready s rdyShp = true) (hargs : argsOnly d [(0, 3)] = true)
    (hon : argN d 2 1 ≤ 1) : cmdTlmSet d inst id s = ({ s with tlmMask := argN d 0 2, tlmOn := argN d 2 1 = 1 }, .ok) := by
  exact orElse_ok (firstFail_cons (by simp [hready]) (firstFail_cons (by simp [hargs, hon]) rfl))

theorem exec_tlmSet_ready {s : State} {d : Cmd} (h : turn s .admin) (hready : ready s rdyShp = true) (hargs : argsOnly d [(0, 3)] = true)
    (hon : argN d 2 1 ≤ 1) :
    exec (.tlmSet .admin d) s =
      completes s { taken s .admin with tlmMask := argN d 0 2, tlmOn := argN d 2 1 = 1 } .admin d 0x43 stOK [] :=
  runCmd_admin_completes h (listed_of_argsOnly hargs) (cmdTlmSet_ready ((ready_taken h _).trans hready) hargs hon)

/-- Settles O11, clause by clause from what the rule of each command gives once it is admitted. -/
theorem portAndTimeCommandsComplete : Obligations.PortAndTimeCommandsComplete := by
  unfold Obligations.PortAndTimeCommandsComplete
  refine ⟨?split, ?commit, ?cancel, ?timeStep, ?tlmSet⟩
  case split => exact fun s d h hargs hcode hunits harms hqps hsplit => exec_portSplit_allowed h hargs hcode ⟨hunits, harms, hqps, hsplit⟩
  case commit => exact fun s d p g h hcancel hp hg hready hargs hlist hbase hnone haccepted =>
    exec_gateCommit_allowed h hcancel hp ⟨hg, hready, hargs, hlist, hbase, hnone, haccepted⟩
  case cancel => exact fun s d g h hcancel hready hargs hpend => exec_gateCommitCancel_allowed h hcancel ⟨hready, hargs, hpend⟩
  case timeStep => exact fun s d h hready hgood hidle => exec_timeStep_allowed h ⟨hready, hgood, hidle⟩
  case tlmSet => exact fun s d h hready hargs hon => exec_tlmSet_ready h hready hargs hon

end Sys2Proof.Proofs
end

section
/-! What a receiver does with a frame: its start, its classification point, a runt, its end (R358-R370), and with them O29. -/

namespace Sys2Proof.Proofs

open Sys2Proof Machine Claims

/-- An idle receiver admits a frame with the stamp of its start; an uncorrectable codeword counts as a bad FCS (R358, R359). -/
theorem exec_frameStart_idle {s t : State} {port stamp : Nat} {err : Int} {frame : Bytes} {l : LineState} (hrecv : portReceives s port = true)
    (hidle : (getPort s port).rx = none) (hstamp : rxStamp (countFec s port l) port err = (stamp, t)) :
    exec (.frameStart port frame l err) s = goOn s
      (admitFrame t port
        { data := frame, fcs := l.fcs, fcsOk := l.fcs = frameFcs frame && decide (l.uncorrectable = 0), capture := stamp, t0 := t.now,
          perByte := portByteTime t port, fired := firedNow t }) := by
  have hstarts : exec (.frameStart port frame l err) s =
      goOn s (startFrame (countFec s port l) port frame l.fcs (l.uncorrectable = 0) err) :=
    congrArg (goOn s) (if_pos (by simp [hrecv, hidle]))
  rw [hstarts, startFrame, hstamp]

section
variable {s : State} {port : Nat} {f : RxFrame} (hrx : (getPort s port).rx = some f)
include hrx

theorem exec_runtDiscard_short (hshort : f.data.length + 4 < 64) (hdest : f.dest = none) :
    exec (.runtDiscard port) s = goOnKeep s
      (regAdd (releaseFrame (modPort s port fun q => { q with rx := none }) port f f.room) (macRxRunt port) 1) := by
  refine congrArg (goOnKeep s) ?_
  rw [hrx]
  exact if_pos ⟨hshort, by simp [hdest]⟩

/-- From the classification point on, a frame in CUT_THROUGH begins its message at once (R362, R370). -/
theorem exec_frameClassify_point (hdest : f.dest = none) (hlong : 64 ≤ f.data.length + 4)
    (hpoint : f.t0 + min 128 (f.data.length + 4) * f.perByte ≤ s.now) :
    exec (.frameClassify port) s = goOnKeep s
      (match (getPort (classify s port f) port).rx with
       | some g => if (getPort (classify s port f) port).sfRx then classify s port f
                   else beginMessage (classify s port f) port g g.t0 g.perByte false
       | none => classify s port f) := by
  have hat : atPoint s f = true := decide_eq_true hpoint
  refine congrArg (goOnKeep s) ?_
  rw [hrx]
  exact if_pos (by simp [hdest, hat, rxLen, hlong])

/-- A frame ends with its last byte, or where it would pass the longest frame of its port (R365, R367). -/
theorem exec_frameEnd_last {d : Dest} (hdest : f.dest = some d)
    (hlast : f.t0 + min (f.data.length + 4) (regBits s (macMaxFrame port) 13 0) * f.perByte ≤ s.now) :
    exec (.frameEnd port) s = goOnKeep s (endFrame s port f d) := by
  refine congrArg (goOnKeep s) ?_
  simp only [hrx, hdest]
  exact if_pos hlast

end

/-- Settles O29, clause by clause from what the receiver answers at each point of a frame's life. -/
theorem receiveFramesComplete : Obligations.ReceiveFramesComplete := by
  unfold Obligations.ReceiveFramesComplete
  refine ⟨?start, ?runt, ?classify, ?ends⟩
  case start => exact fun s t port stamp err frame l hrecv hidle hstamp => exec_frameStart_idle hrecv hidle hstamp
  case runt => exact fun s port f hrx hshort hdest => exec_runtDiscard_short hrx hshort hdest
  case classify => exact fun s port f hrx hdest hlong hpoint => exec_frameClassify_point hrx hdest hlong hpoint
  case ends => exact fun s port f d hrx hdest hlast => exec_frameEnd_last hrx hdest hlast

end Sys2Proof.Proofs
end

section
/-! A received pause and the pause sent (R371, R372, R374, R375), and with them O35. -/

namespace Sys2Proof.Proofs

open Sys2Proof Machine Claims

theorem exec_pauseReceive_waiting {s : State} {p : Nat} {f : RxFrame} (hf : waiting s p (fun d => d = .mac) = some f) :
    exec (.pauseReceive p) s = goOnKeep s (pauseActs ((List.range 8).foldl (fun s c => stormOf s p c) (consume s p .mac f)) p f) := by
  refine congrArg (goOnKeep s) ?_
  rw [hf]

theorem exec_pauseExpire_due {s : State} {p c t : Nat} (hhold : tget (getPort s p).hold c = some t) (hdue : t ≤ s.now) :
    exec (.pauseExpire p c) s = goOnKeep s ((pauseGroup s p c).foldl (fun s c => endHold s p c) s) := by
  refine congrArg (goOnKeep s) ?_
  rw [hhold]
  exact if_pos hdue

/-- FC_WDOG is in us. -/
theorem wdogDue_of_heldSince {s : State} {p c t : Nat} (hc : c < 8) (hheld : held s p c = true)
    (hsince : tget (getPort s p).heldSince c = some t) (hdue : t + regBits s (macFcWdog p) 23 0 * 600000 ≤ s.now) :
    wdogDue s p c = true := by
  simp [wdogDue, hc, hheld, tgetD, hsince, usec, hdue]

theorem exec_fcWdogExpire_due {s : State} {p c : Nat} (hdue : wdogDue s p c = true) :
    exec (.fcWdogExpire p c) s = goOnKeep s
      (report (regOr (regOr ((pauseGroup s p c).foldl (fun s c => endHold s p c) s) (macFcStatus p)
          ((((pauseGroup s p c).filter (· < 8)).map fun c => 2 ^ (8 + c)).sum)) (macEvent p) 2)
        { code := evPauseStorm, origin := [p, c], detail := [(0, 1, p), (1, 1, c)] }) :=
  congrArg (goOnKeep s) (if_pos hdue)

theorem exec_pfcRefresh_due {s : State} {p c t : Nat} (hxoff : tget (getPort s p).xoffAt (xoffKey s p c) = some t)
    (hsends : fcSends s p c = true) (hdue : t + regBits s (macFcQuanta p) 15 0 * 64 * portByteTime s p / 2 ≤ s.now)
    (hfull : xonBytes s p < occOf s p c) :
    exec (.pfcRefresh p c) s = goOnKeep s
      (modPort (sendPause s p c (regBits s (macFcQuanta p) 15 0)) p fun q => { q with xoffAt := tset q.xoffAt (xoffKey s p c) s.now }) := by
  refine congrArg (goOnKeep s) ?_
  simp only [hxoff]
  exact if_pos (by simp [hsends, hdue, hfull])

theorem exec_xonSend_due {s : State} {p c : Nat} (hsends : fcSends s p c = true) (hon : xoffOn s p c = true)
    (hlow : occOf s p c < xonBytes s p) :
    exec (.xonSend p c) s = goOnKeep s
      (modPort (sendPause s p c 0) p fun q => { q with xoffAt := tdel q.xoffAt (xoffKey s p c) }) :=
  congrArg (goOnKeep s) (if_pos (by simp [hsends, hon, hlow]))

/-- Settles O35, clause by clause from what each step of flow control answers. -/
theorem pauseCommandsComplete : Obligations.PauseCommandsComplete := by
  unfold Obligations.PauseCommandsComplete
  refine ⟨?receive, ?expire, ?watchdog, ?refresh, ?xon⟩
  case receive => exact fun s p f hf => exec_pauseReceive_waiting hf
  case expire => exact fun s p c t hhold hdue => exec_pauseExpire_due hhold hdue
  case watchdog => exact fun s p c t hc hheld hsince hdue => exec_fcWdogExpire_due (wdogDue_of_heldSince hc hheld hsince hdue)
  case refresh => exact fun s p c t hxoff hsends hdue hfull => exec_pfcRefresh_due hxoff hsends hdue hfull
  case xon => exact fun s p c hsends hon hlow => exec_xonSend_due hsends hon hlow

end Sys2Proof.Proofs
end

section
/-! The order in which a port's MAC takes frames at a frame boundary (R373, R379, R380, R386, R387), and with it O36. -/

namespace Sys2Proof.Proofs

open Sys2Proof Machine Claims

/-- Two functions that agree on a port change it alike. -/
theorem modPort_congr {s : State} {p : Nat} {f g : Port → Port} (hfg : f (getPort s p) = g (getPort s p)) : modPort s p f = modPort s p g :=
  congrArg (fun v => { s with ports := tset s.ports p v }) hfg

theorem unqueue_congr {s : State} {p : Nat} {f g : Port → Port} (hfg : f (getPort s p) = g (getPort s p)) : unqueue s p f = unqueue s p g :=
  modPort_congr (congrArg (noteIdle s.now (getPort s p)) hfg)

/-- A MAC control frame that no armature window holds up goes first (R379). -/
theorem selectFrame_control {s : State} {p : Nat} {f : TxFrame} {rest : List TxFrame} (hctrl : (getPort s p).ctrlQ = f :: rest)
    (hclear : clearOfWindows s p (queuedTime s p f) = true) :
    selectFrame s p = depart (unqueue s p fun q => { q with ctrlQ := rest }) p f := by
  have hfirst : ((getPort s p).ctrlQ.head?.filter fun f => clearOfWindows s p (queuedTime s p f)) = some f := by
    simp [hctrl, Option.filter, hclear]
  have hrest : { getPort s p with ctrlQ := (getPort s p).ctrlQ.drop 1 } = { getPort s p with ctrlQ := rest } := by
    rw [hctrl, List.drop_one, List.tail_cons]
  simp only [selectFrame, hfirst]
  exact congrArg (fun u => depart u p f) (unqueue_congr hrest)

/-- Without control frames the head of the reply queue goes, where it may start (R379). -/
theorem selectFrame_reply {s : State} {p : Nat} {f : TxFrame} (hctrl : (getPort s p).ctrlQ = []) (hreply : replyHead s p = some f) :
    selectFrame s p = depart (unqueue s p fun q => { q with replyQ := q.replyQ.erase f }) p f := by
  simp only [selectFrame, hctrl, List.head?_nil, Option.filter_none, hreply]

/-- Without either the highest eligible class goes, and pays its shaper unless its frame is a time message (R379, R386, R387). -/
theorem selectFrame_class {s : State} {p c : Nat} {f : TxFrame} (hctrl : (getPort s p).ctrlQ = []) (hreply : replyHead s p = none)
    (hclass : classHead s p = some (c, f)) :
    selectFrame s p =
      depart (unqueue (if f.kind = .ptp then s else bucketCharge s (classBucket p c false) (wireBytes (outLen f))) p fun q =>
        { q with txQ := tmodD q.txQ c [] (·.drop 1) }) p f := by
  simp only [selectFrame, hctrl, List.head?_nil, Option.filter_none, hreply, hclass]

theorem exec_transmitSelect_boundary {s h u : State} {p : Nat} (hh : h = handOver s s.now) (hat : atBoundary h p = true)
    (hu : u = pruneHeads (settleRescinds h p) p) : exec (.transmitSelect p) s = goOn s (selectFrame u p) := by
  rw [hh] at hat hu
  rw [hu]
  exact congrArg (goOn s) (if_pos hat)

/-- Settles O36: at a frame boundary the selection is one of its three cases. -/
theorem transmitSelectCompletes : Obligations.TransmitSelectCompletes := by
  unfold Obligations.TransmitSelectCompletes
  intro s h u p hh hat hu
  rw [exec_transmitSelect_boundary hh hat hu]
  refine ⟨?control, ?reply, ?classes⟩
  case control => exact fun f rest hctrl hclear => congrArg (goOn s) (selectFrame_control hctrl hclear)
  case reply => exact fun f hctrl hreply => congrArg (goOn s) (selectFrame_reply hctrl hreply)
  case classes => exact fun c f hctrl hreply hclass => congrArg (goOn s) (selectFrame_class hctrl hreply hclass)

end Sys2Proof.Proofs
end

section
/-! Links, telemetry samples and timestamp records (R355, R381, R390, R391, R418-R420), and with them O38. -/

namespace Sys2Proof.Proofs

open Sys2Proof Machine Claims

theorem exec_linkUp_down {s : State} {p : Nat} (hport : portExists s p = true) (hready : portReady s p = true)
    (hdown : (getPort s p).linkUp = false) (hlanes : trainLanes s p ≠ 0) (hiod : s.iodLost = false) :
    exec (.linkUp p) s = goOnKeep s
      (regOr (modPort s p fun q =>
        { q with linkUp := true, lanes := trainLanes s p, txBusyUntil := s.now, idleSince := s.now, lpiTx := false, wakeAt := none })
        (macEvent p) 1) :=
  congrArg (goOnKeep s) (if_pos (by simp [hport, hready, hdown, hlanes, hiod]))

theorem exec_telemetrySample_due {s : State} (hon : s.tlmOn = true) (hdue : netNs s % 1000 = 0) :
    exec .telemetrySample s = goOnKeep s (((portsOf s).filter fun p => bit s.tlmMask p).foldl samplePort s) :=
  congrArg (goOnKeep s) (if_pos (by simp [hon, hdue]))

-- ------------------------------------------------------------------ the timestamp FIFO (R418-R420)

/-- A head record whose ring has a slot is written once its time has come, and the records behind it wait (R419). -/
theorem tsDrain_room {s : State} {p : Nat} {r : TsRecord} {rest : List TsRecord} (hroom : tsRoom s r = true)
    (hdue : (getPort s p).drainAt ≤ s.now) :
    tsDrain p (r :: rest) s = tsWrite (modPort s p fun q => { q with fifo := rest }) p r := by
  rw [tsDrain, if_pos hroom, if_pos hdue]

/-- One whose ring has none is dropped at once, and the records behind it follow (R420). -/
theorem tsDrain_noRoom {s : State} {p : Nat} {r : TsRecord} {rest : List TsRecord} (hroom : tsRoom s r = false) :
    tsDrain p (r :: rest) s = tsDrain p rest (tsDropped (modPort s p fun q => { q with fifo := rest }) p r.inst) := by
  rw [tsDrain, if_neg (Bool.eq_false_iff.mp hroom)]

theorem tsRoom_of_ringRoom {s : State} {r : TsRecord} {q : Ring} (hring : getRing s (ringKey rkTs r.inst) = some q)
    (hroom : ringRoom q = true) : tsRoom s r = true := by
  rw [tsRoom, hring, Option.any_some, hroom]

/-- No ring, or one without a slot (R420; log entry 82). -/
theorem tsRoom_eq_false {s : State} {r : TsRecord} (h : ∀ q, getRing s (ringKey rkTs r.inst) = some q → ringRoom q = false) :
    tsRoom s r = false := by
  simpa [tsRoom, Option.any_eq_false] using h

theorem exec_tsRecordDrain_head {s : State} {p : Nat} {r : TsRecord} {rest : List TsRecord} (hfifo : (getPort s p).fifo = r :: rest) :
    exec (.tsRecordDrain p) s = goOnKeep s (tsDrain p (r :: rest) s) :=
  congrArg (fun l => goOnKeep s (tsDrain p l s)) hfifo

/-- Settles O38, clause by clause from what links, telemetry and the timestamp FIFO answer. -/
theorem linksAndRecordsComplete : Obligations.LinksAndRecordsComplete := by
  unfold Obligations.LinksAndRecordsComplete
  refine ⟨?down, ?up, ?sample, ?write, ?drop⟩
  case down => exact fun s p _ => rfl
  case up => exact fun s p hport hready hdown hlanes hiod => exec_linkUp_down hport hready hdown hlanes hiod
  case sample => exact fun s hon hdue => exec_telemetrySample_due hon hdue
  case write =>
    rintro s t p r rest q hfifo rfl hring hroom hdue
    rw [exec_tsRecordDrain_head hfifo, tsDrain_room (tsRoom_of_ringRoom hring hroom) hdue, tsWrite]
  case drop =>
    rintro s t p r rest hfifo rfl hnone
    rw [exec_tsRecordDrain_head hfifo, tsDrain_noRoom (tsRoom_eq_false hnone), tsDropped]

end Sys2Proof.Proofs
end

section
/-! Writes of filters, class buckets, the jitter seed and loopback modes, and the path mode and time role at their boundaries (R363, R369, R387,
R388, R400, R406, R546, R552), and with them O47. -/

namespace Sys2Proof.Proofs

open Sys2Proof Machine Claims

theorem reached_of_port {s : State} {off p : Nat} {d : RegDesc} (hd : regDesc off = some d) (hport : regPort off = some p)
    (hexists : portExists s p = true) (hready : blockReady s off = true) : regReached s off d :=
  ⟨hd, fun _ hq => Option.some.inj (hport.symm.trans hq) ▸ hexists, hready⟩

/-- A register whose bits are all RW holds the value written. -/
theorem written_full {s : State} {off : Nat} {v : Word} {d : RegDesc} (hrw : d.rw = 0xFFFFFFFF) (hw1c : d.w1c = 0) :
    written s off v.toNat d = v.toNat := by
  have hv : v.toNat &&& 0xFFFFFFFF = v.toNat := (Nat.and_two_pow_sub_one_eq_mod _ 32).trans (Nat.mod_eq_of_lt v.isLt)
  simp [written, hrw, hw1c, hv]

theorem storeWrite_full {s : State} {off : Nat} {v : Word} {d : RegDesc} (hrw : d.rw = 0xFFFFFFFF) (hw1c : d.w1c = 0) :
    storeWrite s off v.toNat d = regPut s off v.toNat := by
  rw [storeWrite_of_writable (.inl (by rw [hrw]; decide)), written_full hrw hw1c]

-- ------------------------------------------------------------------ filters (R363)

/-- A word of a filter entry, LO words even; the ACTION of a HI word is at most 2 (R393). -/
def filtDesc (n : Nat) : RegDesc := { rw := 0xFFFFFFFF, ranges := if n % 2 = 0 then [] else [(27, 26, 0, 2)] }

theorem fieldsInRange_filtDesc_lo (n v : Nat) : fieldsInRange (filtDesc (2 * n)) v = true := by
  simp [fieldsInRange, filtDesc]

theorem fieldsInRange_filtDesc_hi (n v : Nat) : fieldsInRange (filtDesc (2 * n + 1)) v = true ↔ bits v 27 26 ≠ 3 := by
  have haction : bits v 27 26 < 4 := Nat.mod_lt _ (by decide)
  have hodd : (2 * n + 1) % 2 = 1 := by omega
  simp only [fieldsInRange, filtDesc, hodd, Nat.one_ne_zero, if_false, List.all_cons, List.all_nil, Bool.and_true, Bool.and_eq_true,
    decide_eq_true_eq, Nat.zero_le, true_and, OfNat.ofNat_ne_zero, false_and]
  omega

section
variable {p n : Nat} (hp : p < 16) (hn : n < 512)
include hp hn

/-- Word n of a port's filter table lies in the port's block, above its other registers. -/
theorem macFilt_word : 0x20000 ≤ macFilt p + 4 * n ∧ macFilt p + 4 * n < 0x30000 ∧ (macFilt p + 4 * n - 0x20000) / 0x1000 = p
    ∧ (macFilt p + 4 * n) % 0x1000 = 0x400 + 4 * n := by
  unfold macFilt
  omega

theorem regDesc_macFilt : regDesc (macFilt p + 4 * n) = some (filtDesc n) := by
  obtain ⟨hlow, hhigh, -, hplace⟩ := macFilt_word hp hn
  have hword : (macFilt p + 4 * n) % 8 = 0 ↔ n % 2 = 0 := by omega
  simp (disch := omega) only [regDesc, if_neg, if_pos, hword, filtDesc]
  split <;> rfl

theorem regPort_macFilt : regPort (macFilt p + 4 * n) = some p := by
  obtain ⟨hlow, hhigh, hblock, -⟩ := macFilt_word hp hn
  simp (disch := omega) only [regPort, if_neg, if_pos, hblock]

theorem blockReady_macFilt (s : State) : blockReady s (macFilt p + 4 * n) = portReady s p := by
  obtain ⟨hlow, hhigh, hblock, -⟩ := macFilt_word hp hn
  simp (disch := omega) only [blockReady, if_neg, if_pos, hblock]

theorem blockWrite_macFilt (s : State) (v : Nat) (d : RegDesc) :
    blockWrite s (macFilt p + 4 * n) v d = writeFilter s p (macFilt p + 4 * n) v d := by
  obtain ⟨hlow, hhigh, hblock, hplace⟩ := macFilt_word hp hn
  simp (disch := omega) only [blockWrite, writeMac, pwrTherm, arrEvent, fltEvent, arrJoinWdog, if_neg, if_pos, hblock]

theorem exec_filterWrite_reached {s : State} {v : Word} (hexists : portExists s p = true) (hready : portReady s p = true) :
    exec (.filterWrite p n v) s = goOn s (writeFilter s p (macFilt p + 4 * n) v.toNat (filtDesc n)) := by
  have hr : regReached s (macFilt p + 4 * n) (filtDesc n) :=
    reached_of_port (regDesc_macFilt hp hn) (regPort_macFilt hp hn) hexists ((blockReady_macFilt hp hn s).trans hready)
  refine congrArg (goOn s) ((if_pos ⟨hp, hn⟩).trans ?_)
  rw [writeReg_of_reached hr, blockWrite_macFilt hp hn]

end

/-- The write of an entry's LO word puts the entry in force, for frames of later FAB cycles (R363, R392; log entry 41). -/
theorem writeFilter_lo {s : State} {p n : Nat} {v : Word} (hp : p < 16) (hn : n < 256) :
    writeFilter s p (macFilt p + 4 * (2 * n)) v.toNat (filtDesc (2 * n)) =
      (let t := regPut s (macFilt p + 8 * n) v.toNat
       { t with
         filters := tsetD t.filters (p * 256 + n) 0
           (BitVec.ofNat 64 (regRaw t (macFilt p + 8 * n) + regRaw t (macFilt p + 8 * n + 4) * 2 ^ 32))
         filtersOld := tset t.filtersOld (p * 256 + n) (fabOf t, filterBefore t (p * 256 + n))
         filtersLapsed := t.filtersLapsed.filter (· ≠ p * 256 + n) }) := by
  obtain ⟨-, -, -, hplace⟩ := macFilt_word hp (n := 2 * n) (by omega)
  have hoff : macFilt p + 4 * (2 * n) = macFilt p + 8 * n := by omega
  rw [hoff] at hplace ⊢
  have hindex : (((macFilt p + 8 * n) % 0x1000) - 0x400) / 8 = n := by omega
  have hlo : (macFilt p + 8 * n) % 8 = 0 := by omega
  simp only [writeFilter, fieldsInRange_filtDesc_lo, if_true, storeWrite_full (d := filtDesc (2 * n)) rfl rfl, hlo, hindex]

/-- The write of its HI word is stored, unless its ACTION is 3 (R393). -/
theorem writeFilter_hi {s : State} {p n : Nat} {v : Word} :
    writeFilter s p (macFilt p + 4 * (2 * n + 1)) v.toNat (filtDesc (2 * n + 1)) =
      if bits v.toNat 27 26 = 3 then rejectWrite s (macFilt p + 8 * n + 4) else regPut s (macFilt p + 8 * n + 4) v.toNat := by
  have hoff : macFilt p + 4 * (2 * n + 1) = macFilt p + 8 * n + 4 := by omega
  have hhi : (macFilt p + 8 * n + 4) % 8 ≠ 0 := by unfold macFilt; omega
  rw [hoff]
  simp only [writeFilter, fieldsInRange_filtDesc_hi, storeWrite_full (d := filtDesc (2 * n + 1)) rfl rfl, hhi, if_false, ite_not]

-- ------------------------------------------------------------------ class buckets (R387, R388)

/-- RATE of a class bucket; FORGIVE acts and is not stored (R388, R395). -/
def rateDesc : RegDesc := { reset := 0x1FFFFF, rw := 0x1FFFFF }

section
variable {k off : Nat} {rx : Bool} (hk : k < 128) (hoff : off = shpReg k (if rx then 2 else 0))
include hk hoff

/-- The RATE registers of class bucket k, of its shaper and of its policer. -/
theorem shpRate_place : 0x11000 ≤ off ∧ off < 0x11800 ∧ off % 4 = 0 ∧ (off - shpClass) / 0x10 = k
    ∧ off % 0x10 / 4 = if rx then 2 else 0 := by
  subst hoff
  cases rx <;> simp only [shpReg, shpClass, if_true, Bool.false_eq_true, if_false] <;> omega

theorem regDesc_shpRate : regDesc off = some rateDesc := by
  obtain ⟨hlow, hhigh, halign, -, hword⟩ := shpRate_place hk hoff
  simp (disch := omega) only [regDesc, shpStatus, shpTlmDropped, shpEvent, if_neg, if_pos, hword]
  cases rx <;> rfl

theorem blockWrite_shpRate (s : State) (v : Nat) (d : RegDesc) : blockWrite s off v d = writeBucket s off v d := by
  obtain ⟨hlow, hhigh, -⟩ := shpRate_place hk hoff
  simp (disch := omega) only [blockWrite, pwrTherm, arrEvent, fltEvent, arrJoinWdog, if_neg, if_pos]

theorem writeBucket_rate (s : State) (v : Word) (d : RegDesc) :
    writeBucket s off v.toNat d =
      if rateOk (bits v.toNat 20 0) then
        bucketRate (storeWrite s off v.toNat d) (classBucket (k / 8) (k % 8) rx) (bits v.toNat 20 0) (v.getLsbD 31)
      else rejectWrite s off := by
  obtain ⟨-, -, -, hbucket, hword⟩ := shpRate_place hk hoff
  have heven : (if rx then 2 else 0) % 2 = 0 := by cases rx <;> rfl
  have hside : decide ((if rx then 2 else 0) / 2 = 1) = rx := by cases rx <;> rfl
  simp only [writeBucket, hbucket, hword, heven, hside, if_true, bit_toNat]

theorem exec_shaperRateWrite_reached {s : State} {v : Word} {d : RegDesc} (hr : regReached s off d) :
    exec (.shaperRateWrite k rx v) s = goOn s
      (if rateOk (bits v.toNat 20 0) then
         bucketRate (regPut s off (written s off v.toNat d)) (classBucket (k / 8) (k % 8) rx) (bits v.toNat 20 0) (v.getLsbD 31)
       else rejectWrite s off) := by
  have hd : d.rw ≠ 0 := by
    rw [desc_of_reached hr (regDesc_shpRate hk hoff)]
    decide
  rw [← storeWrite_of_writable (.inl hd), ← writeBucket_rate hk hoff, ← blockWrite_shpRate hk hoff, ← writeReg_of_reached hr, hoff]
  exact congrArg (goOn s) (if_pos hk)

end

-- ------------------------------------------------------------------ the jitter seed (R552)

/-- TST_TS_SEED takes every value but 0 (R552, R555). -/
def tsSeedDesc : RegDesc := { reset := 1, rw := 0xFFFFFFFF, ranges := [(31, 0, 1, 0xFFFFFFFF)] }

theorem regDesc_tstTsSeed : regDesc tstTsSeed = some tsSeedDesc := rfl

theorem fieldsInRange_tsSeedDesc (v : Word) : fieldsInRange tsSeedDesc v.toNat = true ↔ v ≠ 0 := by
  have hlt : v.toNat < 2 ^ 32 := v.isLt
  have hzero : v = 0 ↔ v.toNat = 0 := BitVec.toNat_inj.symm
  simp only [fieldsInRange, tsSeedDesc, Nat.reduceAdd, Nat.reducePow, Nat.reduceSub, and_self, if_true, List.all_cons, List.all_nil,
    Bool.and_true, Bool.and_eq_true, decide_eq_true_eq, ne_eq, hzero]
  omega

theorem exec_tsSeedWrite_ready {s : State} {v : Word} (h : ready s rdyTst = true) :
    exec (.tsSeedWrite v) s = goOn s (if v = 0 then rejectWrite s tstTsSeed else { regPut s tstTsSeed v.toNat with lfsr := v }) := by
  have hwrite : writeReg s tstTsSeed v.toNat =
      if fieldsInRange tsSeedDesc v.toNat then { storeWrite s tstTsSeed v.toNat tsSeedDesc with lfsr := BitVec.ofNat 32 v.toNat }
      else rejectWrite s tstTsSeed :=
    writeReg_of_reached (reached_of_portless regDesc_tstTsSeed rfl h)
  refine congrArg (goOn s) (hwrite.trans ?_)
  simp only [fieldsInRange_tsSeedDesc, ite_not, storeWrite_full (d := tsSeedDesc) rfl rfl, BitVec.ofNat_toNat, BitVec.setWidth_eq]

-- ------------------------------------------------------------------ loopback (R546, R547)

/-- Register p of TST_LOOP_p. -/
theorem tstLoop_place {p : Nat} (hp : p < 16) : 0xA0E0 ≤ tstLoop + 4 * p ∧ tstLoop + 4 * p < 0xA120 ∧ (tstLoop + 4 * p) % 4 = 0
    ∧ (tstLoop + 4 * p - 0xA0E0) / 4 = p := by
  unfold tstLoop
  omega

theorem reached_tstLoop {s : State} {p : Nat} (hp : p < 16) (hexists : portExists s p = true) (hready : ready s rdyTst = true) :
    regReached s (tstLoop + 4 * p) { rw := 3 } := by
  obtain ⟨hlow, hhigh, halign, hplace⟩ := tstLoop_place hp
  refine reached_of_port (p := p) ?desc ?port hexists ?ready
  case desc => simp (disch := omega) only [regDesc, tstReg, if_neg, if_pos]
  case port => simp (disch := omega) only [regPort, if_neg, if_pos, hplace]
  case ready => simp (disch := omega) only [blockReady, if_neg, if_pos, hready]

theorem blockWrite_tstLoop {p : Nat} (hp : p < 16) (s : State) (v : Nat) (d : RegDesc) :
    blockWrite s (tstLoop + 4 * p) v d = writeLoop s p v := by
  obtain ⟨hlow, hhigh, -, hplace⟩ := tstLoop_place hp
  have hport : (tstLoop + 4 * p - 0xA000 - 0xE0) / 4 = p := by omega
  simp (disch := omega) only [blockWrite, writeTst, pwrTherm, arrEvent, fltEvent, arrJoinWdog, tstTsSeed, if_neg, if_pos, hport]

theorem exec_loopbackWrite_ready {s : State} {p : Nat} (hp : p < 16) (hexists : portExists s p = true) (hready : ready s rdyTst = true)
    (v : Word) : exec (.loopbackWrite p v) s = goOn s (writeLoop s p v.toNat) := by
  refine congrArg (goOn s) ((if_pos hp).trans ?_)
  rw [writeReg_of_reached (reached_tstLoop hp hexists hready), blockWrite_tstLoop hp]

theorem any_armPortWindows_eq_false {s : State} {p : Nat} (hnone : ∀ a, a ∈ tvals s.arms → armPortWindows a p = []) :
    ((tvals s.arms).any fun a => armPortWindows a p ≠ []) = false := by
  simpa using hnone

theorem writeLoop_windows {s : State} {p v : Nat} {a : Armature} (ha : a ∈ tvals s.arms) (hwindows : armPortWindows a p ≠ []) :
    writeLoop s p v = rejectWrite s (tstLoop + 4 * p) :=
  if_pos (List.any_eq_true.mpr ⟨a, ha, decide_eq_true hwindows⟩)

theorem writeLoop_same {s : State} {p v : Nat} (hnone : ∀ a, a ∈ tvals s.arms → armPortWindows a p = [])
    (hsame : regBits s (tstLoop + 4 * p) 1 0 = v % 4) : writeLoop s p v = s := by
  simp only [writeLoop, any_armPortWindows_eq_false hnone, Bool.false_eq_true, if_false, hsame, if_true]

/-- A change takes the link down, and the port leaves the ports that keep time (R547). -/
theorem writeLoop_change {s : State} {p v : Nat} (hnone : ∀ a, a ∈ tvals s.arms → armPortWindows a p = [])
    (hchange : regBits s (tstLoop + 4 * p) 1 0 ≠ v % 4) :
    writeLoop s p v =
      (let t := regOr (regPut (portDown s p) (tstLoop + 4 * p) (v % 4)) (macEvent p) 1
       let u := modPort t p fun q => { q with sfRx := sfWanted t p, sfTx := sfWanted t p }
       if u.tb.master = some p then loseMaster u else u) := by
  simp only [writeLoop, any_armPortWindows_eq_false hnone, Bool.false_eq_true, if_false, hchange]

-- ------------------------------------------------------------------ boundaries (R369, R400, R406)

theorem exec_pathModeApply_tx {s : State} {p : Nat} (hexists : portExists s p = true) (hidle : (getPort s p).txBusyUntil ≤ s.now) :
    exec (.pathModeApply p true) s = goOnKeep s (modPort s p fun q => { q with sfTx := sfWanted s p }) :=
  congrArg (goOnKeep s) ((if_neg (by simp [hexists])).trans ((if_pos rfl).trans (if_pos hidle)))

theorem exec_pathModeApply_rx {s : State} {p : Nat} (hexists : portExists s p = true) (hidle : (getPort s p).rx = none) :
    exec (.pathModeApply p false) s = goOnKeep s (modPort s p fun q => { q with sfRx := sfWanted s p }) :=
  congrArg (goOnKeep s) ((if_neg (by simp [hexists])).trans ((if_neg Bool.false_ne_true).trans (if_pos (by simp [hidle]))))

/-- Announce boundaries are the whole multiples of the interval (log entry 115). -/
theorem exec_timRoleApply_boundary {s : State} (hready : ready s rdyTim = true) (hchange : s.tb.role.toNat ≠ regRaw s timRole)
    (hboundary : s.now % ptpInterval s 2 = 0) :
    exec .timRoleApply s = goOnKeep s (changeTimRole s s.tb.role.toNat (regRaw s timRole)) :=
  congrArg (goOnKeep s) (if_pos (by simp [hready, hchange, hboundary]))

/-- Settles O47, clause by clause from what each write and each boundary answers. -/
theorem portWritesComplete : Obligations.PortWritesComplete := by
  unfold Obligations.PortWritesComplete
  refine ⟨?filterLo, ?filterHi, ?rate, ?seed, ?loopChange, ?loopWindows, ?loopSame, ?pathTx, ?pathRx, ?role⟩
  case filterLo =>
    intro s p n v hp hn hexists hready
    rw [exec_filterWrite_reached hp (by omega) hexists hready, writeFilter_lo hp hn]
  case filterHi =>
    intro s p n v hp hn hexists hready
    rw [exec_filterWrite_reached hp (by omega) hexists hready, writeFilter_hi]
  case rate => exact fun s k rx v off d hk hoff hr => exec_shaperRateWrite_reached hk hoff hr
  case seed => exact fun s v h => exec_tsSeedWrite_ready h
  case loopChange =>
    intro s p v hp hexists hready hnone hchange
    rw [exec_loopbackWrite_ready hp hexists hready, writeLoop_change hnone hchange]
  case loopWindows =>
    intro s p v a hp hexists hready ha hwindows
    rw [exec_loopbackWrite_ready hp hexists hready, writeLoop_windows ha hwindows]
  case loopSame =>
    intro s p v hp hexists hready hnone hsame
    rw [exec_loopbackWrite_ready hp hexists hready, writeLoop_same hnone hsame]
  case pathTx => exact fun s p hexists hidle => exec_pathModeApply_tx hexists hidle
  case pathRx => exact fun s p hexists hidle => exec_pathModeApply_rx hexists hidle
  case role => exact fun s hready hchange hboundary => exec_timRoleApply_boundary hready hchange hboundary

end Sys2Proof.Proofs
end

section
/-! The time base: PTP messages received and sent, loss of the master, the holdover estimate, 1PPS in and out, LLDP (R377, R400-R404, R408, R529,
R586), and with them O39. -/

namespace Sys2Proof.Proofs

open Sys2Proof Machine Claims

theorem exec_ptpMessageReceive_waiting {s : State} {p : Nat} {f : RxFrame} (hf : waiting s p (fun d => d = .timeBase) = some f) :
    exec (.ptpMessageReceive p) s = goOnKeep s
      (let t := consume s p .timeBase f
       if ptpOurs t p f.data then ptpActs t p f else modPort t p fun q => { q with ptpDropped := q.ptpDropped + 1 }) := by
  refine congrArg (goOnKeep s) ?_
  rw [hf]

/-- What a port sends of each kind of PTP message (R400-R402). -/
def ptpSends (s : State) (p : Nat) : PtpKind → State
  | .sync => sendSync s p
  | .pdelayReq => sendPdelayReq s p
  | .pdelayResp => sendPdelayResp s p
  | .announce => sendAnnounce s p

theorem exec_ptpMessageSend_enabled {s : State} {p : Nat} (k : PtpKind) (hrole : bits s.tb.role.toNat 1 0 ≠ 0) (hport : portExists s p = true)
    (hready : ready s rdyTim = true) : exec (.ptpMessageSend p k) s = goOnKeep s (ptpSends s p k) := by
  refine congrArg (goOnKeep s) ((if_pos ?enabled).trans ?sent)
  case enabled => simp [tbRole, hrole, hport, hready]
  case sent => cases k <;> rfl

theorem exec_masterLoss_unheard {s : State} (hmaster : s.tb.master.isSome = true)
    (hunheard : s.tb.lastAnnounce + 3 * ptpInterval s 2 ≤ s.now ∨ s.tb.lastSync + 3 * ptpInterval s 0 ≤ s.now) :
    exec .masterLoss s = goOnKeep s (loseMaster s) :=
  congrArg (goOnKeep s) (if_pos (by simpa [hmaster] using hunheard))

theorem exec_holdErrUpdate_due {s : State} (hst : s.tb.st = .holdover) (hdue : s.tb.holdDue ≤ s.now) :
    exec .holdErrUpdate s = goOnKeep s (refreshHold { s with tb := { s.tb with holdDue := s.now + usec } }) :=
  congrArg (goOnKeep s) (if_pos (by simp [hst, hdue]))

/-- Counting an edge leaves TIM_CTRL as it is. -/
theorem regBit_ppsCounted (s : State) (i : Nat) : regBit (regAdd s timPpsCount 1) timCtrl i = regBit s timCtrl i :=
  congrArg (bit · i) (regRaw_regPut_other (by decide))

/-- The servo takes an edge as NS = 0 in GRANDMASTER with PPS_IN set. -/
def marksSecond (s : State) : Bool := s.tb.st = .grandmaster && regBit s timCtrl 3

theorem marksSecond_ppsCounted (s : State) : marksSecond (regAdd s timPpsCount 1) = marksSecond s := by
  rw [marksSecond, regBit_ppsCounted]
  rfl

/-- An edge that marks no second is counted, and the servo takes nothing from it. -/
theorem exec_ppsInEdge_counted {s : State} (h : marksSecond s = false) : exec .ppsInEdge s = goOnKeep s (regAdd s timPpsCount 1) :=
  congrArg (goOnKeep s) (if_neg (Bool.eq_false_iff.mp ((marksSecond_ppsCounted s).trans h)))

/-- An edge that marks a second slews the clock toward it, by a free size within the bound (log entry 2). -/
theorem exec_ppsInEdge_slews {s t : State} {a : Int} (h : marksSecond s = true) (hdraw : drawInt (regAdd s timPpsCount 1) = (a, t)) :
    exec .ppsInEdge s = goOnKeep s
      (let m : Int := (clampI (-(slewBound t)) (slewBound t) a).natAbs
       let ns := netNs t % 1000000000
       { t with tb := { t.tb with adj := if ns = 0 then 0 else if ns < 500000000 then -m else m } }) := by
  refine congrArg (goOnKeep s) ((if_pos ((marksSecond_ppsCounted s).trans h)).trans ?_)
  rw [hdraw]

theorem exec_ppsOut_mark {s : State} {sec : Nat} (hready : ready s rdyTim = true) (hmark : ppsMark s = some sec)
    (hnew : s.tb.ppsSec ≠ some sec) :
    exec .ppsOut s = goOnKeep s
      (emit { s with tb := { s.tb with ppsOutUntil := s.now + 100 * msec, ppsSec := some sec } } (.pin "PPS_OUT" true)) := by
  refine congrArg (goOnKeep s) ((if_pos ?mark).trans ?rises)
  case mark => simp [hready, hmark, Ne.symm hnew]
  case rises => rw [hmark]

theorem exec_lldpReceive_waiting {s : State} {p : Nat} {f : RxFrame} (hf : waiting s p (fun d => d = .lldp) = some f) :
    exec (.lldpReceive p) s = goOnKeep s
      (let t := consume s p .lldp f
       if t.mgmt.restarting then modPort t p fun q => { q with lldpDropped := q.lldpDropped + 1 } else lldpActs t p f.data) := by
  refine congrArg (goOnKeep s) ?_
  rw [hf]

/-- Settles O39, clause by clause from what each message, loss, estimate and edge answers. -/
theorem timeBaseCommandsComplete : Obligations.TimeBaseCommandsComplete := by
  unfold Obligations.TimeBaseCommandsComplete
  refine ⟨?received, ?sent, ?loss, ?holdover, ?counted, ?slews, ?ppsOut, ?lldp⟩
  case received =>
    rintro s t p f hf rfl
    exact exec_ptpMessageReceive_waiting hf
  case sent =>
    intro s p k hrole hport hready
    rw [exec_ptpMessageSend_enabled k hrole hport hready]
    cases k <;> rfl
  case loss => exact fun s hmaster hunheard => exec_masterLoss_unheard hmaster hunheard
  case holdover =>
    intro s hst hdue
    rw [exec_holdErrUpdate_due hst hdue, refreshHold, if_pos hst]
    rfl
  case counted => exact fun s h => exec_ppsInEdge_counted (by simpa [marksSecond, or_iff_not_imp_left] using h)
  case slews =>
    rintro s t a ns hst hctrl hdraw rfl
    exact exec_ppsInEdge_slews (by simp [marksSecond, hst, hctrl]) hdraw
  case ppsOut => exact fun s sec hready hmark hnew => exec_ppsOut_mark hready hmark hnew
  case lldp =>
    rintro s t p f hf rfl
    exact exec_lldpReceive_waiting hf

end Sys2Proof.Proofs
end

section
/-! What operations leave as it is of the time, the last reset, the split and the jitter register: the operations on registers, tables, rings,
buffers and queues (R8, R435-R442, R454-R457, R522, R523). Each proof follows the branches of its definition. -/

namespace Sys2Proof.Proofs

open Sys2Proof Machine Claims

/-- The time and what KeepsSetup speaks of, as one value: a lemma that says an operation keeps it is an equation, by which simp goes through the
operations that a later one is made of. -/
def setupOf (s : State) : Nat × Nat × Nat × Word := (s.now, s.resetAt, s.split, s.lfsr)

/-- What each step of a fold keeps, the fold keeps. -/
theorem foldl_keeps {α σ γ : Type} (g : σ → γ) {f : σ → α → σ} (hf : ∀ s x, g (f s x) = g s) (l : List α) (s : σ) : g (l.foldl f s) = g s :=
  (List.foldl_hom g (g₂ := fun c _ => c) fun s x => (hf s x).symm).symm.trans (List.foldl_fixed ..)

@[simp] theorem setupOf_foldl {α : Type} {f : State → α → State} (hf : ∀ s x, setupOf (f s x) = setupOf s) (l : List α) (s : State) :
    setupOf (l.foldl f s) = setupOf s :=
  foldl_keeps setupOf hf l s

@[simp] theorem setupOf_ite (c : Prop) [Decidable c] (s t : State) : setupOf (if c then s else t) = if c then setupOf s else setupOf t :=
  apply_ite ..

-- ------------------------------------------------------------------ fields written beside the ones of setupOf

-- An operation without branches is proved by (rfl), not by rfl, here and below: else its lemma would also be one of dsimp, which then unfolds the
-- operation where simp looks for the hypothesis of setupOf_foldl.

@[simp] theorem setupOf_withMsgs (s : State) (l : Table Message) : setupOf { s with msgs := l } = setupOf s := (rfl)
@[simp] theorem setupOf_withNewMsg (s : State) (id : Nat) (l : Table Message) : setupOf { s with nextId := id, msgs := l } = setupOf s := (rfl)
@[simp] theorem setupOf_withReplySeq (s : State) (l : Table (BitVec 32)) : setupOf { s with replySeq := l } = setupOf s := (rfl)
@[simp] theorem setupOf_withQueues (s : State) (q : Table InQ) (x : Table XFifo) : setupOf { s with inqs := q, xfifos := x } = setupOf s := (rfl)
@[simp] theorem setupOf_withTimeBase (s : State) (b : TimeBase) : setupOf { s with tb := b } = setupOf s := (rfl)
@[simp] theorem setupOf_withBuckets (s : State) (l : Table Bucket) : setupOf { s with buckets := l } = setupOf s := (rfl)
@[simp] theorem setupOf_withRetired (s : State) (l : List Channel) : setupOf { s with retired := l } = setupOf s := (rfl)
@[simp] theorem setupOf_withByHand (s : State) (l : List Channel) : setupOf { s with byHand := l } = setupOf s := (rfl)
@[simp] theorem setupOf_withWdogPrev (s : State) (w : Option (Nat × Nat)) : setupOf { s with wdogPrev := w } = setupOf s := (rfl)

@[simp] theorem setupOf_withArmStops (s : State) (l : List (List Nat × List Nat × Bool)) : setupOf { s with armStops := l } = setupOf s :=
  (rfl)

@[simp] theorem setupOf_withFilters (s : State) (l : Table DWord) (o : Table (Nat × DWord)) (g : List Nat) :
    setupOf { s with filters := l, filtersOld := o, filtersLapsed := g } = setupOf s :=
  (rfl)

@[simp] theorem setupOf_withBuilt (s : State) (m : Table MemRegion) (r : Table Machine.Ring) (t : Table TableEntry) (o : Table (Nat × TableEntry))
    (v : Table Service) : setupOf { s with mrs := m, rings := r, tables := t, tablesOld := o, services := v } = setupOf s :=
  (rfl)

@[simp] theorem setupOf_regPut (s : State) (off v : Nat) : setupOf (regPut s off v) = setupOf s := (rfl)
@[simp] theorem setupOf_regOr (s : State) (off mask : Nat) : setupOf (regOr s off mask) = setupOf s := (rfl)
@[simp] theorem setupOf_regClr (s : State) (off mask : Nat) : setupOf (regClr s off mask) = setupOf s := (rfl)
@[simp] theorem setupOf_regAdd (s : State) (off n : Nat) : setupOf (regAdd s off n) = setupOf s := (rfl)

@[simp] theorem setupOf_rejectWrite (s : State) (off : Nat) : setupOf (rejectWrite s off) = setupOf s := by
  simp only [rejectWrite]
  split <;> rfl

@[simp] theorem setupOf_emit (s : State) (o : Output) : setupOf (emit s o) = setupOf s := (rfl)
@[simp] theorem setupOf_modInst (s : State) (n : Nat) (f : Instance → Instance) : setupOf (modInst s n f) = setupOf s := (rfl)
@[simp] theorem setupOf_modUnit (s : State) (u : Nat) (f : MUnit → MUnit) : setupOf (modUnit s u f) = setupOf s := (rfl)
@[simp] theorem setupOf_modPort (s : State) (p : Nat) (f : Port → Port) : setupOf (modPort s p f) = setupOf s := (rfl)
@[simp] theorem setupOf_modMsg (s : State) (m : Nat) (f : Message → Message) : setupOf (modMsg s m f) = setupOf s := (rfl)
@[simp] theorem setupOf_modQp (s : State) (i : Nat) (f : Qp → Qp) : setupOf (modQp s i f) = setupOf s := (rfl)
@[simp] theorem setupOf_modRing (s : State) (k : Nat) (f : Ring → Ring) : setupOf (modRing s k f) = setupOf s := (rfl)
@[simp] theorem setupOf_modCluster (s : State) (c : Nat) (f : Cluster → Cluster) : setupOf (modCluster s c f) = setupOf s := (rfl)
@[simp] theorem setupOf_modArm (s : State) (a : Nat) (f : Armature → Armature) : setupOf (modArm s a f) = setupOf s := (rfl)
@[simp] theorem setupOf_countInst (s : State) (n k add : Nat) : setupOf (countInst s n k add) = setupOf s := (rfl)
@[simp] theorem setupOf_countBinding (s : State) (inst b k add : Nat) : setupOf (countBinding s inst b k add) = setupOf s := (rfl)
@[simp] theorem setupOf_countPort (s : State) (p k add : Nat) : setupOf (countPort s p k add) = setupOf s := (rfl)

@[simp] theorem setupOf_hostWrite (s : State) (inst link addr : Nat) (data : Bytes) : setupOf (hostWrite s inst link addr data) = setupOf s := by
  simp only [hostWrite]
  split
  · rfl
  · split <;> split <;> rfl

@[simp] theorem setupOf_raiseIfDue (s : State) (key : Nat) : setupOf (raiseIfDue s key) = setupOf s := by
  simp only [raiseIfDue]
  split <;> simp

@[simp] theorem setupOf_ringPush (s : State) (key : Nat) (rec : Bytes) : setupOf (ringPush s key rec) = setupOf s := by
  simp only [ringPush]
  split <;> simp

@[simp] theorem setupOf_writeEventTo (s : State) (rep : Report) (time count n : Nat) : setupOf (writeEventTo s rep time count n) = setupOf s := by
  simp only [writeEventTo]
  split
  · split <;> simp
  · rfl

@[simp] theorem setupOf_writeEvent (s : State) (rep : Report) (time count : Nat) :
    setupOf (writeEvent s rep time count) = setupOf s := by simp [writeEvent]

@[simp] theorem setupOf_latchWitness (s : State) (rep : Report) : setupOf (latchWitness s rep) = setupOf s := by simp [latchWitness]

@[simp] theorem setupOf_report (s : State) (rep : Report) : setupOf (report s rep) = setupOf s := by
  simp only [report]
  split
  · rfl
  · split
    · exact setupOf_latchWitness ..
    · split
      · exact setupOf_latchWitness ..
      · simp

@[simp] theorem setupOf_freeBuf (s : State) (n : Nat) : setupOf (freeBuf s n) = setupOf s := (rfl)
@[simp] theorem setupOf_subOcc (s : State) (p c n : Nat) : setupOf (subOcc s p c n) = setupOf s := (rfl)

@[simp] theorem setupOf_freeSteer (s : State) (id : Nat) : setupOf (freeSteer s id) = setupOf s := by
  simp only [freeSteer]
  split <;> simp

@[simp] theorem setupOf_dropMsgsOf (s : State) (i : Nat) : setupOf (dropMsgsOf s i) = setupOf s := by simp [dropMsgsOf]
@[simp] theorem setupOf_unqueue (s : State) (p : Nat) (f : Port → Port) : setupOf (unqueue s p f) = setupOf s := (rfl)
@[simp] theorem setupOf_dropQueued (s : State) (i : Nat) : setupOf (dropQueued s i) = setupOf s := (rfl)

@[simp] theorem setupOf_qpSilentError (s : State) (i : Nat) : setupOf (qpSilentError s i) = setupOf s := by
  simp only [qpSilentError]
  split <;> simp

@[simp] theorem setupOf_cqPost (s : State) (cq : Nat) (rec : Bytes) : setupOf (cqPost s cq rec) = setupOf s := by
  simp only [cqPost]
  split <;> simp

@[simp] theorem setupOf_completeCmd (s : State) (r : CmdRing) (tag index : BitVec 32) (opcode status bytes : Nat)
    (result : List (Nat × Nat × Nat)) : setupOf (completeCmd s r tag index opcode status bytes result) = setupOf s := by simp [completeCmd]

@[simp] theorem setupOf_finishCmd (s : State) (id status : Nat) (result : List (Nat × Nat × Nat)) :
    setupOf (finishCmd s id status result) = setupOf s := by
  simp only [finishCmd]
  split
  · rfl
  · exact setupOf_completeCmd ..

@[simp] theorem setupOf_finishCmd? (s : State) (id : Option Nat) (status : Nat) (result : List (Nat × Nat × Nat)) :
    setupOf (finishCmd? s id status result) = setupOf s := by
  simp only [finishCmd?]
  split <;> simp

@[simp] theorem setupOf_bucketCharge (s : State) (k bytes : Nat) : setupOf (bucketCharge s k bytes) = setupOf s := by
  simp only [bucketCharge]
  split <;> rfl

@[simp] theorem setupOf_bucketRate (s : State) (k rate : Nat) (forgive : Bool) : setupOf (bucketRate s k rate forgive) = setupOf s := (rfl)
@[simp] theorem setupOf_bucketBurst (s : State) (k burst : Nat) : setupOf (bucketBurst s k burst) = setupOf s := (rfl)
@[simp] theorem setupOf_queueTc (s : State) (p c : Nat) (f : TxFrame) : setupOf (queueTc s p c f) = setupOf s := by simp [queueTc]
@[simp] theorem setupOf_queueReply (s : State) (p : Nat) (f : TxFrame) : setupOf (queueReply s p f) = setupOf s := by simp [queueReply]
@[simp] theorem setupOf_queueRescind (s : State) (p : Nat) (f : TxFrame) : setupOf (queueRescind s p f) = setupOf s := by simp [queueRescind]
@[simp] theorem setupOf_queueCtrl (s : State) (p : Nat) (data : Bytes) : setupOf (queueCtrl s p data) = setupOf s := by simp [queueCtrl]
@[simp] theorem setupOf_sendPause (s : State) (p c quanta : Nat) : setupOf (sendPause s p c quanta) = setupOf s := by simp [sendPause]
@[simp] theorem setupOf_checkXoff (s : State) (p c : Nat) : setupOf (checkXoff s p c) = setupOf s := by simp [checkXoff]

@[simp] theorem setupOf_takeBuf (s : State) (n : Nat) : setupOf (takeBuf s n) = setupOf s := by
  simp only [takeBuf]
  split <;> rfl

@[simp] theorem setupOf_addOcc (s : State) (p c n : Nat) : setupOf (addOcc s p c n) = setupOf s := by simp [addOcc]

end Sys2Proof.Proofs
end

section
/-! The same of queue pairs and of messages on their way: completions, deliveries, replies and verdicts (R57-R66, R320-R327, R450). -/

namespace Sys2Proof.Proofs

open Sys2Proof Machine Claims

@[simp] theorem setupOf_queueAhead (s : State) (i : Nat) (q : Qp) (data : Bytes) :
    setupOf (queueAhead s i q data) = setupOf s := by simp [queueAhead]

@[simp] theorem setupOf_chargeShapers (s : State) (i : Nat) (q : Qp) (n : Nat) :
    setupOf (chargeShapers s i q n) = setupOf s := by simp [chargeShapers]

@[simp] theorem setupOf_enterCtl (s : State) (i : Nat) (q : Qp) (data : Bytes) : setupOf (enterCtl s i q data) = setupOf s := by simp [enterCtl]

@[simp] theorem setupOf_sendAck (s : State) (i : Nat) : setupOf (sendAck s i) = setupOf s := by
  simp only [sendAck]
  split <;> simp

@[simp] theorem setupOf_updateCredit (s : State) (i : Nat) : setupOf (updateCredit s i) = setupOf s := by
  simp only [updateCredit]
  split <;> simp

@[simp] theorem setupOf_retireList (s : State) (i : Nat) (l : List SendWr) : setupOf (retireList s i l) = setupOf s := by
  induction l generalizing s with
  | nil => rfl
  | cons w t ih =>
    simp only [retireList]
    repeat' split
    all_goals simp [ih]

@[simp] theorem setupOf_retireSends (s : State) (i : Nat) : setupOf (retireSends s i) = setupOf s := by
  simp only [retireSends]
  split <;> simp

@[simp] theorem setupOf_postRecv (s : State) (i : Nat) (q : Qp) (r : RecvRec) : setupOf (postRecv s i q r) = setupOf s := by simp [postRecv]

@[simp] theorem setupOf_drainSq (s : State) (i : Nat) : setupOf (drainSq s i).1 = setupOf s := by
  simp only [drainSq]
  split <;> rfl

@[simp] theorem setupOf_flushQp (s : State) (i : Nat) (sendFail recvFail : Option (BitVec 32 × Nat)) :
    setupOf (flushQp s i sendFail recvFail) = setupOf s := by
  simp only [flushQp]
  split <;> simp

@[simp] theorem setupOf_qpError (s : State) (i : Nat) (sendFail recvFail : Option (BitVec 32 × Nat)) :
    setupOf (qpError s i sendFail recvFail) = setupOf s := by
  simp only [qpError]
  split <;> simp

@[simp] theorem setupOf_freePeers (s : State) : setupOf (freePeers s) = setupOf s := (rfl)

@[simp] theorem setupOf_checkRetain (s : State) (id : Nat) : setupOf (checkRetain s id) = setupOf s := by
  simp only [checkRetain]
  split
  · split <;> simp
  · rfl

@[simp] theorem setupOf_chargeHeld (s : State) (id : Nat) : setupOf (chargeHeld s id) = setupOf s := by
  simp only [chargeHeld]
  split <;> simp

@[simp] theorem setupOf_hostWriteSome (s : State) (inst link addr : Nat) (data : Bytes) :
    setupOf (hostWriteSome s inst link addr data) = setupOf s := by simp [hostWriteSome]

@[simp] theorem setupOf_postFor (s : State) (i : Nat) (q : Qp) (m : Message) (r : RecvRec) :
    setupOf (postFor s i q m r) = setupOf s := by simp [postFor]

@[simp] theorem setupOf_deliverSteered (s : State) (id len : Nat) (target : Option SteerTo) :
    setupOf (deliverSteered s id len target) = setupOf s := by
  simp only [deliverSteered]
  repeat' split
  all_goals simp

@[simp] theorem setupOf_deliverRaw (s : State) (m : Message) : setupOf (deliverRaw s m) = setupOf s := by
  simp only [deliverRaw]
  split
  · rfl
  · split <;> simp

@[simp] theorem setupOf_mirrorFrames (s : State) (id p : Nat) : setupOf (mirrorFrames s id p) = setupOf s := by
  simp only [mirrorFrames]
  split <;> simp

@[simp] theorem setupOf_mirrorMore (s : State) (id : Nat) : setupOf (mirrorMore s id) = setupOf s := by
  simp only [mirrorMore]
  split
  · split <;> simp
  · rfl

@[simp] theorem setupOf_mirrorQp (s : State) (id len : Nat) : setupOf (mirrorQp s id len) = setupOf s := by
  simp only [mirrorQp]
  repeat' split
  all_goals simp

@[simp] theorem setupOf_settleRescinds (s : State) (p : Nat) : setupOf (settleRescinds s p) = setupOf s := by simp [settleRescinds]

@[simp] theorem setupOf_dropCtl (s : State) (id : Nat) (m : Message) : setupOf (dropCtl s id m) = setupOf s := by
  simp only [dropCtl]
  split <;> rfl

@[simp] theorem setupOf_endMsg (s : State) (id : Nat) : setupOf (endMsg s id) = setupOf s := by
  simp only [endMsg]
  split <;> simp

/-- Each way of a message but the normal one is known; the normal one is the caller's. -/
@[simp] theorem setupOf_deliverWay {normal : State → State} (hn : ∀ s, setupOf (normal s) = setupOf s) (s : State) (id len : Nat)
    (target : Option SteerTo) (w : Way) : setupOf (deliverWay s id len normal target w) = setupOf s := by
  cases w with
  | drop => rfl
  | normal => exact hn s
  | steer => exact setupOf_deliverSteered ..

@[simp] theorem setupOf_deliverMsg {normal : State → State} (hn : ∀ s, setupOf (normal s) = setupOf s) (s : State) (id len : Nat) :
    setupOf (deliverMsg s id len normal) = setupOf s := by
  simp only [deliverMsg]
  split
  · rfl
  · split <;> simp [hn]

@[simp] theorem setupOf_finishRaw (s : State) (id : Nat) : setupOf (finishRaw s id) = setupOf s := by
  simp only [finishRaw]
  split <;> simp

@[simp] theorem setupOf_deliverWgt (i msn : Nat) (r : RxMsg) (base : RecvRec) (s : State) : setupOf (deliverWgt i msn r base s) = setupOf s := by
  simp only [deliverWgt]
  repeat' split
  all_goals simp

@[simp] theorem setupOf_completeOne (s : State) (i msn : Nat) (r : RxMsg) : setupOf (completeOne s i msn r) = setupOf s := by
  simp only [completeOne]
  split <;> simp

@[simp] theorem setupOf_completeRx (k : Nat) (s : State) (n2 : Nat) : setupOf (completeRx k s n2) = setupOf s := by
  induction k generalizing s with
  | zero => rfl
  | succ k ih =>
    simp only [completeRx]
    repeat' split
    all_goals simp [ih]

@[simp] theorem setupOf_completeAll (s : State) (i : Nat) : setupOf (completeAll s i) = setupOf s := by simp [completeAll]

@[simp] theorem setupOf_placeAt (s : State) (q : Qp) (r : RxMsg) (off : Nat) (body : Bytes) : setupOf (placeAt s q r off body) = setupOf s := by
  simp only [placeAt]
  split <;> simp

@[simp] theorem setupOf_placeHeld (s : State) (id : Nat) : setupOf (placeHeld s id) = setupOf s := by
  simp only [placeHeld]
  repeat' split
  all_goals simp

@[simp] theorem setupOf_modSend (s : State) (i msn : Nat) (f : SendWr → SendWr) : setupOf (modSend s i msn f) = setupOf s := (rfl)

@[simp] theorem setupOf_placeRead (s : State) (i : Nat) (q : Qp) (w : SendWr) (off : Nat) (body : Bytes) :
    setupOf (placeRead s i q w off body) = setupOf s := by simp [placeRead]

@[simp] theorem setupOf_finishRead (s : State) (i msn : Nat) : setupOf (finishRead s i msn) = setupOf s := by
  simp only [finishRead]
  split
  · rfl
  · split <;> simp

@[simp] theorem setupOf_placeHeldRead (s : State) (i msn : Nat) : setupOf (placeHeldRead s i msn) = setupOf s := by
  simp only [placeHeldRead]
  split
  · rfl
  · split <;> simp

@[simp] theorem setupOf_completeResp (s : State) (id : Nat) (m : Message) (i : Nat) : setupOf (completeResp s id m i) = setupOf s := by
  simp only [completeResp]
  repeat' split
  all_goals simp

@[simp] theorem setupOf_tryComplete (s : State) (id : Nat) : setupOf (tryComplete s id) = setupOf s := by
  simp only [tryComplete]
  repeat' split
  all_goals simp

@[simp] theorem setupOf_trimUnit (s : State) (u : Nat) : setupOf (trimUnit s u) = setupOf s := (rfl)
@[simp] theorem setupOf_setAside (s : State) (u lane copy : Nat) : setupOf (setAside s u lane copy) = setupOf s := by simp [setAside]

@[simp] theorem setupOf_countMsg (s : State) (m : Message) (k n : Nat) : setupOf (countMsg s m k n) = setupOf s := by
  simp only [countMsg]
  split <;> rfl

@[simp] theorem setupOf_unjudge (s : State) (id cause : Nat) : setupOf (unjudge s id cause) = setupOf s := by
  simp only [unjudge]
  repeat' split
  all_goals simp

@[simp] theorem setupOf_holdReply (s : State) (id : Nat) (x : Making) : setupOf (holdReply s id x) = setupOf s := (rfl)

@[simp] theorem setupOf_handFollowup (s : State) (id : Nat) (m : Message) (k : Binding) (x : Making) :
    setupOf (handFollowup s id m k x) = setupOf s := by
  simp only [handFollowup]
  split <;> simp

@[simp] theorem setupOf_handReply (s : State) (id : Nat) (m : Message) (k : Binding) (x : Making) :
    setupOf (handReply s id m k x) = setupOf s := by simp [handReply]

@[simp] theorem setupOf_handOne (s : State) (id : Nat) (x : Making) : setupOf (handOne s id x) = setupOf s := by
  simp only [handOne]
  split
  · rfl
  · split <;> simp

@[simp] theorem setupOf_handOver (s : State) (t : Nat) : setupOf (handOver s t) = setupOf s := by simp [handOver]

@[simp] theorem setupOf_rescind (s : State) (id cause : Nat) : setupOf (rescind s id cause) = setupOf s := by
  simp only [rescind]
  split
  · rfl
  · split <;> simp

@[simp] theorem setupOf_discardMsg (s : State) (id : Nat) : setupOf (discardMsg s id) = setupOf s := by
  simp only [discardMsg]
  repeat' split
  all_goals simp

@[simp] theorem setupOf_checkSlot (s : State) (id : Nat) : setupOf (checkSlot s id) = setupOf s := by
  simp only [checkSlot]
  split <;> simp

@[simp] theorem setupOf_confirmFull (s : State) (id : Nat) : setupOf (confirmFull s id) = setupOf s := by
  simp only [confirmFull]
  repeat' split
  all_goals simp

end Sys2Proof.Proofs
end

section
/-! The same of the frames that a port receives, from the start of a message to the end of the frame (R48-R54, R358-R370). -/

namespace Sys2Proof.Proofs

open Sys2Proof Machine Claims

@[simp] theorem setupOf_startWindow (s : State) (id : Nat) (unit : Option Nat) (k : Binding) : setupOf (startWindow s id unit k) = setupOf s := by
  simp only [startWindow]
  repeat' split
  all_goals simp

@[simp] theorem setupOf_bindMsg (s : State) (id : Nat) (rx : RxFrame) (qp : Option Nat) : setupOf (bindMsg s id rx qp) = setupOf s := by
  simp only [bindMsg]
  split
  · rfl
  · split <;> simp

@[simp] theorem setupOf_admitFrame (s : State) (p : Nat) (f : RxFrame) : setupOf (admitFrame s p f) = setupOf s := by simp [admitFrame]

@[simp] theorem setupOf_releaseFrame (s : State) (p : Nat) (f : RxFrame) (n : Nat) :
    setupOf (releaseFrame s p f n) = setupOf s := by simp [releaseFrame]

@[simp] theorem setupOf_freeKept (s : State) (p : Nat) (f : RxFrame) : setupOf (freeKept s p f) = setupOf s := by simp [freeKept]
@[simp] theorem setupOf_countFec (s : State) (p : Nat) (l : LineState) : setupOf (countFec s p l) = setupOf s := by simp [countFec]
@[simp] theorem setupOf_markRx (s : State) (p id : Nat) : setupOf (markRx s p id) = setupOf s := (rfl)

@[simp] theorem setupOf_startRaw (s : State) (p inst queue : Nat) (f : RxFrame) (t0 pb : Nat) (sf : Bool) :
    setupOf (startRaw s p inst queue f t0 pb sf) = setupOf s := by simp [startRaw]

@[simp] theorem setupOf_startCtl (s : State) (p inst : Nat) (f : RxFrame) (t0 pb : Nat) (sf : Bool) :
    setupOf (startCtl s p inst f t0 pb sf) = setupOf s := by
  simp only [startCtl]
  repeat' split
  all_goals simp

@[simp] theorem setupOf_startWgt (s : State) (p i : Nat) (q : Qp) (k : Pkt) (f : RxFrame) (t0 pb : Nat) (sf gap : Bool) :
    setupOf (startWgt s p i q k f t0 pb sf gap) = setupOf s := by
  simp only [startWgt]
  repeat' split
  all_goals simp

@[simp] theorem setupOf_continueWgt (s : State) (p id : Nat) (q : Qp) (k : Pkt) (f : RxFrame) (t0 pb : Nat) (sf : Bool) :
    setupOf (continueWgt s p id q k f t0 pb sf) = setupOf s := by
  simp only [continueWgt]
  split <;> simp

@[simp] theorem setupOf_wedgePacket (s : State) (p i : Nat) (q : Qp) (k : Pkt) (f : RxFrame) (t0 pb : Nat) (sf : Bool) :
    setupOf (wedgePacket s p i q k f t0 pb sf) = setupOf s := by
  simp only [wedgePacket]
  split
  · split <;> simp
  · rfl

@[simp] theorem setupOf_respPacket (s : State) (p i : Nat) (q : Qp) (w : SendWr) (k : Pkt) (f : RxFrame) (t0 pb : Nat) (sf : Bool) :
    setupOf (respPacket s p i q w k f t0 pb sf) = setupOf s := by
  simp only [respPacket]
  split <;> simp

@[simp] theorem setupOf_beginMessage (s : State) (p : Nat) (f : RxFrame) (t0 pb : Nat) (sf : Bool) :
    setupOf (beginMessage s p f t0 pb sf) = setupOf s := by
  simp only [beginMessage]
  repeat' split
  all_goals simp

@[simp] theorem setupOf_chargePolicers (s : State) (p : Nat) (inst : Option Nat) (f : RxFrame) (wgt : Bool) :
    setupOf (chargePolicers s p inst f wgt) = setupOf s := by simp [chargePolicers]

@[simp] theorem setupOf_keepFrame (s : State) (p : Nat) (f : RxFrame) : setupOf (keepFrame s p f) = setupOf s := (rfl)
@[simp] theorem setupOf_shrinkFrame (s : State) (p : Nat) (f : RxFrame) (n m : Nat) : setupOf (shrinkFrame s p f n m) = setupOf s := (rfl)
@[simp] theorem setupOf_keepPacket (s : State) (p : Nat) (f : RxFrame) (verdict : Bool) : setupOf (keepPacket s p f verdict) = setupOf s := (rfl)

@[simp] theorem setupOf_endWgtFrame (s : State) (id : Nat) (f : RxFrame) (good : Bool) : setupOf (endWgtFrame s id f good) = setupOf s := by
  simp only [endWgtFrame]
  split
  · rfl
  · split <;> simp

@[simp] theorem setupOf_endSteered (s : State) (p : Nat) (f : RxFrame) (good : Bool) (inst : Nat) (wgt : Bool) :
    setupOf (endSteered s p f good inst wgt) = setupOf s := by
  simp only [endSteered]
  repeat' split
  all_goals simp

@[simp] theorem setupOf_remoteBack (s : State) (p : Nat) (f : RxFrame) : setupOf (remoteBack s p f) = setupOf s := by simp [remoteBack]

@[simp] theorem setupOf_endFrame (s : State) (p : Nat) (f : RxFrame) (d : Dest) : setupOf (endFrame s p f d) = setupOf s := by
  simp only [endFrame]
  repeat' split
  all_goals simp

end Sys2Proof.Proofs
end

section
/-! The same of ports that go down and of the time base that loses its master (R355, R381, R403). -/

namespace Sys2Proof.Proofs

open Sys2Proof Machine Claims

@[simp] theorem setupOf_retireRawList (key queue : Nat) (l : List RawOut) (s : State) : setupOf (retireRawList key queue l s) = setupOf s := by
  induction l generalizing s with
  | nil => rfl
  | cons w t ih =>
    simp only [retireRawList]
    split
    · rfl
    · split <;> simp [ih]

@[simp] theorem setupOf_rawFinish (s : State) (inst queue : Nat) (index : BitVec 32) (status : Nat) :
    setupOf (rawFinish s inst queue index status) = setupOf s := by
  simp only [rawFinish]
  split <;> simp

@[simp] theorem setupOf_rawUnsent (s : State) (f : TxFrame) : setupOf (rawUnsent s f) = setupOf s := by
  simp only [rawUnsent]
  split
  · exact setupOf_rawFinish ..
  · rfl

@[simp] theorem setupOf_cutFrame (s : State) (p : Nat) : setupOf (cutFrame s p) = setupOf s := by
  simp only [cutFrame]
  split
  · rfl
  · split <;> simp

@[simp] theorem setupOf_glazeUnsent (s : State) (f : TxFrame) : setupOf (glazeUnsent s f) = setupOf s := by
  simp only [glazeUnsent]
  split <;> rfl

@[simp] theorem setupOf_discardQueued (s : State) (p : Nat) : setupOf (discardQueued s p) = setupOf s := by simp [discardQueued]
@[simp] theorem setupOf_dropDelays (s : State) (p : Nat) : setupOf (dropDelays s p) = setupOf s := by simp [dropDelays]
@[simp] theorem setupOf_portDown (s : State) (p : Nat) : setupOf (portDown s p) = setupOf s := by simp [portDown]

@[simp] theorem setupOf_dropTakeover (s : State) (p : Nat) : setupOf (dropTakeover s p) = setupOf s := by
  simp only [dropTakeover]
  split <;> simp

@[simp] theorem setupOf_enterHoldover (s : State) : setupOf (enterHoldover s) = setupOf s := (rfl)
@[simp] theorem setupOf_selectMaster (s : State) (x : Nat × Nat × Bytes × Nat) : setupOf (selectMaster s x) = setupOf s := (rfl)

@[simp] theorem setupOf_loseMaster (s : State) : setupOf (loseMaster s) = setupOf s := by
  simp only [loseMaster]
  split <;> simp

@[simp] theorem setupOf_dropInbox (s : State) (p : Nat) : setupOf (dropInbox s p) = setupOf s := by simp [dropInbox]

@[simp] theorem setupOf_removePort (s : State) (p : Nat) : setupOf (removePort s p) = setupOf s :=
  (setupOf_ite ..).trans (by simp)

end Sys2Proof.Proofs
end

section
/-! The same of units that are squashed and of faults (R207, R208, R509-R517). -/

namespace Sys2Proof.Proofs

open Sys2Proof Machine Claims

@[simp] theorem setupOf_countService (s : State) (k c n : Nat) : setupOf (countService s k c n) = setupOf s := (rfl)
@[simp] theorem setupOf_subService (s : State) (k c n : Nat) : setupOf (subService s k c n) = setupOf s := (rfl)

@[simp] theorem setupOf_queueResult (s : State) (ui qp at_ : Nat) (slot : Option Nat) (data : Bytes) :
    setupOf (queueResult s ui qp at_ slot data) = setupOf s := (rfl)

@[simp] theorem setupOf_modSlot (s : State) (ui k : Nat) (f : GenSlot → GenSlot) : setupOf (modSlot s ui k f) = setupOf s := (rfl)
@[simp] theorem setupOf_scrubKv (s : State) (u : MUnit) (k : Nat) : setupOf (scrubKv s u k) = setupOf s := (rfl)

@[simp] theorem setupOf_closeSlot (s : State) (ui k : Nat) : setupOf (closeSlot s ui k) = setupOf s := by
  simp only [closeSlot]
  split <;> simp

@[simp] theorem setupOf_endRequest (s : State) (ui k st : Nat) : setupOf (endRequest s ui k st) = setupOf s := by
  simp only [endRequest]
  split
  · rfl
  · split <;> simp

@[simp] theorem setupOf_closeAllSlots (s : State) (ui st : Nat) : setupOf (closeAllSlots s ui st) = setupOf s := by
  simp only [closeAllSlots]
  split <;> simp

@[simp] theorem setupOf_markClosing (s : State) (qi : Nat) : setupOf (markClosing s qi) = setupOf s := (rfl)
@[simp] theorem setupOf_setPattern (s : State) (c at_ : Nat) (p : Pattern) : setupOf (setPattern s c at_ p) = setupOf s := (rfl)
@[simp] theorem setupOf_leavePatterns (s : State) (ui : Nat) (u : MUnit) : setupOf (leavePatterns s ui u) = setupOf s := by simp [leavePatterns]

@[simp] theorem setupOf_startDrain (s : State) (ui : Nat) (bound : Nat) (toBisque : Bool) (cmd : Option Nat) (wdog : Bool) :
    setupOf (startDrain s ui bound toBisque cmd wdog) = setupOf s := (rfl)

@[simp] theorem setupOf_startScrub (s : State) (ui : Nat) (cmd : Option Nat) (st : Nat) : setupOf (startScrub s ui cmd st) = setupOf s := (rfl)

@[simp] theorem setupOf_removeArm (s : State) (n : Nat) : setupOf (removeArm s n) = setupOf s := by
  simp only [removeArm]
  split
  · rfl
  · refine (setupOf_foldl (fun _ _ => ?_) _ _).trans ?_ <;> rfl

@[simp] theorem setupOf_discardTokens (s : State) (ui : Nat) (u : MUnit) : setupOf (discardTokens s ui u) = setupOf s := by simp [discardTokens]

@[simp] theorem setupOf_squashMsgs (s : State) (ui cause : Nat) : setupOf (squashMsgs s ui cause).1 = setupOf s := by
  refine foldl_keeps (fun a : State × Nat => setupOf a.1) (fun a m => ?_) _ _
  repeat' split
  all_goals simp

@[simp] theorem setupOf_countReset (s : State) (inst msgs : Nat) : setupOf (countReset s inst msgs) = setupOf s := (rfl)

@[simp] theorem setupOf_swapEntry (s : State) (ui : Nat) : setupOf (swapEntry s ui) = setupOf s := by
  simp only [swapEntry]
  repeat' split
  all_goals simp

@[simp] theorem setupOf_endSwap (s : State) (ui st : Nat) : setupOf (endSwap s ui st) = setupOf s := by
  simp only [endSwap]
  split <;> simp

@[simp] theorem setupOf_squashUnit (s : State) (ui : Nat) : setupOf (squashUnit s ui) = setupOf s := by
  simp only [squashUnit]
  split
  · rfl
  · split
    · rfl
    · rw [setupOf_leavePatterns]
      split <;> simp

@[simp] theorem setupOf_releaseLeaving (s : State) (cs : List Nat) : setupOf (releaseLeaving s cs) = setupOf s := by simp [releaseLeaving]

@[simp] theorem setupOf_holdFault (s : State) (ui : Nat) (named : List (Nat × Nat)) : setupOf (holdFault s ui named).1 = setupOf s := by
  simp only [holdFault]
  repeat' split
  all_goals simp

@[simp] theorem setupOf_holdFaults (s : State) (us : List (Nat × List (Nat × Nat))) : setupOf (holdFaults s us).1 = setupOf s := by
  refine foldl_keeps (fun a : State × Nat => setupOf a.1) (fun a x => ?_) us _
  exact setupOf_holdFault ..

@[simp] theorem setupOf_countError (s : State) (c : Channel) : setupOf (countError s c).1 = setupOf s := (rfl)

@[simp] theorem setupOf_logHistory (s : State) (c : Channel) (source : Nat) : setupOf (logHistory s c source) = setupOf s := by
  simp only [logHistory]
  split <;> rfl

@[simp] theorem setupOf_startShift (s : State) (c : Nat) (cmd : Option Nat) (deadline : Option Nat) :
    setupOf (startShift s c cmd deadline) = setupOf s := by
  simp only [startShift]
  split
  · rfl
  · exact setupOf_report ..

@[simp] theorem setupOf_retireCluster (s : State) (c : Nat) : setupOf (retireCluster s c) = setupOf s := by simp [retireCluster]
@[simp] theorem setupOf_retrainPort (s : State) (p : Nat) : setupOf (retrainPort s p) = setupOf s := by simp [retrainPort]

@[simp] theorem setupOf_retireEffect (s : State) (c : Channel) : setupOf (retireEffect s c) = setupOf s := by
  simp only [retireEffect]
  split <;> simp

@[simp] theorem setupOf_retireChannel (s : State) (c : Channel) (source : Nat) :
    setupOf (retireChannel s c source) = setupOf s := by simp [retireChannel]

@[simp] theorem setupOf_permanentFault (s : State) (c : Channel) : setupOf (permanentFault s c).1 = setupOf s := by
  simp only [permanentFault]
  split <;> simp

@[simp] theorem setupOf_judgeError (s : State) (c : Channel) : setupOf (judgeError s c).1 = setupOf s := by
  simp only [judgeError]
  split <;> simp

@[simp] theorem setupOf_corrected (s : State) (m : MemLoc) : setupOf (corrected s m) = setupOf s := by
  simp only [corrected]
  split
  · simp
  · rfl

end Sys2Proof.Proofs
end

section
/-! The same of instances that are reset or destroyed (R494-R502). -/

namespace Sys2Proof.Proofs

open Sys2Proof Machine Claims

@[simp] theorem setupOf_flushLive (s : State) (qi : Nat) : setupOf (flushLive s qi) = setupOf s := by
  simp only [flushLive]
  split <;> simp

@[simp] theorem setupOf_freeQp (s : State) (qi : Nat) : setupOf (freeQp s qi) = setupOf s := setupOf_flushLive s qi
@[simp] theorem setupOf_leaveClusters (s : State) (cs : List Nat) : setupOf (leaveClusters s cs) = setupOf s := by simp [leaveClusters]

@[simp] theorem setupOf_releaseRegion (s : State) (g : Nat) (cmd destroyed : Option Nat) :
    setupOf (releaseRegion s g cmd destroyed) = setupOf s := by
  simp only [releaseRegion]
  split <;> rfl

@[simp] theorem setupOf_checkDestroy (s : State) (n : Nat) : setupOf (checkDestroy s n) = setupOf s := by
  simp only [checkDestroy]
  split
  · rfl
  · split
    · exact setupOf_finishCmd? ..
    · rfl

@[simp] theorem setupOf_setLog (s : State) (n link : Nat) (g : Option DirtyLog) : setupOf (setLog s n link g) = setupOf s := (rfl)

@[simp] theorem setupOf_markWord (s : State) (bitmap : Nat) (marked due : List Nat) : setupOf (markWord s bitmap marked due).1 = setupOf s := by
  simp only [markWord]
  split <;> simp

@[simp] theorem setupOf_markLog (s : State) (n link : Nat) (g : DirtyLog) : setupOf (markLog s n link g) = setupOf s := by simp [markLog]

@[simp] theorem setupOf_finishSync (s : State) (n link : Nat) (g : DirtyLog) (id : Nat) (stop : Bool) :
    setupOf (finishSync s n link g id stop) = setupOf s := by simp [finishSync]

@[simp] theorem setupOf_markAll (k : Nat) (s : State) (n2 : Nat) (n3 : Nat) : setupOf (markAll k s n2 n3) = setupOf s := by
  induction k generalizing s with
  | zero => rfl
  | succ k ih =>
    simp only [markAll]
    split
    · split <;> simp [ih]
    · rfl

@[simp] theorem setupOf_endLog (s : State) (n link : Nat) : setupOf (endLog s n link) = setupOf s := by
  simp only [endLog]
  split
  · rfl
  · split <;> simp

@[simp] theorem setupOf_resetUnit (s : State) (bound ui : Nat) : setupOf (resetUnit s bound ui) = setupOf s := by
  simp only [resetUnit]
  repeat' split
  all_goals simp

@[simp] theorem setupOf_resetArm (s : State) (a : Nat) : setupOf (resetArm s a) = setupOf s := by
  simp only [resetArm]
  split <;> simp

@[simp] theorem setupOf_dropRx (s : State) (p : Nat) (f : RxFrame) : setupOf (dropRx s p f) = setupOf s := by
  simp only [dropRx]
  split <;> simp

@[simp] theorem setupOf_dropClassified (s : State) (n p : Nat) : setupOf (dropClassified s n p) = setupOf s := by
  simp only [dropClassified]
  split <;> simp

@[simp] theorem setupOf_beginReset (s : State) (n bound : Nat) (destroy byLink : Bool) (cmd : Option Nat) :
    setupOf (beginReset s n bound destroy byLink cmd) = setupOf s := by simp [beginReset]

@[simp] theorem setupOf_purgePort (s : State) (n p : Nat) : setupOf (purgePort s n p) = setupOf s := by
  simp only [purgePort]
  split <;> simp

@[simp] theorem setupOf_squashInst (s : State) (n : Nat) : setupOf (squashInst s n) = setupOf s := by simp [squashInst]

@[simp] theorem setupOf_freeBuilt (s : State) (n : Nat) : setupOf (freeBuilt s n) = setupOf s := by
  simp only [freeBuilt, setupOf_withBuilt]
  simp

@[simp] theorem setupOf_lapseFilters (s : State) (n : Nat) : setupOf (lapseFilters s n) = setupOf s := (rfl)
@[simp] theorem setupOf_releaseSaggar (s : State) (n : Nat) : setupOf (releaseSaggar s n) = setupOf s := by simp [releaseSaggar]
@[simp] theorem setupOf_endReset (s : State) (n : Nat) (p : ResetProc) : setupOf (endReset s n p) = setupOf s := by simp [endReset]

@[simp] theorem setupOf_destroyNow (s : State) (n : Nat) : setupOf (destroyNow s n) = setupOf s := by
  simp only [destroyNow]
  split <;> simp

@[simp] theorem setupOf_destroyAll (s : State) : setupOf (destroyAll s) = setupOf s := by simp [destroyAll]

end Sys2Proof.Proofs
end

section
/-! The same of what follows a frame that leaves, and of the writes of registers (R379-R391, R563-R565). -/

namespace Sys2Proof.Proofs

open Sys2Proof Machine Claims

@[simp] theorem setupOf_tsDropped (s : State) (p inst : Nat) : setupOf (tsDropped s p inst) = setupOf s := by simp [tsDropped]

@[simp] theorem setupOf_tsRecordDue (s : State) (p : Nat) (f : TxFrame) (t16 : Nat) :
    setupOf (tsRecordDue s p f t16) = setupOf s := by simp [tsRecordDue]

@[simp] theorem setupOf_countFrame (s : State) (f : TxFrame) (k : Nat) : setupOf (countFrame s f k) = setupOf s := by
  simp only [countFrame]
  split <;> simp

@[simp] theorem setupOf_replyLeaves (s : State) (f : TxFrame) : setupOf (replyLeaves s f) = setupOf s := by
  simp only [replyLeaves]
  repeat' split
  all_goals simp

@[simp] theorem setupOf_leaveKind (s : State) (p : Nat) (f : TxFrame) (t16 : Nat) : setupOf (leaveKind s p f t16) = setupOf s := by
  simp only [leaveKind]
  repeat' split
  all_goals simp

@[simp] theorem setupOf_pruneClass (p c : Nat) (k : Nat) (s : State) : setupOf (pruneClass p c k s) = setupOf s := by
  induction k generalizing s with
  | zero => rfl
  | succ k ih =>
    simp only [pruneClass]
    split
    · split <;> simp [ih]
    · rfl

@[simp] theorem setupOf_pruneHeads (s : State) (p : Nat) : setupOf (pruneHeads s p) = setupOf s := by simp [pruneHeads]
@[simp] theorem setupOf_modStream (s : State) (n t : Nat) (f : StreamRun → StreamRun) : setupOf (modStream s n t f) = setupOf s := (rfl)
@[simp] theorem setupOf_countTaint (s : State) (n k : Nat) : setupOf (countTaint s n k) = setupOf s := (rfl)

@[simp] theorem setupOf_refreshAlert (s : State) : setupOf (refreshAlert s) = setupOf s := by
  simp only [refreshAlert]
  split <;> rfl

@[simp] theorem setupOf_setPwren (s : State) (d : Nat) (on : Bool) : setupOf (setPwren s d on) = setupOf s := by
  simp only [setPwren]
  split <;> rfl

@[simp] theorem setupOf_resetRegs (s : State) (cause : Nat) : setupOf (resetRegs s cause) = setupOf s := (rfl)

@[simp] theorem setupOf_mboxPost (s : State) (v : Nat) : setupOf (mboxPost s v) = setupOf s := by
  simp only [mboxPost]
  split
  · rfl
  · split <;> rfl

@[simp] theorem setupOf_negotiateLpi (s : State) (p : Nat) : setupOf (negotiateLpi s p) = setupOf s := by simp [negotiateLpi]
@[simp] theorem setupOf_storeWrite (s : State) (off v : Nat) (d : RegDesc) : setupOf (storeWrite s off v d) = setupOf s := by simp [storeWrite]

@[simp] theorem setupOf_checkedWrite (s : State) (off v : Nat) (d : RegDesc) :
    setupOf (checkedWrite s off v d) = setupOf s := by simp [checkedWrite]

@[simp] theorem setupOf_enableAdmin (s : State) (v : Nat) : setupOf (enableAdmin s v) = setupOf s := (rfl)
@[simp] theorem setupOf_writeAdminCtrl (s : State) (v : Nat) : setupOf (writeAdminCtrl s v) = setupOf s := by simp [writeAdminCtrl]
@[simp] theorem setupOf_refreshAdminCpl (s : State) : setupOf (refreshAdminCpl s) = setupOf s := by simp [refreshAdminCpl]

@[simp] theorem setupOf_writeCalUser (s : State) (off v : Nat) (d : RegDesc) :
    setupOf (writeCalUser s off v d) = setupOf s := by simp [writeCalUser]

@[simp] theorem setupOf_writeTsUser (s : State) (off v : Nat) (d : RegDesc) : setupOf (writeTsUser s off v d) = setupOf s := by simp [writeTsUser]
@[simp] theorem setupOf_writeCal (s : State) (off v : Nat) (d : RegDesc) : setupOf (writeCal s off v d) = setupOf s := by simp [writeCal]
@[simp] theorem setupOf_captureClock (s : State) : setupOf (captureClock s) = setupOf s := (rfl)
@[simp] theorem setupOf_limitAdj (s : State) : setupOf (limitAdj s) = setupOf s := by simp [limitAdj]
@[simp] theorem setupOf_writeTim (s : State) (off v : Nat) (d : RegDesc) : setupOf (writeTim s off v d) = setupOf s := by simp [writeTim]
@[simp] theorem setupOf_invalidate (s : State) (off : Nat) : setupOf (invalidate s off) = setupOf s := (rfl)

@[simp] theorem setupOf_writeEventReg (s : State) (off v : Nat) (d : RegDesc) :
    setupOf (writeEventReg s off v d) = setupOf s := by simp [writeEventReg]

@[simp] theorem setupOf_writeArm (s : State) (off v : Nat) (d : RegDesc) : setupOf (writeArm s off v d) = setupOf s := by simp [writeArm]
@[simp] theorem setupOf_writeWdog (s : State) (off v : Nat) (d : RegDesc) : setupOf (writeWdog s off v d) = setupOf s := by simp [writeWdog]
@[simp] theorem setupOf_writeWgt (s : State) (off v : Nat) (d : RegDesc) : setupOf (writeWgt s off v d) = setupOf s := by simp [writeWgt]
@[simp] theorem setupOf_writeBucket (s : State) (off v : Nat) (d : RegDesc) : setupOf (writeBucket s off v d) = setupOf s := by simp [writeBucket]

@[simp] theorem setupOf_writeFilter (s : State) (p off v : Nat) (d : RegDesc) :
    setupOf (writeFilter s p off v d) = setupOf s := by simp [writeFilter]

@[simp] theorem setupOf_lpiWritten (s : State) (p : Nat) : setupOf (lpiWritten s p) = setupOf s := by simp [lpiWritten]
@[simp] theorem setupOf_fcWritten (s : State) (p mode : Nat) : setupOf (fcWritten s p mode) = setupOf s := (rfl)
@[simp] theorem setupOf_writeMac (s : State) (off v : Nat) (d : RegDesc) : setupOf (writeMac s off v d) = setupOf s := by simp [writeMac]
@[simp] theorem setupOf_thaw (s : State) (n : Nat) : setupOf (thaw s n) = setupOf s := (rfl)
@[simp] theorem setupOf_thawAll (s : State) : setupOf (thawAll s) = setupOf s := (rfl)

@[simp] theorem setupOf_writeLoop (s : State) (p v : Nat) : setupOf (writeLoop s p v) = setupOf s := by
  simp only [writeLoop]
  repeat' split
  all_goals simp

end Sys2Proof.Proofs
end

section
/-! The same of what a unit of time settles (R368, R474). -/

namespace Sys2Proof.Proofs

open Sys2Proof Machine Claims

@[simp] theorem setupOf_finishStats (s : State) (c : PendCmd) : setupOf (finishStats s c) = setupOf s :=
  (setupOf_completeCmd ..).trans (setupOf_hostWrite ..)

@[simp] theorem setupOf_settleStats (s : State) : setupOf (settleStats s) = setupOf s := by
  simp only [settleStats]
  split
  · split <;> simp
  · rfl

@[simp] theorem setupOf_clockStep (s : State) : setupOf (clockStep s) = setupOf s := by simp [clockStep]

end Sys2Proof.Proofs
end

section
/-! The invariant over the operations that do change its fields: the jitter of a timestamp (R552), the resets (R539-R545), a new split (R355,
R356), and what is made of them. -/

namespace Sys2Proof.Proofs

open Sys2Proof Machine Claims

/-- From s to t no time passes, and the invariant goes over. -/
def CarriesInv (s t : State) : Prop := t.now = s.now ∧ (Inv s → Inv t)

theorem CarriesInv.refl (s : State) : CarriesInv s s := ⟨rfl, id⟩

theorem CarriesInv.trans {s t u : State} (h : CarriesInv s t) (g : CarriesInv t u) : CarriesInv s u :=
  ⟨g.1.trans h.1, g.2 ∘ h.2⟩

theorem CarriesInv.of_setupOf {s t : State} (h : setupOf t = setupOf s) : CarriesInv s t := by
  simp only [setupOf, Prod.mk.injEq] at h
  obtain ⟨hnow, hreset, hsplit, hlfsr⟩ := h
  exact ⟨hnow, fun hs => by rwa [Claims.Inv, hnow, hreset, hsplit, hlfsr]⟩

/-- What follows without a change of the fields. -/
theorem CarriesInv.then {s t u : State} (h : CarriesInv s t) (g : setupOf u = setupOf t) : CarriesInv s u := h.trans (.of_setupOf g)

theorem CarriesInv.ite {c : Prop} [Decidable c] {s t u : State} (h : CarriesInv s t) (g : CarriesInv s u) :
    CarriesInv s (if c then t else u) := by
  split
  · exact h
  · exact g

-- ------------------------------------------------------------------ jitter (R552)

/-- The register never runs empty: a bit that leaves it puts the polynomial's top bit in. -/
theorem lfsrStep_ne_zero {l : Word} (j : Nat) (h : l ≠ 0) : (lfsrStep l j).1 ≠ 0 := by
  simp only [lfsrStep]
  split
  next hlow =>
    intro hzero
    have htop := congrArg (BitVec.getLsbD · 31) hzero
    simp at htop
  next hlow =>
    intro hzero
    refine h (BitVec.eq_of_getLsbD_eq fun i hi => ?_)
    cases i with
    | zero => simpa using hlow
    | succ i =>
      have hbit := congrArg (BitVec.getLsbD · i) hzero
      simpa [Nat.add_comm] using hbit

theorem carriesInv_jitter (s : State) (p : Nat) (tx : Bool) : CarriesInv s (jitter s p tx).2 := by
  refine iteInduction (motive := fun x : Int × State => CarriesInv s x.2) (fun _ => ?_) (fun _ => .refl s)
  exact ⟨rfl, fun ⟨hlfsr, hreset, hsplit⟩ => ⟨lfsrStep_ne_zero (bits (regRaw s (tstTsJitter + 4 * p)) 7 0) hlfsr, hreset, hsplit⟩⟩

theorem carriesInv_rxStamp (s : State) (p : Nat) (err : Int) : CarriesInv s (rxStamp s p err).2 := carriesInv_jitter s p false

theorem carriesInv_txStamp (s : State) (p : Nat) : CarriesInv s (txStamp s p).2 := carriesInv_jitter s p true

theorem carriesInv_startFrame (s : State) (p : Nat) (frame : Bytes) (fcs : BitVec 32) (corrected : Bool) (err : Int) :
    CarriesInv s (startFrame s p frame fcs corrected err) :=
  (carriesInv_rxStamp s p err).then (setupOf_admitFrame ..)

theorem carriesInv_putOnLine (s : State) (p : Nat) (bytes : Bytes) : CarriesInv s (putOnLine s p bytes) := by
  simp only [putOnLine]
  split
  · split
    · exact (carriesInv_startFrame (drawInt s).2 ..)
    · exact .refl s
  · exact .refl s

theorem carriesInv_depart (s : State) (p : Nat) (f : TxFrame) : CarriesInv s (depart s p f) := by
  simp only [depart]
  exact ((carriesInv_txStamp s p).then (by simp)).trans (carriesInv_putOnLine ..)

theorem carriesInv_selectFrame (s : State) (p : Nat) : CarriesInv s (selectFrame s p) := by
  simp only [selectFrame]
  split
  next => exact (CarriesInv.of_setupOf (setupOf_unqueue ..)).trans (carriesInv_depart ..)
  next =>
    split
    next => exact (CarriesInv.of_setupOf (setupOf_unqueue ..)).trans (carriesInv_depart ..)
    next =>
      split
      next => exact (CarriesInv.of_setupOf (by simp)).trans (carriesInv_depart ..)
      next => exact .refl s

theorem carriesInv_transmitSelect (s : State) (p : Nat) :
    CarriesInv s (let h := handOver s s.now
      if atBoundary h p then selectFrame (pruneHeads (settleRescinds h p) p) p else h) := by
  have hsettled : CarriesInv s (pruneHeads (settleRescinds (handOver s s.now) p) p) := .of_setupOf (by simp)
  exact .ite (hsettled.trans (carriesInv_selectFrame ..)) (.of_setupOf (setupOf_handOver ..))

-- ------------------------------------------------------------------ function reset (R539-R545)

/-- A reset puts the jitter register at 1 and is the last reset from now on; the split stays. -/
theorem carriesInv_wipe (s : State) (cause : Nat) : CarriesInv s (wipe s cause) :=
  ⟨rfl, fun ⟨_, _, hsplit⟩ => ⟨(by decide : (1 : Word) ≠ 0), le_rfl, hsplit⟩⟩

theorem carriesInv_functionReset (s : State) (cause : Nat) : CarriesInv s (functionReset s cause) := by
  simp only [functionReset]
  split
  · exact .refl s
  · split
    · exact .of_setupOf (setupOf_regOr ..)
    · refine (CarriesInv.trans (.of_setupOf ?_) (carriesInv_wipe ..)).then (setupOf_refreshAlert _)
      split <;> simp

/-- The invariant holds at power-on, and the reset is the last one from now on. -/
theorem carriesInv_keepAlways_reset (s : State) (m : Mgmt) : CarriesInv s { keepAlways s State.reset with mgmt := m } :=
  ⟨rfl, fun _ => ⟨(by decide : (1 : Word) ≠ 0), le_rfl, (by decide : 0 < 4)⟩⟩

-- ------------------------------------------------------------------ a new split (R355, R356)

theorem setupOf_takeCmd {s t : State} {r : CmdRing} {i : BitVec 32} (h : takeCmd s r = some (i, t)) : setupOf t = setupOf s :=
  (congrArg setupOf (takeCmd_frame h) :)

/-- How a command taken is judged: refused for the recovery loader, its OPCODE or its ring, or by its own rule (R11, R461, R531). -/
def judged (op : Nat) (adm : Bool) (r : CmdRing) (d : Cmd) (f : Nat → Nat → State → State × Answer) (s : State) : State × Answer :=
  let t := { s with nextId := s.nextId + 1 }
  if t.mgmt.recovery && !(r = .admin && (d.unlisted.getD op = 0x75 || d.unlisted.getD op = 0x76)) then (t, Answer.fail stNotReady)
  else if d.unlisted.isSome then (t, Answer.fail stBadParam)
  else if adm && r ≠ .admin then
    (t, Answer.fail (if (f (cmdInst r) s.nextId t).2 = Answer.fail stNotReady then stNotReady else stNotPermitted))
  else f (cmdInst r) s.nextId t

/-- What follows a judgement: the completion, or the wait (R453, R460). -/
def answered (op : Nat) (r : CmdRing) (d : Cmd) (i : BitVec 32) (id : Nat) (u : State) : Answer → State
  | .done st res buf =>
    completeCmd (if buf = [] then u else hostWrite u (cmdInst r) (getInst u (cmdInst r)).home d.bufAddr.toNat buf) r d.tag i op st buf.length res
  | .wait arg => { u with cmds := u.cmds ++ [{ id := id, ring := r, tag := d.tag, index := i, opcode := op, arg := arg }] }

theorem runCmd_eq_answered {s t : State} {r : CmdRing} {i : BitVec 32} (h : takeCmd s r = some (i, t)) (op : Nat) (adm : Bool) (d : Cmd)
    (f : Nat → Nat → State → State × Answer) :
    runCmd op adm r d f s = answered (d.unlisted.getD op) r d i t.nextId (judged op adm r d f t).1 (judged op adm r d f t).2 := by
  unfold runCmd
  rw [h]
  rfl

theorem setupOf_answered (op : Nat) (r : CmdRing) (d : Cmd) (i : BitVec 32) (id : Nat) (u : State) (a : Answer) :
    setupOf (answered op r d i id u a) = setupOf u := by
  cases a with
  | done => simp [answered]
  | wait => rfl

section
variable {f : Nat → Nat → State → State × Answer} (hf : ∀ inst id s, CarriesInv s (f inst id s).1)
include hf

theorem carriesInv_judged (op : Nat) (adm : Bool) (r : CmdRing) (d : Cmd) (s : State) : CarriesInv s (judged op adm r d f s).1 := by
  have htaken : CarriesInv s { s with nextId := s.nextId + 1 } := ⟨rfl, id⟩
  simp only [judged, apply_ite Prod.fst]
  split
  · exact htaken
  · split
    · exact htaken
    · split
      · exact htaken
      · exact htaken.trans (hf ..)

/-- A command carries the invariant over where its rule does. -/
theorem carriesInv_runCmd (op : Nat) (adm : Bool) (r : CmdRing) (d : Cmd) (s : State) : CarriesInv s (runCmd op adm r d f s) := by
  cases htake : takeCmd s r with
  | none =>
    rw [runCmd_none op adm d f htake]
    exact .refl s
  | some x =>
    obtain ⟨i, t⟩ := x
    rw [runCmd_eq_answered htake]
    exact (CarriesInv.trans (.of_setupOf (setupOf_takeCmd htake)) (carriesInv_judged hf ..)).then (setupOf_answered ..)

end

theorem setupOf_changeSplit (s : State) (code : Nat) : setupOf (changeSplit s code) = setupOf { s with split := code } := by
  have hdown : setupOf ((portsOf s).foldl portDown s) = setupOf s := by simp
  simp only [setupOf, Prod.mk.injEq] at hdown
  obtain ⟨hnow, hreset, -, hlfsr⟩ := hdown
  have hsplit : setupOf { (portsOf s).foldl portDown s with split := code } = setupOf { s with split := code } := by
    simp only [setupOf, hnow, hreset, hlfsr]
  simpa [changeSplit] using hsplit

theorem carriesInv_cmdPortSplit (d : Cmd) (inst id : Nat) (s : State) : CarriesInv s (cmdPortSplit d inst id s).1 := by
  simp only [cmdPortSplit, orElse]
  split
  next => exact .refl s
  next hnone =>
    have hcode : argN d 0 1 ≤ 3 := by
      have hargs := firstFail_none.mp hnone _ (List.mem_cons_self ..)
      simp only [Bool.or_eq_false_iff, decide_eq_false_iff_not] at hargs
      omega
    have hsplit : CarriesInv s { s with split := argN d 0 1 } := ⟨rfl, fun ⟨hlfsr, hreset, _⟩ => ⟨hlfsr, hreset, Nat.lt_succ_of_le hcode⟩⟩
    exact hsplit.then (setupOf_changeSplit ..)

end Sys2Proof.Proofs
end

section
/-! The invariant over the writes of registers (R553-R554, R563-R565): a seed of the jitter register is never zero. -/

namespace Sys2Proof.Proofs

open Sys2Proof Machine Claims

theorem carriesInv_writeGlb (s : State) (off v : Nat) (d : RegDesc) : CarriesInv s (writeGlb s off v d) := by
  by_cases hctrl : off = glbCtrl
  · simp only [writeGlb, if_pos hctrl]
    split
    · exact carriesInv_functionReset ..
    · exact .refl s
  · refine .of_setupOf ?_
    simp [writeGlb, hctrl]

theorem ofNat_seed_ne_zero {v : Nat} (h : fieldsInRange tsSeedDesc v = true) : BitVec.ofNat 32 v ≠ 0 := by
  intro hzero
  have hv : v % 2 ^ 32 = 0 := by simpa using congrArg BitVec.toNat hzero
  have hrange : 1 ≤ v ∧ v ≤ 0xFFFFFFFF := by simpa [fieldsInRange, tsSeedDesc, bits] using h
  omega

theorem carriesInv_writeTst {off : Nat} {d : RegDesc} (hd : regDesc off = some d) (s : State) (v : Nat) :
    CarriesInv s (writeTst s off v d) := by
  by_cases hseed : off = tstTsSeed
  · subst hseed
    obtain rfl : tsSeedDesc = d := Option.some.inj (regDesc_tstTsSeed.symm.trans hd)
    simp only [writeTst, if_true]
    split
    next hrange =>
      refine CarriesInv.trans (.of_setupOf (setupOf_storeWrite s tstTsSeed v tsSeedDesc)) ?_
      exact ⟨rfl, fun ⟨_, hreset, hsplit⟩ => ⟨ofNat_seed_ne_zero hrange, hreset, hsplit⟩⟩
    next => exact .of_setupOf (setupOf_rejectWrite ..)
  · refine .of_setupOf ?_
    simp [writeTst, hseed]

theorem blockWrite_glb {s : State} {off v : Nat} {d : RegDesc} (h : off < 0x1000) : blockWrite s off v d = writeGlb s off v d := if_pos h

theorem blockWrite_tst {s : State} {off v : Nat} {d : RegDesc} (h : 0xA000 ≤ off ∧ off < 0xB000) :
    blockWrite s off v d = writeTst s off v d := by
  obtain ⟨hlow, hhigh⟩ := h
  simp (disch := omega) only [blockWrite, pwrTherm, arrEvent, fltEvent, arrJoinWdog, if_neg, if_pos]

theorem setupOf_blockWrite {off : Nat} (hglb : ¬off < 0x1000) (htst : ¬(0xA000 ≤ off ∧ off < 0xB000)) (s : State) (v : Nat) (d : RegDesc) :
    setupOf (blockWrite s off v d) = setupOf s := by
  simp [blockWrite, hglb]
  -- what is left is the test block, whose offsets htst excludes
  omega

/-- Only the global and the test block write what the invariant speaks of. -/
theorem carriesInv_blockWrite {off : Nat} {d : RegDesc} (hd : regDesc off = some d) (s : State) (v : Nat) :
    CarriesInv s (blockWrite s off v d) := by
  by_cases hglb : off < 0x1000
  · rw [blockWrite_glb hglb]
    exact carriesInv_writeGlb ..
  · by_cases htst : 0xA000 ≤ off ∧ off < 0xB000
    · rw [blockWrite_tst htst]
      exact carriesInv_writeTst hd s v
    · exact .of_setupOf (setupOf_blockWrite hglb htst ..)

theorem carriesInv_writeReg (s : State) (off v : Nat) : CarriesInv s (writeReg s off v) := by
  simp only [writeReg]
  split
  next => exact .refl s
  next d hd =>
    split
    · exact .of_setupOf (by simp)
    · split
      · exact carriesInv_blockWrite hd s v
      · exact .refl s

end Sys2Proof.Proofs
end

section
/-! One step of the machine, and with it O50: the passing of time on an empty queue, and each command at the queue's front (R398; log entries 1,
32). -/

namespace Sys2Proof.Proofs

open Sys2Proof Machine Claims

/-- From s the machine goes on, time does not run back, and the invariant goes over. -/
def GoesOn (s : State) (o : Host.Outcome State Fault Refusal) : Prop := ∃ t, o = .next t ∧ s.now ≤ t.now ∧ (Claims.Inv s → Claims.Inv t)

theorem setupOf_tick (s : State) : setupOf (tick s) = (s.now + 1, s.resetAt, s.split, s.lfsr) := by
  have hstats := setupOf_settleStats s
  simp only [setupOf, Prod.mk.injEq] at hstats
  obtain ⟨-, hreset, hsplit, hlfsr⟩ := hstats
  have hnow : setupOf { settleStats s with now := s.now + 1 } = (s.now + 1, s.resetAt, s.split, s.lfsr) := by
    simp only [setupOf, hreset, hsplit, hlfsr]
  simpa [tick, releaseFrames] using hnow

theorem goesOn_tick (s : State) : GoesOn s (.next (tick s)) := by
  have hsetup := setupOf_tick s
  simp only [setupOf, Prod.mk.injEq] at hsetup
  obtain ⟨hnow, hreset, hsplit, hlfsr⟩ := hsetup
  refine ⟨tick s, rfl, by omega, fun ⟨hl, hr, hs⟩ => ⟨?_, ?_, ?_⟩⟩
  · rwa [hlfsr]
  · omega
  · rwa [hsplit]

theorem goesOn_goOnKeep (s t : State) : GoesOn s (goOnKeep s t) := ⟨_, rfl, le_rfl, id⟩

theorem goesOn_goOn {s t : State} (h : CarriesInv s t) : GoesOn s (goOn s t) := by
  obtain ⟨hnow, hinv⟩ := h
  refine ⟨_, rfl, le_rfl, fun hs => ?_⟩
  obtain ⟨hlfsr, hreset, hsplit⟩ := hinv hs
  exact ⟨hlfsr, hnow ▸ hreset, hsplit⟩

theorem goesOn_execFuncReset (cause : ResetCause) (s : State) : GoesOn s (execFuncReset cause s) := by
  cases cause with
  | register => exact goesOn_goOn (.ite (carriesInv_functionReset ..) (.refl s))
  | flr0 => exact goesOn_goOn (.ite (carriesInv_functionReset ..) (.refl s))
  | flr1 => exact goesOn_goOn (.ite (carriesInv_functionReset ..) (.refl s))

theorem goesOn_execArmBundleSend (slot stream : Nat) (s : State) : GoesOn s (execArmBundleSend slot stream s) := by
  refine goesOn_goOn ?_
  split
  next =>
    split
    next => exact .ite ((CarriesInv.of_setupOf (by simp)).trans (carriesInv_depart ..)) (.refl s)
    next => exact .refl s
  next => exact .refl s

theorem goesOn_exec (c : Instr) (s : State) : GoesOn s (exec c s) := by
  cases c with
  | frameStart p frame line err =>
    exact goesOn_goOn (.ite ((CarriesInv.of_setupOf (setupOf_countFec ..)).trans (carriesInv_startFrame ..)) (.refl s))
  | portSplit r d => exact goesOn_goOn (carriesInv_runCmd (carriesInv_cmdPortSplit d) ..)
  | transmitSelect p => exact goesOn_goOn (carriesInv_transmitSelect ..)
  | armBundleSend a t => exact goesOn_execArmBundleSend ..
  | powerOnReset ok => exact goesOn_goOn (carriesInv_keepAlways_reset ..)
  | funcReset cause => exact goesOn_execFuncReset ..
  | registerWrite off size all v =>
    have hhalves := (carriesInv_writeReg s off (loWord v)).trans (carriesInv_writeReg _ (off + 4) (hiWord v))
    exact goesOn_goOn (.ite (.of_setupOf (setupOf_regOr ..)) (.ite (carriesInv_writeReg ..) hhalves))
  | adminEnable v | timCapture v | pwrLimitWrite v | joinWdogWrite v | streamPoolWrite v | slewBoundWrite v | tsSeedWrite v =>
    exact goesOn_goOn (carriesInv_writeReg ..)
  | tsUserOffsetWrite | calOffsetWrite | filterWrite | shaperRateWrite | loopbackWrite =>
    exact goesOn_goOn (.ite (carriesInv_writeReg ..) (.refl s))
  | _ => exact goesOn_goOnKeep ..

/-- Settles O50, by the step's two cases: time passes, or the front command is carried out. -/
theorem stepKeepsInvariant : Obligations.StepKeepsInvariant := by
  unfold Obligations.StepKeepsInvariant
  intro s
  cases hpending : s.pending with
  | nil =>
    rw [step, hpending]
    exact goesOn_tick s
  | cons c rest =>
    rw [step, hpending]
    exact goesOn_exec c { s with pending := rest }

end Sys2Proof.Proofs
end

section
/-! A command carried out leaves the queue behind it and the time as they are (log entry 1), and with it O51 and O48; the state after power-on, and
with it O49. -/

namespace Sys2Proof.Proofs

open Sys2Proof Machine Claims

/-- What follows on s is a next state with the queue and the time of s. -/
def KeepsQueue (s : State) (o : Host.Outcome State Fault Refusal) : Prop := ∃ t, o = .next t ∧ t.pending = s.pending ∧ t.now = s.now

theorem keepsQueue_goOn (s t : State) : KeepsQueue s (goOn s t) := ⟨_, rfl, rfl, rfl⟩

theorem keepsQueue_goOnKeep (s t : State) : KeepsQueue s (goOnKeep s t) := ⟨_, rfl, rfl, rfl⟩

/-- Every command goes on, and its row takes the queue and the time from the state before it. -/
theorem keepsQueue_exec (c : Instr) (s : State) : KeepsQueue s (exec c s) := by
  cases c with
  | frameStart | portSplit | transmitSelect | armBundleSend | powerOnReset | funcReset | registerWrite | adminEnable | timCapture
  | pwrLimitWrite | joinWdogWrite | streamPoolWrite | slewBoundWrite | tsSeedWrite | tsUserOffsetWrite | calOffsetWrite | filterWrite
  | shaperRateWrite | loopbackWrite => exact keepsQueue_goOn ..
  | _ => exact keepsQueue_goOnKeep ..

/-- A step serves the queue's first command, and the rest of the queue waits on. -/
theorem step_serves_front {s : State} {c : Instr} {rest : List Instr} (h : s.pending = c :: rest) :
    ∃ t, step s = .next t ∧ t.pending = rest ∧ t.now = s.now := by
  rw [step, h]
  exact keepsQueue_exec c { s with pending := rest }

/-- Settles O51, by induction on the number of steps: each serves the queue's first command. -/
theorem queueServedInOrder : Obligations.QueueServedInOrder := by
  unfold Obligations.QueueServedInOrder
  intro s k hk
  induction k generalizing s with
  | zero => exact ⟨s, rfl, rfl, rfl⟩
  | succ k ih =>
    obtain ⟨c, rest, hpending⟩ := List.exists_cons_of_length_pos (Nat.zero_lt_of_lt hk)
    obtain ⟨u, hstep, hrest, hnow⟩ := step_serves_front hpending
    rw [hpending, List.length_cons] at hk
    obtain ⟨t, hrun, htail, htime⟩ := ih u (by rw [hrest]; omega)
    refine ⟨t, (run_succ_of_next hstep).trans hrun, ?_, htime.trans hnow⟩
    rw [htail, hrest, hpending, List.drop_succ_cons]

/-- Settles O48: the step takes the queue apart into its first command and the rest. -/
theorem stepRunsFrontCommand : Obligations.StepRunsFrontCommand := by
  unfold Obligations.StepRunsFrontCommand
  exact fun s c rest => rfl

/-- No register has been written since power-on. -/
theorem regRaw_reset (off : Nat) : regRaw State.reset off = regReset off % 2 ^ 32 := by
  rw [regRaw, show State.reset.regs = [] from rfl, tgetD_nil, BitVec.toNat_ofNat]

/-- Settles O49: every table of the state at power-on is empty. -/
theorem resetMeetsInvariant : Obligations.ResetMeetsInvariant := by
  unfold Obligations.ResetMeetsInvariant
  refine ⟨⟨by decide, le_rfl, by decide⟩, rfl, regRaw_reset, rfl, rfl, fun n => ⟨rfl, rfl, rfl, rfl, rfl⟩, fun k => ⟨rfl, rfl, rfl⟩⟩

end Sys2Proof.Proofs
end

section
/-! The order in which the engine takes commands (R459), and with it O53. -/

namespace Sys2Proof.Proofs

open Sys2Proof Machine Claims

theorem engineTurn_inst_iff (s : State) (n : Nat) :
    engineTurn s (.inst n) = true ↔
      takeable s (.inst n) = true ∧ takeable s .admin = false
        ∧ ∀ m ∈ tkeys s.instances, takeable s (.inst m) = true → rrDist s n ≤ rrDist s m := by
  simp [engineTurn, and_assoc, or_iff_not_imp_left]

/-- A ring whose command may be taken belongs to an active instance (R495). -/
theorem instActive_of_takeable {s : State} {r : CmdRing} (h : takeable s r = true) : instActive s (cmdInst r) = true := by
  unfold takeable at h
  split at h
  · simp only [Bool.and_eq_true] at h
    exact h.1.2
  · cases h

/-- An active instance is listed: one that is not listed is free. -/
theorem mem_tkeys_of_instActive {s : State} {n : Nat} (h : instActive s n = true) : n ∈ tkeys s.instances := by
  cases hget : tget s.instances n with
  | none => simp [instActive, getInst, tgetD, hget] at h
  | some i => exact List.mem_map_of_mem (f := Prod.fst) (mem_of_tget hget)

/-- An instance with the turn is no further in the round robin than another whose command may be taken. -/
theorem rrDist_le_of_turn {s : State} {n m : Nat} (hn : engineTurn s (.inst n) = true) (hm : takeable s (.inst m) = true) :
    rrDist s n ≤ rrDist s m := by
  obtain ⟨-, -, hfirst⟩ := (engineTurn_inst_iff s n).mp hn
  exact hfirst m (mem_tkeys_of_instActive (instActive_of_takeable hm)) hm

/-- Different instances stand at different places of the round robin. -/
theorem rrDist_inj {s : State} {n m : Nat} (hlast : s.rrLast < 1024) (hn : n < 1024) (hm : m < 1024) (h : rrDist s n = rrDist s m) : n = m := by
  simp only [rrDist] at h
  omega

/-- The instance served last has the last place of the round robin. -/
theorem rrDist_lt_of_last {s : State} {n m : Nat} (hn : n < 1024) (hm : m < 1024) (hlast : s.rrLast = n) (hne : m ≠ n) :
    rrDist s m < rrDist s n := by
  simp only [rrDist, hlast]
  omega

/-- With no administration command, an instance at the least place of the round robin has the turn. -/
theorem exists_turn_of_takeable {s : State} {n : Nat} (hadmin : takeable s .admin = false) (hn : takeable s (.inst n) = true) :
    ∃ q, engineTurn s q = true := by
  obtain ⟨m, hm, hleast⟩ := (measure (rrDist s)).wf.has_min {m | takeable s (.inst m) = true} ⟨n, hn⟩
  exact ⟨.inst m, (engineTurn_inst_iff s m).mpr ⟨hm, hadmin, fun k _ hk => not_lt.mp (hleast k hk)⟩⟩

theorem takeCmd_rrLast {s t : State} {n : Nat} {i : BitVec 32} (h : takeCmd s (.inst n) = some (i, t)) : t.rrLast = n := by
  unfold takeCmd at h
  split at h
  · split at h
    · simp only [Option.some.injEq, Prod.mk.injEq] at h
      obtain ⟨-, rfl⟩ := h
      rfl
    · cases h
  · cases h

/-- Settles O53, clause by clause from the places of the round robin. -/
theorem engineOrder : Obligations.EngineOrder := by
  unfold Obligations.EngineOrder
  refine ⟨fun s h => ⟨h, fun n => ?adminFirst⟩, ?one, ?some, ?last, fun s t n i h => takeCmd_rrLast h⟩
  case adminFirst =>
    refine Bool.eq_false_iff.mpr fun hturn => ?_
    obtain ⟨-, hadmin, -⟩ := (engineTurn_inst_iff s n).mp hturn
    exact absurd hadmin (by simp [h])
  case one =>
    intro s n m hlast hn hm hturn hturn'
    exact rrDist_inj hlast hn hm (le_antisymm (rrDist_le_of_turn hturn (takeable_of_turn hturn'))
      (rrDist_le_of_turn hturn' (takeable_of_turn hturn)))
  case some =>
    intro s r h
    cases hadmin : takeable s .admin with
    | true => exact ⟨.admin, hadmin⟩
    | false =>
      cases r with
      | admin => exact ⟨.admin, h⟩
      | inst n => exact exists_turn_of_takeable hadmin h
  case last =>
    intro s n m hn hm hlast hne h
    exact Bool.eq_false_iff.mpr fun hturn => absurd (rrDist_le_of_turn hturn h) (not_le.mpr (rrDist_lt_of_last hn hm hlast hne))

end Sys2Proof.Proofs
end

section
/-! What a write to host memory, a new ring entry and a vector change, and with it O57: the phase of an entry (R437, R439, R440). -/

namespace Sys2Proof.Proofs

open Sys2Proof Machine Claims

-- ------------------------------------------------------------------ rings and instances after an update

theorem tget_tmod {α : Type} (t : Table α) (k : Nat) (f : α → α) (j : Nat) :
    tget (tmod t k f) j = if j = k then (tget t k).map f else tget t j := by
  cases h : tget t k with
  | none =>
    simp only [tmod, h, Option.map_none]
    by_cases hj : j = k
    · rw [if_pos hj, hj, h]
    · rw [if_neg hj]
  | some v => simp only [tmod, h, tget_tset, Option.map_some]

theorem getRing_modRing_same (s : State) (k : Nat) (f : Ring → Ring) : getRing (modRing s k f) k = (getRing s k).map f :=
  (tget_tmod ..).trans (if_pos rfl)

theorem getRing_modRing_other (s : State) {k j : Nat} (f : Ring → Ring) (h : j ≠ k) : getRing (modRing s k f) j = getRing s j :=
  (tget_tmod ..).trans (if_neg h)

theorem getInst_modInst (s : State) (n : Nat) (f : Instance → Instance) (m : Nat) :
    getInst (modInst s n f) m = if m = n then f (getInst s n) else getInst s m := by
  simp only [getInst, modInst_instances, tmodD, tgetD, tget_tset]
  split <;> rfl

/-- What an update keeps of an instance, it keeps of every one. -/
theorem getInst_modInst_keeps {α : Type} {g : Instance → α} {f : Instance → Instance} (hf : ∀ i, g (f i) = g i) (s : State) (n m : Nat) :
    g (getInst (modInst s n f) m) = g (getInst s m) := by
  rw [getInst_modInst]
  split
  next h => rw [hf, h]
  next => rfl

-- ------------------------------------------------------------------ a write to host memory (R427)

@[simp] theorem hostWrite_rings (s : State) (inst link addr : Nat) (data : Bytes) : (hostWrite s inst link addr data).rings = s.rings := by
  simp only [hostWrite]
  split
  · rfl
  · split <;> split <;> rfl

@[simp] theorem hostWrite_links (s : State) (inst link addr : Nat) (data : Bytes) : (hostWrite s inst link addr data).links = s.links := by
  simp only [hostWrite]
  split
  · rfl
  · split <;> split <;> rfl

theorem linkUp_hostWrite (s : State) (inst link addr : Nat) (data : Bytes) (l : Nat) :
    linkUp (hostWrite s inst link addr data) l = linkUp s l := by
  simp only [linkUp, hostWrite_links]

/-- On a link that is down the write is lost (R502). -/
theorem hostWrite_down {s : State} {link : Nat} (h : linkUp s link = false) (inst addr : Nat) (data : Bytes) :
    hostWrite s inst link addr data = s := if_pos h

/-- On a link that is up the write leaves the adapter under the instance's PASID. -/
theorem hostWrite_out_up {s : State} {link : Nat} (h : linkUp s link = true) (inst addr : Nat) (data : Bytes) :
    (hostWrite s inst link addr data).out = .hostWrite link ((pasidOf (getInst s inst) link).getD 0) addr data :: s.out := by
  simp only [hostWrite, h, Bool.true_eq_false, if_false]
  split <;> split <;> rfl

/-- A write changes of an instance no more than the logs of dirty pages. -/
theorem getInst_hostWrite_keeps {α : Type} {g : Instance → α} (h0 : ∀ i l, g { i with log0 := l } = g i)
    (h1 : ∀ i l, g { i with log1 := l } = g i) (s : State) (inst link addr : Nat) (data : Bytes) (n : Nat) :
    g (getInst (hostWrite s inst link addr data) n) = g (getInst s n) := by
  simp only [hostWrite]
  split
  next => rfl
  next =>
    split
    next =>
      split
      next => exact getInst_modInst_keeps (fun i => h0 i _) ..
      next => rfl
    next =>
      split
      next => exact getInst_modInst_keeps (fun i => h1 i _) ..
      next => rfl

theorem pasidOf_hostWrite (s : State) (inst link addr : Nat) (data : Bytes) (n l : Nat) :
    pasidOf (getInst (hostWrite s inst link addr data) n) l = pasidOf (getInst s n) l :=
  getInst_hostWrite_keeps (g := (pasidOf · l)) (fun _ _ => rfl) (fun _ _ => rfl) ..

-- ------------------------------------------------------------------ the vector of an armed ring (R440)

/-- Nothing but a vector leaves. -/
theorem raiseIfDue_out (s : State) (key : Nat) :
    ∃ after : List Output, (after = [] ∨ ∃ l v, after = [.msix l v]) ∧ (raiseIfDue s key).out = after ++ s.out := by
  simp only [raiseIfDue]
  split
  next => exact ⟨[], .inl rfl, rfl⟩
  next r _ =>
    split
    · exact ⟨[.msix (getInst s r.owner).home r.vector], .inr ⟨_, _, rfl⟩, rfl⟩
    · exact ⟨[], .inl rfl, rfl⟩

/-- A vector only disarms its ring. -/
theorem getRing_raiseIfDue_same (s : State) (key : Nat) : (getRing (raiseIfDue s key) key).map (·.prod) = (getRing s key).map (·.prod) := by
  simp only [raiseIfDue]
  split
  · rfl
  · split
    · rw [getRing_modRing_same, Option.map_map]
      rfl
    · rfl

theorem getRing_raiseIfDue_other (s : State) {key j : Nat} (h : j ≠ key) : getRing (raiseIfDue s key) j = getRing s j := by
  simp only [raiseIfDue]
  split
  · rfl
  · split
    · exact getRing_modRing_other _ _ h
    · rfl

-- ------------------------------------------------------------------ the bytes of an entry (R437)

theorem length_sliceZ (bs : Bytes) (off len : Nat) : (sliceZ bs off len).length = len := by
  simp only [sliceZ, slice, List.length_append, List.length_take, List.length_drop, List.length_replicate]
  omega

/-- A byte past the end of a string reads zero, in a slice as in the string. -/
theorem byteAt_sliceZ_zero (bs : Bytes) {len i : Nat} (h : i < len) : byteAt (sliceZ bs 0 len) i = byteAt bs i := by
  by_cases hi : i < bs.length
  · simp [byteAt, sliceZ, slice, h, hi]
  · have hzero : i - min len bs.length < len - min len bs.length := by omega
    simp [byteAt, sliceZ, slice, List.getElem?_append, hi, hzero]

/-- Byte 0x3F of an entry, with the phase in bit 0. -/
def phaseByte (r : Ring) (rec : Bytes) : Byte := BitVec.ofNat 8 (byteAt rec 0x3F / 2 * 2 + phaseOf r)

theorem withPhase_eq (r : Ring) (rec : Bytes) : withPhase r rec = (sliceZ rec 0 64).take 0x3F ++ [phaseByte r rec] := by
  simp [withPhase, overlay, length_sliceZ, phaseByte]

theorem length_withPhase (r : Ring) (rec : Bytes) : (withPhase r rec).length = 64 := by
  simp [withPhase_eq, length_sliceZ]

theorem byteAt_withPhase_low (r : Ring) (rec : Bytes) {i : Nat} (h : i < 0x3F) : byteAt (withPhase r rec) i = byteAt rec i := by
  have hleft : i < ((sliceZ rec 0 64).take 0x3F).length := by simp [length_sliceZ, h]
  rw [← byteAt_sliceZ_zero rec (show i < 64 by omega), withPhase_eq, byteAt, byteAt, List.getD_eq_getElem?_getD,
    List.getElem?_append_left hleft, List.getElem?_take_of_lt h, List.getD_eq_getElem?_getD]

theorem byteAt_withPhase_last (r : Ring) (rec : Bytes) : byteAt (withPhase r rec) 0x3F = byteAt rec 0x3F / 2 * 2 + phaseOf r := by
  have hbyte : byteAt rec 0x3F < 256 := BitVec.isLt _
  have hphase : phaseOf r < 2 := Nat.mod_lt _ (by decide)
  have hlast : byteAt (withPhase r rec) 0x3F = (byteAt rec 0x3F / 2 * 2 + phaseOf r) % 256 := by
    rw [withPhase_eq, byteAt, List.getD_eq_getElem?_getD, List.getElem?_append_right (by simp [length_sliceZ])]
    simp [length_sliceZ, phaseByte]
  omega

-- ------------------------------------------------------------------ a new entry (R437, R439)

/-- The state in which an entry's bytes have been written, in one write or with byte 0x3F apart. -/
def entryWritten (s : State) (r : Ring) (rec : Bytes) : State :=
  if r.splitPhase then
    hostWrite (hostWrite s r.owner (ringLink s r) (r.base + 64 * (r.prod.toNat % r.entries)) ((withPhase r rec).take 0x3F)) r.owner (ringLink s r)
      (r.base + 64 * (r.prod.toNat % r.entries) + 0x3F) ((withPhase r rec).drop 0x3F)
  else hostWrite s r.owner (ringLink s r) (r.base + 64 * (r.prod.toNat % r.entries)) (withPhase r rec)

theorem ringPush_eq {s : State} {key : Nat} {r : Ring} (h : getRing s key = some r) (rec : Bytes) :
    ringPush s key rec = raiseIfDue (modRing (entryWritten s r rec) key (ringWritten (entryWritten s r rec).now)) key := by
  simp only [ringPush, h]
  rfl

@[simp] theorem entryWritten_rings (s : State) (r : Ring) (rec : Bytes) : (entryWritten s r rec).rings = s.rings := by
  unfold entryWritten
  split <;> simp

theorem getRing_entryWritten (s : State) (r : Ring) (rec : Bytes) (k : Nat) : getRing (entryWritten s r rec) k = getRing s k := by
  simp only [getRing, entryWritten_rings]

theorem entryWritten_out (s : State) (r : Ring) (rec : Bytes) :
    (entryWritten s r rec).out =
      (if linkUp s (ringLink s r) = false then []
       else if r.splitPhase then
         [.hostWrite (ringLink s r) ((pasidOf (getInst s r.owner) (ringLink s r)).getD 0) (r.base + 64 * (r.prod.toNat % r.entries) + 0x3F)
            ((withPhase r rec).drop 0x3F),
          .hostWrite (ringLink s r) ((pasidOf (getInst s r.owner) (ringLink s r)).getD 0) (r.base + 64 * (r.prod.toNat % r.entries))
            ((withPhase r rec).take 0x3F)]
       else [.hostWrite (ringLink s r) ((pasidOf (getInst s r.owner) (ringLink s r)).getD 0) (r.base + 64 * (r.prod.toNat % r.entries))
         (withPhase r rec)]) ++ s.out := by
  unfold entryWritten
  cases hup : linkUp s (ringLink s r) with
  | false => simp [hostWrite_down hup]
  | true =>
    split
    · rw [hostWrite_out_up ((linkUp_hostWrite ..).trans hup), hostWrite_out_up hup, pasidOf_hostWrite]
      simp
    · rw [hostWrite_out_up hup]
      simp

/-- The written ring's next entry is the one after; what CQ_MODIFY named does not touch the index. -/
theorem ringWritten_prod (now : Nat) (r : Ring) : (ringWritten now r).prod = r.prod + 1 := by
  unfold ringWritten ringNext
  split <;> rfl

theorem getRing_ringPush_same {s : State} {key : Nat} {r : Ring} (h : getRing s key = some r) (rec : Bytes) :
    (getRing (ringPush s key rec) key).map (·.prod) = some (r.prod + 1) := by
  rw [ringPush_eq h, getRing_raiseIfDue_same, getRing_modRing_same, getRing_entryWritten, h]
  exact congrArg some (ringWritten_prod ..)

theorem getRing_ringPush_other {s : State} {key k : Nat} {r : Ring} (h : getRing s key = some r) (rec : Bytes) (hk : k ≠ key) :
    getRing (ringPush s key rec) k = getRing s k := by
  rw [ringPush_eq h, getRing_raiseIfDue_other _ hk, getRing_modRing_other _ _ hk, getRing_entryWritten]

/-- Settles O57: the entry is the record with its phase, what leaves is its writes and a vector, and the index goes to the next entry. -/
theorem ringEntryPhase : Obligations.RingEntryPhase := by
  unfold Obligations.RingEntryPhase
  intro s key rec r h
  obtain ⟨after, hafter, hout⟩ := raiseIfDue_out (modRing (entryWritten s r rec) key (ringWritten (entryWritten s r rec).now)) key
  have hphase : phaseOf r < 2 := Nat.mod_lt _ (by decide)
  refine ⟨withPhase r rec, ringLink s r, (pasidOf (getInst s r.owner) (ringLink s r)).getD 0, after, length_withPhase r rec,
    fun i hi => byteAt_withPhase_low r rec hi, ?phase, ?others, hafter, rfl, ?out, getRing_ringPush_same h rec,
    fun k hk => getRing_ringPush_other h rec hk⟩
  case phase =>
    rw [byteAt_withPhase_last, ← phaseOf]
    omega
  case others =>
    rw [byteAt_withPhase_last]
    omega
  case out => rw [ringPush_eq h, hout, modRing_out, entryWritten_out, List.append_assoc]

end Sys2Proof.Proofs
end

section
/-! What the commands on rings, regions, tables and shapers and the queries leave as it is, whatever they answer (R461, R470-R472, R480, R481), and
with it O59. -/

namespace Sys2Proof.Proofs

open Sys2Proof Machine Claims

-- ------------------------------------------------------------------ the relation

theorem hostOnly_refl (s : State) : hostOnly s s := ⟨rfl, fun _ => rfl⟩

theorem hostOnly_trans {s t u : State} (h : hostOnly s t) (g : hostOnly t u) : hostOnly s u := by
  obtain ⟨hframe, hinst⟩ := h
  obtain ⟨gframe, ginst⟩ := g
  refine ⟨?_, fun n => (ginst n).trans (hinst n)⟩
  exact (congrArg (fun w : State => { w with
    rings := s.rings, cmds := s.cmds, instances := s.instances, out := s.out, nextId := s.nextId, rrLast := s.rrLast }) gframe :).trans hframe

/-- What differs in rings, commands pending, output, the next number and the round robin alone. -/
theorem hostOnly_of_instances {s t : State}
    (h : { t with rings := s.rings, cmds := s.cmds, out := s.out, nextId := s.nextId, rrLast := s.rrLast } = s) : hostOnly s t := by
  have hinst : t.instances = s.instances := (congrArg State.instances h :)
  exact ⟨(congrArg (fun w : State => { w with instances := s.instances }) h :), fun n => by rw [getInst, getInst, hinst]⟩

/-- An instance but for its counters and its dirty-page logs. -/
def hostless (i : Instance) : Instance := { i with stats := [], log0 := none, log1 := none }

theorem hostOnly_modInst {f : Instance → Instance} (hf : ∀ i, hostless (f i) = hostless i) (s : State) (n : Nat) :
    hostOnly s (modInst s n f) :=
  ⟨rfl, fun m => getInst_modInst_keeps (g := hostless) hf s n m⟩

-- ------------------------------------------------------------------ the steps of a command

theorem hostOnly_emit (s : State) (o : Output) : hostOnly s (emit s o) := hostOnly_of_instances rfl

theorem hostOnly_modRing (s : State) (k : Nat) (f : Ring → Ring) : hostOnly s (modRing s k f) := hostOnly_of_instances rfl

theorem hostOnly_countInst (s : State) (n k add : Nat) : hostOnly s (countInst s n k add) := hostOnly_modInst (by intro; rfl) ..

theorem hostOnly_hostWrite (s : State) (inst link addr : Nat) (data : Bytes) : hostOnly s (hostWrite s inst link addr data) := by
  simp only [hostWrite]
  split
  next => exact hostOnly_refl s
  next =>
    split
    next =>
      split
      next => exact hostOnly_trans (hostOnly_emit ..) (hostOnly_modInst (by intro; rfl) ..)
      next => exact hostOnly_emit ..
    next =>
      split
      next => exact hostOnly_trans (hostOnly_emit ..) (hostOnly_modInst (by intro; rfl) ..)
      next => exact hostOnly_emit ..

theorem hostOnly_raiseIfDue (s : State) (key : Nat) : hostOnly s (raiseIfDue s key) := by
  simp only [raiseIfDue]
  split
  · exact hostOnly_refl s
  · split
    · exact hostOnly_trans (hostOnly_emit ..) (hostOnly_modRing ..)
    · exact hostOnly_refl s

theorem hostOnly_entryWritten (s : State) (r : Ring) (rec : Bytes) : hostOnly s (entryWritten s r rec) := by
  unfold entryWritten
  split
  · exact hostOnly_trans (hostOnly_hostWrite ..) (hostOnly_hostWrite ..)
  · exact hostOnly_hostWrite ..

theorem hostOnly_ringPush (s : State) (key : Nat) (rec : Bytes) : hostOnly s (ringPush s key rec) := by
  cases h : getRing s key with
  | none =>
    simp only [ringPush, h]
    exact hostOnly_refl s
  | some r =>
    rw [ringPush_eq h]
    exact hostOnly_trans (hostOnly_entryWritten ..) (hostOnly_trans (hostOnly_modRing ..) (hostOnly_raiseIfDue ..))

theorem hostOnly_completeCmd (s : State) (r : CmdRing) (tag index : BitVec 32) (op st bytes : Nat) (res : List (Nat × Nat × Nat)) :
    hostOnly s (completeCmd s r tag index op st bytes res) := hostOnly_trans (hostOnly_modRing ..) (hostOnly_ringPush ..)

theorem hostOnly_answered (op : Nat) (r : CmdRing) (d : Cmd) (i : BitVec 32) (id : Nat) (u : State) (a : Answer) :
    hostOnly u (answered op r d i id u a) := by
  cases a with
  | done st res buf =>
    refine hostOnly_trans ?_ (hostOnly_completeCmd ..)
    split
    · exact hostOnly_refl u
    · exact hostOnly_hostWrite ..
  | wait arg => exact hostOnly_of_instances rfl

theorem hostOnly_takeCmd {s t : State} {r : CmdRing} {i : BitVec 32} (h : takeCmd s r = some (i, t)) : hostOnly s t := by
  unfold takeCmd at h
  split at h
  · split at h
    · simp only [Option.some.injEq, Prod.mk.injEq] at h
      obtain ⟨-, rfl⟩ := h
      have hcounted := fun f g => hostOnly_trans (hostOnly_modRing s (cmdRingKey r) f) (hostOnly_trans (hostOnly_modRing _ (cplRingKey r) g)
        (hostOnly_countInst _ (cmdInst r) 5 1))
      cases r with
      | admin => exact hcounted ..
      | inst n => exact hostOnly_trans (hcounted ..) (hostOnly_of_instances rfl)
    · cases h
  · cases h

-- ------------------------------------------------------------------ a command whose rule changes one more field

/-- k puts back a field that a command's rule changes and that hostOnly, the queue and what goOnKeep keeps do not speak of. -/
structure Restores (k : State → State) : Prop where
  host : ∀ {u v}, hostOnly u v → hostOnly (k u) (k v)
  kept : ∀ u pending now resetAt split lfsr,
    k { u with pending := pending, now := now, resetAt := resetAt, split := split, lfsr := lfsr } =
      { k u with pending := pending, now := now, resetAt := resetAt, split := split, lfsr := lfsr }

/-- A rule that changes what k puts back, and beside it what hostOnly allows. -/
def FramedRule (k : State → State) (f : Nat → Nat → State → State × Answer) : Prop :=
  ∀ inst id u, hostOnly (k u) (k (f inst id u).1)

section
variable {k : State → State} {f : Nat → Nat → State → State × Answer} (hk : Restores k) (hf : FramedRule k f)
include hk hf

theorem hostOnly_judged (op : Nat) (adm : Bool) (r : CmdRing) (d : Cmd) (s : State) : hostOnly (k s) (k (judged op adm r d f s).1) := by
  have htaken : hostOnly (k s) (k { s with nextId := s.nextId + 1 }) := hk.host (hostOnly_of_instances rfl)
  simp only [judged, apply_ite Prod.fst]
  split
  · exact htaken
  · split
    · exact htaken
    · split
      · exact htaken
      · exact hostOnly_trans htaken (hf ..)

theorem hostOnly_runCmd (op : Nat) (adm : Bool) (r : CmdRing) (d : Cmd) (s : State) : hostOnly (k s) (k (runCmd op adm r d f s)) := by
  cases htake : takeCmd s r with
  | none =>
    rw [runCmd_none op adm d f htake]
    exact hostOnly_refl _
  | some x =>
    obtain ⟨i, t⟩ := x
    rw [runCmd_eq_answered htake]
    exact hostOnly_trans (hk.host (hostOnly_takeCmd htake)) (hostOnly_trans (hostOnly_judged hk hf ..) (hk.host (hostOnly_answered ..)))

/-- What the command answers differs from the state before it as its rule allows. -/
theorem hostOnly_of_runCmd {op : Nat} {adm : Bool} {r : CmdRing} {d : Cmd} {s t : State} (hs : k s = s)
    (h : goOnKeep s (runCmd op adm r d f s) = .next t) : hostOnly s (k t) := by
  have hrun := hostOnly_runCmd hk hf op adm r d s
  rw [hs] at hrun
  obtain ⟨hframe, hinst⟩ := hrun
  injection h with h
  rw [← h, hk.kept]
  exact ⟨(congrArg (fun w : State => { w with
    pending := s.pending, now := s.now, resetAt := s.resetAt, split := s.split, lfsr := s.lfsr }) hframe :), hinst⟩

end

-- ------------------------------------------------------------------ what each rule changes

/-- A rule whose effect, if it has one, is framed. -/
theorem hostOnly_orElse {k : State → State} {s : State} {fail : List (Bool × Nat)} {ok : State → State × Answer}
    (h : hostOnly (k s) (k (ok s).1)) : hostOnly (k s) (k (orElse s fail ok).1) := by
  unfold orElse
  split
  · exact hostOnly_refl _
  · exact h

theorem restores_id : Restores id := ⟨id, fun _ _ _ _ _ _ => rfl⟩

/-- The commands that change no more than hostOnly allows. -/
theorem framed_ringCommands (r : CmdRing) (d : Cmd) :
    ∀ c ∈ [Instr.cqCreate r d, .cqModify r d, .cqDestroy r d, .ringCreate r d, .ringDestroy r d, .query r d, .stats r d, .qpQuery r d,
        .armQuery r d, .insQuery r d],
      ∃ op adm f, FramedRule id f ∧ ∀ s, exec c s = goOnKeep s (runCmd op adm r d f s) := by
  simp only [List.forall_mem_cons, List.not_mem_nil, false_implies, implies_true, and_true]
  refine ⟨⟨_, _, cmdCqCreate d, ?cqCreate, fun _ => rfl⟩, ⟨_, _, cmdCqModify d, ?cqModify, fun _ => rfl⟩,
    ⟨_, _, cmdCqDestroy d, ?cqDestroy, fun _ => rfl⟩, ⟨_, _, cmdRingCreate d, ?ringCreate, fun _ => rfl⟩,
    ⟨_, _, cmdRingDestroy d, ?ringDestroy, fun _ => rfl⟩, ⟨_, _, cmdQuery d, ?query, fun _ => rfl⟩, ⟨_, _, cmdStats d, ?stats, fun _ => rfl⟩,
    ⟨_, _, cmdQpQuery d, ?qpQuery, fun _ => rfl⟩, ⟨_, _, cmdArmQuery d, ?armQuery, fun _ => rfl⟩,
    ⟨_, _, cmdInsQuery d, ?insQuery, fun _ => rfl⟩⟩
  case cqCreate | cqModify | cqDestroy | ringCreate | ringDestroy => exact fun _ _ _ => hostOnly_orElse (hostOnly_of_instances rfl)
  case stats | insQuery => exact fun _ _ _ => hostOnly_orElse (hostOnly_refl _)
  case query | qpQuery | armQuery =>
    intro inst id u
    simp only [cmdQuery, cmdQpQuery, cmdArmQuery]
    split <;> exact hostOnly_orElse (hostOnly_refl _)

/-- The regions of l, in place of the state's; and likewise below. -/
def withMrs (l : Table MemRegion) (u : State) : State := { u with mrs := l }
def withBuckets (l : Table Bucket) (u : State) : State := { u with buckets := l }
def withTables (l : Table TableEntry) (o : Table (Nat × TableEntry)) (u : State) : State := { u with tables := l, tablesOld := o }
def withTelemetry (m : Nat) (on : Bool) (u : State) : State := { u with tlmMask := m, tlmOn := on }

theorem restores_withMrs (l : Table MemRegion) : Restores (withMrs l) :=
  ⟨fun ⟨hframe, hinst⟩ => ⟨(congrArg (withMrs l) hframe :), hinst⟩, fun _ _ _ _ _ _ => rfl⟩

theorem restores_withBuckets (l : Table Bucket) : Restores (withBuckets l) :=
  ⟨fun ⟨hframe, hinst⟩ => ⟨(congrArg (withBuckets l) hframe :), hinst⟩, fun _ _ _ _ _ _ => rfl⟩

theorem restores_withTables (l : Table TableEntry) (o : Table (Nat × TableEntry)) : Restores (withTables l o) :=
  ⟨fun ⟨hframe, hinst⟩ => ⟨(congrArg (withTables l o) hframe :), hinst⟩, fun _ _ _ _ _ _ => rfl⟩

theorem restores_withTelemetry (m : Nat) (on : Bool) : Restores (withTelemetry m on) :=
  ⟨fun ⟨hframe, hinst⟩ => ⟨(congrArg (withTelemetry m on) hframe :), hinst⟩, fun _ _ _ _ _ _ => rfl⟩

theorem framed_cmdMrReg (l : Table MemRegion) (d : Cmd) : FramedRule (withMrs l) (cmdMrReg d) :=
  fun _ _ _ => hostOnly_orElse (hostOnly_refl _)

theorem framed_cmdMrDereg (l : Table MemRegion) (d : Cmd) : FramedRule (withMrs l) (cmdMrDereg d) :=
  fun _ _ _ => hostOnly_orElse (hostOnly_refl _)

theorem withBuckets_setBucket (l : Table Bucket) (u : State) (k rate burst : Nat) (mark forgive : Bool) :
    withBuckets l (setBucket u k rate burst mark forgive) = withBuckets l u := by
  simp only [withBuckets, setBucket, bucketRate, bucketBurst]

theorem framed_cmdShape (l : Table Bucket) (d : Cmd) : FramedRule (withBuckets l) (cmdShape d) := by
  refine fun inst id u => hostOnly_orElse ?_
  dsimp only
  rw [withBuckets_setBucket]
  exact hostOnly_refl _

theorem framed_cmdTlmSet (m : Nat) (on : Bool) (d : Cmd) : FramedRule (withTelemetry m on) (cmdTlmSet d) :=
  fun _ _ _ => hostOnly_orElse (hostOnly_refl _)

/-- A BIND_TABLE writes its entry and, with a RING entry, its ring (R465). -/
theorem framed_cmdBindTable (l : Table TableEntry) (o : Table (Nat × TableEntry)) (d : Cmd) : FramedRule (withTables l o) (cmdBindTable d) := by
  refine fun inst id u => hostOnly_orElse ?_
  dsimp only
  split <;> split <;> exact hostOnly_of_instances rfl

/-- Settles O59: what a command does to the state is what its rule does, framed, between the taking of the command and its completion. -/
theorem hostCommandFrames : Obligations.HostCommandFrames := by
  unfold Obligations.HostCommandFrames
  refine ⟨?rings, ?regions, ?shape, ?tables, ?telemetry⟩
  case rings =>
    intro s t r d c hc h
    obtain ⟨op, adm, f, hf, hrun⟩ := framed_ringCommands r d c hc
    exact hostOnly_of_runCmd restores_id hf rfl ((hrun s).symm.trans h)
  case regions =>
    intro s t r d c hc h
    simp only [List.mem_cons, List.not_mem_nil, or_false] at hc
    obtain rfl | rfl := hc
    · exact hostOnly_of_runCmd (restores_withMrs s.mrs) (framed_cmdMrReg s.mrs d) rfl h
    · exact hostOnly_of_runCmd (restores_withMrs s.mrs) (framed_cmdMrDereg s.mrs d) rfl h
  case shape => exact fun s t r d h => hostOnly_of_runCmd (restores_withBuckets s.buckets) (framed_cmdShape s.buckets d) rfl h
  case tables =>
    exact fun s t r d h => hostOnly_of_runCmd (restores_withTables s.tables s.tablesOld) (framed_cmdBindTable s.tables s.tablesOld d) rfl h
  case telemetry =>
    exact fun s t r d h => hostOnly_of_runCmd (restores_withTelemetry s.tlmMask s.tlmOn) (framed_cmdTlmSet s.tlmMask s.tlmOn d) rfl h

end Sys2Proof.Proofs
end

section
/-! The commands on completion queues, other rings, memory regions and shapers, once their checks pass (R430, R440, R464, R468, R469), and with them
O1 and O2. -/

namespace Sys2Proof.Proofs

open Sys2Proof Machine Claims

-- ------------------------------------------------------------------ completion queues (R468)

theorem cmdCqCreate_free {s : State} {d : Cmd} {inst id n : Nat} (hargs : argsOnly d [(0, 11), (16, 8)] = true) (hsplit : argN d 10 1 ≤ 1)
    (hshape : ringShapeOk (argN d 0 4) (argN d 16 8) = true) (hirq : irqOk (argN d 4 2) (argN d 6 2) = true)
    (hfree : lowestFrom (fun k => (getRing s (ringKey rkCq k)).isNone) 65536 0 = some n)
    (hshare : ringsOf s rkCq inst < (getInst s inst).shares.cqs) :
    cmdCqCreate d inst id s =
      ({ s with
         rings := tset s.rings (ringKey rkCq n)
           { kind := rkCq, owner := inst, number := n, base := argN d 16 8, entries := argN d 0 4, vector := argN d 4 2,
             modCount := argN d 6 2, modUsec := argN d 8 2, splitPhase := argN d 10 1 = 1 } },
       .done stOK [(0, 2, n)] []) := by
  simp only [cmdCqCreate, hfree]
  refine orElse_ok (firstFail_cons ?params (firstFail_cons ?resource rfl))
  case params => simp [hargs, hsplit, hshape, hirq]
  case resource => simp [hshare]

/-- Conditions that do not hold leave the verdict to the list behind them. -/
theorem firstFail_append {l m : List (Bool × Nat)} (hl : firstFail l = none) (hm : firstFail m = none) : firstFail (l ++ m) = none := by
  rw [firstFail_none] at hl hm ⊢
  exact fun x hx => (List.mem_append.mp hx).elim (hl x) (hm x)

/-- A command may name a completion queue of its own instance. -/
theorem firstFail_cqChecks {s : State} {inst n : Nat} {bad : Bool} {q : Ring} (hq : getRing s (ringKey rkCq n) = some q)
    (howner : q.owner = inst) (hbad : bad = false) : firstFail (cqChecks s inst n bad) = none :=
  firstFail_cons (by simp [hq, howner]) (firstFail_cons (by simp [hq, hbad]) rfl)

theorem cmdCqModify_named {s : State} {d : Cmd} {inst id : Nat} {q : Ring} (hargs : argsOnly d [(0, 8)] = true)
    (hq : getRing s (ringKey rkCq (argN d 0 2)) = some q) (howner : q.owner = inst) (hirq : irqOk (argN d 2 2) (argN d 4 2) = true) :
    cmdCqModify d inst id s =
      (modRing s (ringKey rkCq (argN d 0 2)) fun r => { r with modNext := some (argN d 2 2, argN d 4 2, argN d 6 2) }, .ok) := by
  unfold cmdCqModify
  exact orElse_ok (firstFail_cqChecks hq howner (by simp [hargs, hirq]))

theorem cmdCqDestroy_unused {s : State} {d : Cmd} {inst id : Nat} {q : Ring} (hargs : argsOnly d [(0, 2)] = true)
    (hq : getRing s (ringKey rkCq (argN d 0 2)) = some q) (howner : q.owner = inst) (hunused : cqInUse s (argN d 0 2) = false) :
    cmdCqDestroy d inst id s = ({ s with rings := tdel s.rings (ringKey rkCq (argN d 0 2)) }, .ok) := by
  unfold cmdCqDestroy
  exact orElse_ok (firstFail_append (firstFail_cqChecks hq howner (by simp [hargs])) (firstFail_cons hunused rfl))

-- ------------------------------------------------------------------ other rings (R430, R440, R468)

/-- A raw ring has one of 16 numbers and names a completion queue of its instance; the other rings have no number. -/
def RingPlace (s : State) (inst : Nat) (d : Cmd) : Prop :=
  if isRawKind (argN d 0 1) then
    argN d 1 1 ≤ 15 ∧ (∃ q, getRing s (ringKey rkCq (argN d 8 2)) = some q ∧ q.owner = inst)
  else argN d 1 1 = 0

theorem cmdRingCreate_new {s : State} {d : Cmd} {inst id key : Nat} (hargs : argsOnly d [(0, 3), (4, 20)] = true)
    (hkey : ringOfKind inst (argN d 0 1) (argN d 1 1) = some key) (hsplit : argN d 2 1 ≤ 1)
    (hshape : ringShapeOk (argN d 4 4) (argN d 16 8) = true) (htlm : argN d 0 1 = rkTlm → inst = 0) (hplace : RingPlace s inst d)
    (hirq : argN d 0 1 = rkEvent ∨ argN d 0 1 = rkTs → irqOk (argN d 10 2) (argN d 12 2) = true) (hnew : getRing s key = none) :
    cmdRingCreate d inst id s =
      ({ s with
         rings := tset s.rings key
           { kind := argN d 0 1, owner := inst, number := argN d 1 1, base := argN d 16 8, entries := argN d 4 4, vector := argN d 10 2,
             modCount := argN d 12 2, modUsec := argN d 14 2, splitPhase := argN d 2 1 = 1,
             cq := if isRawKind (argN d 0 1) then argN d 8 2 else 0 } }, .ok) := by
  have htlm' : (argN d 0 1 = rkTlm && inst ≠ 0) = false := by simpa using htlm
  have hirq' : ((argN d 0 1 = rkEvent || argN d 0 1 = rkTs) && !irqOk (argN d 10 2) (argN d 12 2)) = false := by simpa using hirq
  simp only [cmdRingCreate, hkey, htlm', hirq']
  unfold RingPlace at hplace
  cases hraw : isRawKind (argN d 0 1) with
  | true =>
    rw [hraw, if_pos rfl] at hplace
    obtain ⟨hnumber, q, hq, howner⟩ := hplace
    refine orElse_ok (firstFail_cons ?owner (firstFail_cons ?params (firstFail_cons ?state rfl)))
    case owner => simp [hq, howner]
    case params => simp [hargs, hsplit, hshape, hnumber, hq]
    case state => simp [hnew]
  | false =>
    rw [hraw, if_neg Bool.false_ne_true] at hplace
    refine orElse_ok (firstFail_cons ?owner (firstFail_cons ?params (firstFail_cons ?state rfl)))
    case owner => simp
    case params => simp [hargs, hsplit, hshape, hplace]
    case state => simp [hnew]

theorem cmdRingDestroy_there {s : State} {d : Cmd} {inst id key : Nat} {q : Ring} (hargs : argsOnly d [(0, 2)] = true)
    (hkey : ringOfKind inst (argN d 0 1) (argN d 1 1) = some key) (htlm : argN d 0 1 = rkTlm → inst = 0)
    (hnumber : if isRawKind (argN d 0 1) then argN d 1 1 ≤ 15 else argN d 1 1 = 0) (hq : getRing s key = some q) :
    cmdRingDestroy d inst id s = ({ s with rings := tdel s.rings key }, .ok) := by
  have htlm' : (argN d 0 1 = rkTlm && inst ≠ 0) = false := by simpa using htlm
  have hplace : (!isRawKind (argN d 0 1) && argN d 1 1 ≠ 0) = false := by
    cases hraw : isRawKind (argN d 0 1) with
    | true => rfl
    | false => simpa [hraw] using hnumber
  have hbound : argN d 1 1 ≤ 15 := by
    split at hnumber
    · exact hnumber
    · omega
  simp only [cmdRingDestroy, hkey, htlm', hplace]
  exact orElse_ok (firstFail_cons rfl (firstFail_cons (by simp [hargs, hbound, hq]) rfl))

/-- Settles O1, clause by clause from what the rule of each command gives once its checks pass. -/
theorem ringCommandsComplete : Obligations.RingCommandsComplete := by
  unfold Obligations.RingCommandsComplete
  refine ⟨?cqCreate, ?cqModify, ?cqDestroy, ?create, ?destroy⟩
  case cqCreate =>
    intro s r d n h hargs hsplit hshape hirq hfree hshare
    exact runCmd_completes h (listed_of_argsOnly hargs) (cmdCqCreate_free hargs hsplit hshape hirq hfree hshare)
  case cqModify =>
    intro s r d q h hargs hq howner hirq
    exact runCmd_completes h (listed_of_argsOnly hargs) (cmdCqModify_named hargs hq howner hirq)
  case cqDestroy =>
    intro s r d q h hargs hq howner hunused
    exact runCmd_completes h (listed_of_argsOnly hargs) (cmdCqDestroy_unused hargs hq howner hunused)
  case create =>
    rintro s r d kind number key h hargs rfl rfl hkey hsplit hshape htlm hplace hirq hnew
    exact runCmd_completes h (listed_of_argsOnly hargs) (cmdRingCreate_new hargs hkey hsplit hshape htlm hplace hirq hnew)
  case destroy =>
    rintro s r d kind number key q h hargs rfl rfl hkey htlm hnumber hq
    exact runCmd_completes h (listed_of_argsOnly hargs) (cmdRingDestroy_there hargs hkey htlm hnumber hq)

-- ------------------------------------------------------------------ memory regions (R464)

theorem cmdMrReg_free {s : State} {d : Cmd} {inst id n : Nat} (hargs : argsOnly d [(0, 2), (8, 16)] = true) (hlink : argN d 0 1 ≤ 1)
    (haccess : argN d 1 1 ≤ 7) (hlen : 1 ≤ argN d 16 8) (hmax : argN d 16 8 ≤ 2 ^ 40)
    (hfree : lowestFrom (fun k => !((tget s.mrs k).any (·.live))) 1048576 0 = some n) (hshare : mrsOf s inst < (getInst s inst).shares.mrs) :
    cmdMrReg d inst id s =
      ({ s with
         mrs := tset s.mrs n
           { owner := inst, variant := nextVariant s n, live := true, link := argN d 0 1, access := argN d 1 1, addr := argN d 8 8,
             length := argN d 16 8 } },
       .done stOK [(0, 4, n * 256 + nextVariant s n)] []) := by
  simp only [cmdMrReg, hfree]
  refine orElse_ok (firstFail_cons ?params (firstFail_cons ?resource rfl))
  case params =>
    have hsome : argN d 16 8 ≠ 0 := by omega
    simpa [hargs, hlink, haccess, hsome] using hmax
  case resource => simp [hshare]

theorem cmdMrDereg_unused {s : State} {d : Cmd} {inst id : Nat} {m : MemRegion} (hargs : argsOnly d [(0, 4)] = true)
    (hm : tget s.mrs (argN d 0 4 / 256) = some m) (hlive : m.live = true) (hvariant : m.variant = argN d 0 4 % 256) (howner : m.owner = inst)
    (hunused : keyInUse s inst (argN d 0 4) = false) :
    cmdMrDereg d inst id s = ({ s with mrs := tmod s.mrs (argN d 0 4 / 256) fun m => { m with live := false } }, .ok) := by
  have hnamed : ((tget s.mrs (argN d 0 4 / 256)).filter fun m => m.live && m.variant = argN d 0 4 % 256) = some m := by
    simp [hm, hlive, hvariant]
  simp only [cmdMrDereg, hnamed]
  exact orElse_ok (firstFail_cons (by simp [howner]) (firstFail_cons (by simp [hargs]) (firstFail_cons hunused rfl)))

-- ------------------------------------------------------------------ shapers (R386, R469)

/-- A shaper of an instance, which instance 0 alone may set, or of a queue pair, which its owner may (R386, R469). -/
structure ShapeTarget (s : State) (inst : Nat) (d : Cmd) : Prop where
  instances : argN d 0 1 < 2 → inst = 0 ∧ argN d 4 4 ≤ 1023 ∧ instExists s (argN d 4 4) = true
  queuePairs : 2 ≤ argN d 0 1 → ∃ q, qpByNum s (argN d 4 4) = some q ∧ q.2.owner = inst

theorem cmdShape_named {s : State} {d : Cmd} {inst id : Nat} (hready : ready s rdyShp = true) (hargs : argsOnly d [(0, 2), (4, 12)] = true)
    (htarget : argN d 0 1 ≤ 3) (hflags : argN d 1 1 ≤ 3) (hrate : rateOk (argN d 8 4) = true) (hburst : burstOk (argN d 12 4) = true)
    (h : ShapeTarget s inst d) :
    cmdShape d inst id s =
      (setBucket s
        (if argN d 0 1 < 2 then instBucket (argN d 4 4) (argN d 0 1 % 2 = 1) else qpBucket (argN d 4 4 % 2 ^ 18) (argN d 0 1 % 2 = 1))
        (argN d 8 4) (argN d 12 4) (argN d 0 1 % 2 = 1 && bit (argN d 1 1) 1) (bit (argN d 1 1) 0), .ok) := by
  simp only [cmdShape]
  refine orElse_ok (firstFail_cons (by simp [hready]) ?target)
  obtain hinst | hqp := Nat.lt_or_ge (argN d 0 1) 2
  · obtain ⟨rfl, hid, hexists⟩ := h.instances hinst
    exact firstFail_cons (by simp [hinst]) (firstFail_cons (by simp [hargs, htarget, hflags, hrate, hburst, hinst, hid, hexists]) rfl)
  · obtain ⟨q, hq, howner⟩ := h.queuePairs hqp
    have hnot : ¬argN d 0 1 < 2 := not_lt.mpr hqp
    exact firstFail_cons (by simp [hnot, hq, howner]) (firstFail_cons (by simp [hargs, htarget, hflags, hrate, hburst, hnot, hq]) rfl)

/-- Settles O2, clause by clause from what the rule of each command gives once its checks pass. -/
theorem regionCommandsComplete : Obligations.RegionCommandsComplete := by
  unfold Obligations.RegionCommandsComplete
  refine ⟨?register, ?deregister, ?shape⟩
  case register =>
    intro s r d n h hargs hlink haccess hlen hmax hfree hshare
    exact runCmd_completes h (listed_of_argsOnly hargs) (cmdMrReg_free hargs hlink haccess hlen hmax hfree hshare)
  case deregister =>
    intro s r d m h hargs hm hlive hvariant howner hunused
    exact runCmd_completes h (listed_of_argsOnly hargs) (cmdMrDereg_unused hargs hm hlive hvariant howner hunused)
  case shape =>
    rintro s r d t h hready hargs rfl htarget hflags hrate hburst hinst hqp
    exact runCmd_completes h (listed_of_argsOnly hargs) (cmdShape_named hready hargs htarget hflags hrate hburst ⟨hinst, hqp⟩)

end Sys2Proof.Proofs
end

section
/-! QUERY, STATS and BIND_TABLE (R465, R467, R470, R474), and with them O4. -/

namespace Sys2Proof.Proofs

open Sys2Proof Machine Claims

-- ------------------------------------------------------------------ QUERY (R470) and STATS (R467, R474)

theorem unitRecord_ne_nil (s : State) (ui : Nat) (u : MUnit) : unitRecord s ui u ≠ [] :=
  List.ne_nil_of_length_pos (by rw [unitRecord, length_record]; decide)

theorem cmdQuery_named {s : State} {d : Cmd} {inst id : Nat} {u : MUnit} (hargs : argsOnly d [(0, 2)] = true) (hready : ready s rdyShf = true)
    (hu : getUnit s (argUnit d 0) = some u) (howner : u.owner = inst ∨ inst = 0) :
    cmdQuery d inst id s = (s, .done stOK [] (unitRecord s (argUnit d 0) u)) := by
  simp only [cmdQuery, hu]
  exact orElse_ok (firstFail_cons (by simp [hready]) (firstFail_cons (by simpa [or_iff_not_imp_left] using howner)
    (firstFail_cons (by simp [hargs]) rfl)))

theorem cmdStats_permitted {s : State} {d : Cmd} {inst id : Nat} (hargs : argsOnly d [(0, 1), (2, 2)] = true)
    (hpermitted : statsPermitted s inst (argN d 0 1) (argN d 2 2) = true) (hexists : statsExists s (argN d 0 1) (argN d 2 2) = true)
    (hfits : statsSize (argN d 0 1) ≤ d.bufLen) : cmdStats d inst id s = (s, .wait (statsArg d)) := by
  simp only [cmdStats, hpermitted]
  exact orElse_ok (firstFail_cons (by simp) (firstFail_cons (by simp [hargs, hexists, hfits]) rfl))

/-- The last step of a FAB cycle settles the one STATS that was taken in it. -/
theorem settleStats_one {s : State} {c : PendCmd} (hlast : (s.now + 1) % fabCycle = 0) (hc : s.cmds.filter (·.opcode = 0x09) = [c]) :
    settleStats s = finishStats (handOver s s.now) c := by
  simp only [settleStats, hlast, if_true, hc, List.foldl_cons, List.foldl_nil]

-- ------------------------------------------------------------------ BIND_TABLE (R465)

/-- The table of a BIND_TABLE command, 0 of steer entries and 1 of mirror entries, and the entry of it that it writes. -/
def bindTable (d : Cmd) : Nat := argN d 1 1
def bindKey (inst : Nat) (d : Cmd) : Nat := tableKey inst (argN d 0 1) (bindTable d) (argN d 2 1)

/-- A BIND_TABLE meets every condition of R465 on its table and entry, and the instance owns what the entry and the binding number name. -/
structure BindAllowed (s : State) (inst : Nat) (d : Cmd) : Prop where
  ready : ready s rdyShf = true
  args : argsOnly d (bindArgs (bindTable d)) = true
  table : bindTable d ≤ 1
  kind : if bindTable d = 0 then (bindEntry d).kind ≤ 2 else (bindEntry d).kind = 0 ∨ (bindEntry d).kind = 3 ∨ (bindEntry d).kind = 4
  binding : argN d 0 1 ≤ 63
  mirror : bindTable d = 1 → argN d 2 1 ≤ 15
  owned : bindOwned s inst (bindEntry d) = true
  entry : bindEntryOk s (bindTable d) (bindEntry d) = true
  unit : ∃ u ∈ tvals s.units, u.owner = inst ∧ u.bindings.any (·.number = argN d 0 1) = true

/-- The state with the entry written; a table's old entry stays in force for its FAB cycle. -/
def entryBound (s : State) (inst : Nat) (d : Cmd) : State :=
  { s with tables := tset s.tables (bindKey inst d) (bindEntry d),
           tablesOld := tset s.tablesOld (bindKey inst d) (fabOf s, entryAt s (bindKey inst d) s.now) }

/-- The rings with the one of a RING entry, which starts at index 0, in place of the one before. -/
def ringsBound (s : State) (inst : Nat) (d : Cmd) : Table Machine.Ring :=
  if (bindEntry d).kind = 2 then
    tset (tdel s.rings (steerKey inst (argN d 0 1) (argN d 2 1))) (steerKey inst (argN d 0 1) (argN d 2 1))
      { kind := rkSteer, owner := inst, number := argN d 0 1 * 256 + argN d 2 1, link := (bindEntry d).link, pasid := (bindEntry d).pasid,
        base := (bindEntry d).base, entries := (bindEntry d).slotCount, cq := (bindEntry d).cq, offset := (bindEntry d).offset,
        slotSize := (bindEntry d).slotSize, prod := 0, cons := 0 }
  else tdel s.rings (steerKey inst (argN d 0 1) (argN d 2 1))

theorem cmdBindTable_allowed {s : State} {d : Cmd} {inst id : Nat} (h : BindAllowed s inst d) :
    cmdBindTable d inst id s =
      (if bindTable d = 0 then { entryBound s inst d with rings := ringsBound s inst d } else entryBound s inst d, .ok) := by
  obtain ⟨hready, hargs, htable, hkind, hbinding, hmirror, howned, hentry, u, hu, howner, hnumber⟩ := h
  have hunit : ((tvals s.units).any fun u => u.owner = inst && u.bindings.any (·.number = argN d 0 1)) = true :=
    List.any_eq_true.mpr ⟨u, hu, by simp [howner, hnumber]⟩
  have hplace : (bindTable d = 1 && 15 < argN d 2 1) = false := by simpa using hmirror
  have hkindOk : (bindTable d ≤ 1 && (if bindTable d = 0 then decide ((bindEntry d).kind ≤ 2)
      else (bindEntry d).kind = 0 || (bindEntry d).kind = 3 || (bindEntry d).kind = 4)) = true := by
    by_cases ht : bindTable d = 0
    · rw [if_pos ht] at hkind
      simp [ht, hkind]
    · rw [if_neg ht] at hkind
      simpa [ht, htable, or_assoc] using hkind
  unfold bindTable at *
  simp only [cmdBindTable]
  refine (orElse_ok (firstFail_cons ?ready (firstFail_cons ?owned (firstFail_cons ?params rfl)))).trans ?effect
  case ready => simp [hready]
  case owned => simp [howned]
  case params =>
    rw [hplace, hkindOk, hunit]
    simp [hargs, hbinding, hentry]
  case effect =>
    refine congrArg (·, Answer.ok) ?_
    by_cases ht : argN d 1 1 = 0
    · by_cases hk : (bindEntry d).kind = 2
      · simp [ht, hk, entryBound, ringsBound, bindKey, bindTable]
      · simp [ht, hk, entryBound, ringsBound, bindKey, bindTable]
    · simp [ht, entryBound, bindKey, bindTable]

/-- Settles O4: QUERY, STATS and BIND_TABLE from what their rules give, the end of a STATS from the last step of its FAB cycle. -/
theorem queryAndTableCommandsComplete : Obligations.QueryAndTableCommandsComplete := by
  unfold Obligations.QueryAndTableCommandsComplete
  refine ⟨?query, ?stats, ?settled, ?steer, ?mirror⟩
  case query =>
    intro s r d u h hargs hready hu howner
    exact runCmd_answers h (listed_of_argsOnly hargs) (unitRecord_ne_nil _ _ _) (cmdQuery_named hargs hready hu howner)
  case stats =>
    intro s r d h hargs hpermitted hexists hfits
    exact runCmd_waits h (listed_of_argsOnly hargs) (cmdStats_permitted hargs hpermitted hexists hfits)
  case settled =>
    rintro s u c b hpending hlast hc rfl rfl
    rw [step, hpending]
    simp only [tick, settleStats_one hlast hc, finishStats]
  case steer =>
    intro s r d u h hargs hready htable hbinding hkind howned hentry hu howner hnumber
    have hallowed : BindAllowed (taken s r) (cmdInst r) d :=
      ⟨hready, by rwa [bindTable, htable], by rw [bindTable, htable]; decide, by rwa [bindTable, if_pos htable], hbinding,
        fun h => absurd (htable.symm.trans h) (by decide), howned, by rwa [bindTable, htable], u, hu, howner, hnumber⟩
    have hbound := (cmdBindTable_allowed (id := s.nextId) hallowed).trans (congrArg (·, Answer.ok) (if_pos htable))
    refine ⟨_, runCmd_completes h (listed_of_argsOnly hargs) hbound, ?tables, ?rings⟩
    case tables => simp only [entryBound, bindKey, bindTable, htable]
    case rings => simp only [ringsBound, bindEntry, htable, if_true]
  case mirror =>
    intro s r d u h hargs hready htable hbinding hindex hkind howned hentry hu howner hnumber
    have hother : bindTable d ≠ 0 := by rw [bindTable, htable]; decide
    have hallowed : BindAllowed (taken s r) (cmdInst r) d :=
      ⟨hready, by rwa [bindTable, htable], by rw [bindTable, htable], by rwa [if_neg hother], hbinding, fun _ => hindex, howned,
        by rwa [bindTable, htable], u, hu, howner, hnumber⟩
    have hbound := (cmdBindTable_allowed (id := s.nextId) hallowed).trans (congrArg (·, Answer.ok) (if_neg hother))
    refine (runCmd_completes h (listed_of_argsOnly hargs) hbound).trans ?_
    simp only [entryBound, bindKey, bindTable, htable, fabOf, taken_now h]

end Sys2Proof.Proofs
end

section
/-! Doorbells of adapter-produced rings, the vector of an armed ring, and the doorbells that are discarded, that overrun their ring or that find
their instance out of service (R434, R435, R440, R478), and with them O18, O19 and O20. -/

namespace Sys2Proof.Proofs

open Sys2Proof Machine Claims

-- ------------------------------------------------------------------ consumer indices (R435, R440)

/-- The ring after a consumer index that is not ahead of its producer index: the entries before it are free, and ARM arms the ring. -/
def consumed (b : Doorbell) (r : Ring) : Ring :=
  { r with cons := b.index, times := r.times.drop (b.index - r.cons).toNat, armed := r.armed || (b.arm && hasVector r.kind),
           armIndex := if b.arm then b.index else r.armIndex,
           firstAt := if b.arm then (r.times.drop (b.index - r.cons).toNat).head? else r.firstAt }

theorem consumerBell_held {s : State} {k : Nat} {r : Ring} {b : Doorbell} (h : (b.index - r.cons).toNat ≤ ringCount r) :
    consumerBell s k r b = raiseIfDue (modRing s k (consumed b)) k :=
  if_neg (not_lt.mpr h)

/-- An armed ring with an entry past the armed index, whose moderation time has passed, raises its vector while the home link is up. -/
theorem raiseIfDue_timed {s : State} {k t : Nat} {r : Ring} (hr : getRing s k = some r) (harmed : r.armed = true)
    (hsome : 0 < (r.prod - r.armIndex).toNat) (hpast : (r.prod - r.armIndex).toNat < 2 ^ 31) (hfirst : r.firstAt = some t)
    (hdue : r.modUsec * usec ≤ s.now - t) (hlink : linkUp s (getInst s r.owner).home = true) (hiod : s.iodLost = false) :
    raiseIfDue s k = modRing (emit s (.msix (getInst s r.owner).home r.vector)) k fun r => { r with armed := false } := by
  have htimed : (r.firstAt.any fun t => decide (r.modUsec * usec ≤ s.now - t)) = true := by
    rw [hfirst]
    exact decide_eq_true hdue
  simp only [raiseIfDue, hr, harmed, htimed, hlink, hiod, decide_eq_true hsome, decide_eq_true hpast, Bool.or_true, Bool.and_self, Bool.not_false,
    if_true]

/-- Settles O18: each doorbell acts on the ring it names, and an index within the ring is not an overrun. -/
theorem consumerDoorbellsComplete : Obligations.ConsumerDoorbellsComplete := by
  unfold Obligations.ConsumerDoorbellsComplete
  refine ⟨fun s page k b r t hheld ht => ?consumer, ?vector⟩
  case consumer =>
    have hbell : consumerBell s k r b = t := (consumerBell_held hheld).trans ht.symm
    refine ⟨?cq, ?cpl, ?event, ?ts, ?adminCpl, ?tlm, ?steer⟩
    case cq | cpl | event | ts | adminCpl | tlm => exact fun h => congrArg (goOnKeep s) ((onDoorbell_of_reaches h).trans hbell)
    case steer => exact fun h => congrArg (goOnKeep s) ((onDoorbell_of_reaches h).trans (congrArg (serveHeld · page) hbell))
  case vector =>
    intro s k r t hr harmed hsome hpast hfirst hdue hlink hiod
    exact congrArg (goOnKeep s) (raiseIfDue_timed hr harmed hsome hpast hfirst hdue hlink hiod)

-- ------------------------------------------------------------------ discarded doorbells (R434)

/-- The rings of instance 0 alone are named on no other page. -/
theorem doorbellKey_other_page {kind page : Nat} {b : Doorbell} (hkind : kind = rkAdmin ∨ kind = rkAdminCpl ∨ kind = rkTlm) (hpage : page ≠ 0) :
    doorbellKey kind page b = none := by
  obtain rfl | rfl | rfl := hkind <;> simp [doorbellKey, hpage]

/-- A doorbell in one of R434's cases reaches no ring. -/
theorem doorbellRing_of_broken {s : State} {kind page : Nat} {b : Doorbell} (h : broken s kind page b) : doorbellRing s kind page b = none := by
  unfold doorbellRing
  obtain haligned | hreserved | ⟨hkind, hpage⟩ | hforeign := h
  · exact if_pos (by simp [haligned])
  · exact if_pos (by rw [decide_eq_true hreserved, Bool.or_true, Bool.true_or])
  · simp [doorbellKey_other_page hkind hpage]
  · split
    · rfl
    · split
      next => rfl
      next k hk =>
        split
        next r hr => exact if_neg (by simp [hforeign k r hk hr])
        next => rfl

/-- It counts in DOORBELL_DROPPED of the active instance on whose page it comes, and does nothing else. -/
theorem onDoorbell_of_broken {s : State} {kind page : Nat} {b : Doorbell} {f : Nat → Ring → State} (hactive : (getInst s page).st = .active)
    (h : broken s kind page b) : onDoorbell s kind page b f = countInst s page 0 1 := by
  simp only [onDoorbell, doorbellRing_of_broken h, hactive, reduceCtorEq, or_self, if_false, dropDoorbell, true_or, if_true]

/-- Settles O19: a broken doorbell is dropped, whatever its ring's doorbells do. -/
theorem brokenDoorbellsDiscarded : Obligations.BrokenDoorbellsDiscarded := by
  unfold Obligations.BrokenDoorbellsDiscarded
  intro s page b ds hactive
  and_intros <;> exact fun h => congrArg (goOnKeep s) (onDoorbell_of_broken hactive h)

-- ------------------------------------------------------------------ overruns (R435), and instances out of service (R478)

theorem producerBell_overrun {s : State} {k : Nat} {r : Ring} {b : Doorbell} {ds : List Bytes} (h : r.entries < (b.index - r.cons).toNat) :
    producerBell s k r b ds = ringOverrun s r.owner r.kind b.number.toNat :=
  if_pos h

/-- An overrun posts no buffer. -/
theorem postRawRx_overrun {s : State} {k : Nat} {r : Ring} {b : Doorbell} {ds : List Bytes} (h : r.entries < (b.index - r.cons).toNat) :
    postRawRx s k r b ds = ringOverrun s r.owner r.kind b.number.toNat := by
  rw [← producerBell_overrun (ds := ds) h]
  exact if_pos (by rw [decide_eq_true h, Bool.true_or])

theorem consumerBell_overrun {s : State} {k : Nat} {r : Ring} {b : Doorbell} (h : ringCount r < (b.index - r.cons).toNat) :
    consumerBell s k r b = ringOverrun s r.owner r.kind b.number.toNat :=
  if_pos h

theorem onDoorbell_out_of_service {s : State} {kind page : Nat} {b : Doorbell} {f : Nat → Ring → State}
    (h : (getInst s page).st = .resetting ∨ (getInst s page).st = .destroying) : onDoorbell s kind page b f = s :=
  if_pos h

/-- Settles O20: an index past the end from what each kind of ring does with it, a page out of service from what any doorbell does there. -/
theorem overrunAndResettingDoorbells : Obligations.OverrunAndResettingDoorbells := by
  unfold Obligations.OverrunAndResettingDoorbells
  refine ⟨fun s page k b r ds hpast => ⟨?sq, ?rawTx, ?rawRx⟩, fun s page k b r hpast => ?consumer, fun s page b ds hout => ?resetting⟩
  case sq => exact fun h => congrArg (goOnKeep s) ((onDoorbell_of_reaches h).trans (producerBell_overrun hpast))
  case rawTx => exact fun h => congrArg (goOnKeep s) ((onDoorbell_of_reaches h).trans (producerBell_overrun hpast))
  case rawRx => exact fun h => congrArg (goOnKeep s) ((onDoorbell_of_reaches h).trans (postRawRx_overrun hpast))
  case consumer => and_intros <;> exact fun h => congrArg (goOnKeep s) ((onDoorbell_of_reaches h).trans (consumerBell_overrun hpast))
  case resetting => and_intros <;> exact congrArg (goOnKeep s) (onDoorbell_out_of_service hout)

end Sys2Proof.Proofs
end

section
/-! Errors of a core and of memory (R508, R509, R514-R518), and with them O41; resets, READY bits and a die's rail (R539-R545, R568, R582), and with
them O43; the board, the PCIe links and the end of a port split (R356, R425, R429, R582, R585, R589), and with them O44. -/

namespace Sys2Proof.Proofs

open Sys2Proof Machine Claims

-- ------------------------------------------------------------------ errors (R508, R514-R518)

/-- An event of a memory that is there does what its rule says. -/
theorem memEvent_there {s t : State} {m : MemLoc} (h : memThere s m = true) : goOnKeep s (if memThere s m then t else s) = goOnKeep s t :=
  congrArg (goOnKeep s) (if_pos h)

/-- Settles O41, clause by clause from what each event does with a core that is up or a memory that is there. -/
theorem errorsComplete : Obligations.ErrorsComplete := by
  unfold Obligations.ErrorsComplete
  refine ⟨?core, fun s m h => memEvent_there h, fun s m h => memEvent_there h, fun s m pass h => memEvent_there h, fun s m n h => memEvent_there h⟩
  case core =>
    intro s core shelf hup hshelf
    exact congrArg (goOnKeep s) (if_pos (by rw [hup, decide_eq_true hshelf]; rfl))

-- ------------------------------------------------------------------ READY bits and a die's rail (R541-R543, R582)

section
variable {s : State} {f : Func} (hiod : s.iodLost = false) (hpower : s.poweredDown = false) (hwaits : isReady s f (funcNeeds s f).1 = false)
include hiod hpower hwaits

/-- A function that has not reported READY, with power and IOD there, fails or reports READY once its condition holds. -/
theorem exec_functionReady_waiting (ok : Bool) :
    exec (.functionReady f ok) s = goOnKeep s
      (if !ok then regPut s glbReady (regRaw s glbReady % 2 ^ 24 + (funcNeeds s f).1 * 2 ^ 24 + 2 ^ 31)
       else if (funcNeeds s f).2 then funcUp s f (funcNeeds s f).1 else s) :=
  congrArg (goOnKeep s) (if_neg (by simp [hiod, hpower, hwaits]))

theorem exec_functionReady_up (hneeds : (funcNeeds s f).2 = true) :
    exec (.functionReady f true) s = goOnKeep s (funcUp s f (funcNeeds s f).1) :=
  (exec_functionReady_waiting hiod hpower hwaits true).trans (congrArg (goOnKeep s) (if_pos hneeds))

end

/-- A die whose rail is off comes up after the dies before it (R582). -/
theorem exec_pwrenRaise_next {s : State} {die : Nat} (ok : Bool) (hdie : die < 4) (hready : ready s rdyMgmt = true) (hiod : s.iodLost = false)
    (hpower : s.poweredDown = false) (hoff : s.pwren.getLsbD die = false) (hthere : s.dieLost.getLsbD die = false)
    (hbefore : die = 0 ∨ s.pwren.getLsbD (die - 1) = true ∨ s.dieLost.getLsbD (die - 1) = true) :
    exec (.pwrenRaise die ok) s = goOnKeep s
      (let t := setPwren s die true
       if ok then { t with dieRail := t.dieRail ||| (1#4 <<< die) }
       else regPut t glbReady (regRaw t glbReady % 2 ^ 24 + 7 * 2 ^ 24 + 2 ^ 31)) := by
  have hturn : (decide (die = 0) || s.pwren.getLsbD (die - 1) || s.dieLost.getLsbD (die - 1)) = true := by simpa [or_assoc] using hbefore
  refine congrArg (goOnKeep s) (if_pos ?_)
  rw [hturn, hready, hiod, hpower, hoff, hthere, decide_eq_true hdie]
  rfl

/-- Settles O43, clause by clause from what each reset and each report does. -/
theorem resetsComplete : Obligations.ResetsComplete := by
  unfold Obligations.ResetsComplete
  refine ⟨fun s ok => rfl, ?register, ?flr0, ?flr1, ?readies, ?fails, ?rail⟩
  case register => exact fun s h => congrArg (goOn s) (if_pos h)
  case flr0 => exact fun s h => congrArg (goOn s) (if_pos h)
  case flr1 => exact fun s h => congrArg (goOn s) (if_pos h)
  case readies => exact fun s f hiod hpower hwaits hneeds => exec_functionReady_up hiod hpower hwaits hneeds
  case fails => exact fun s f hiod hpower hwaits => exec_functionReady_waiting hiod hpower hwaits false
  case rail =>
    exact fun s die ok hdie hready hiod hpower hoff hthere hbefore => exec_pwrenRaise_next ok hdie hready hiod hpower hoff hthere hbefore

-- ------------------------------------------------------------------ the board and the PCIe links (R356, R425, R429, R585)

theorem exec_pcieLinkDown_up {s : State} {l : Nat} (hl : l < 2) (hup : linkUp s l = true) :
    exec (.pcieLinkDown l) s = goOnKeep s (loseLink s l) :=
  congrArg (goOnKeep s) (if_pos (by simp only [hl, hup, decide_true, Bool.and_self]))

theorem exec_perstAssertOne_powered {s : State} {l : Nat} (hl : l < 2) (hpower : s.poweredDown = false) :
    exec (.perstAssertOne l) s = goOnKeep s
      (let t := { s with links := tmod s.links l fun k => { k with perst := true } }
       if (tgetD t.links (1 - l) {}).perst then stopAll t else if linkUp t l then loseLink t l else t) :=
  congrArg (goOnKeep s) (if_pos (by simp [hl, hpower]))

theorem exec_pcieLinkUp_powered {s : State} {l gen : Nat} (hl : l < 2) (hpower : s.poweredDown = false) (hiod : s.iodLost = false) :
    exec (.pcieLinkUp l gen) s = goOnKeep s
      { s with links := tmod s.links l fun k => { k with up := true, gen := gen, perst := false } } :=
  congrArg (goOnKeep s) (if_pos (by simp [hl, hpower, hiod]))

theorem exec_splitConfigInForce_pending {s : State} {id : Nat} (h : s.splitCmd = some id) :
    exec .splitConfigInForce s = goOnKeep s
      (finishCmd { (portsOf s).foldl (fun s p => regOr s (macStatus p) 1) s with splitCmd := none } id stOK []) := by
  refine congrArg (goOnKeep s) ?_
  rw [h]

/-- Settles O44, clause by clause from what each event of the board does. -/
theorem boardEventsComplete : Obligations.BoardEventsComplete := by
  unfold Obligations.BoardEventsComplete
  refine ⟨fun s => rfl, ?linkDown, ?perst, ?linkUp, fun s c => rfl, ?split⟩
  case linkDown => exact fun s l hl hup => exec_pcieLinkDown_up hl hup
  case perst =>
    rintro s t l hl hpower rfl
    exact exec_perstAssertOne_powered hl hpower
  case linkUp => exact fun s l gen hl hpower hiod => exec_pcieLinkUp_powered hl hpower hiod
  case split => exact fun s id h => exec_splitConfigInForce_pending h

end Sys2Proof.Proofs
end

section
/-! The management mailbox (R531, R573, R574), and with it O21. -/

namespace Sys2Proof.Proofs

open Sys2Proof Machine Claims

theorem mboxServed_of_running {s : State} (hready : ready s rdyMgmt = true) (hruns : s.mgmt.restarting = false) : mboxServed s = true := by
  rw [mboxServed, hready, hruns]
  rfl

/-- The word of a request gives its code, its sequence number and its argument back (R573). -/
theorem mboxWord_fields {code : Nat} (hcode : code < 256) (seq : Byte) (arg : BitVec 16) :
    mboxWord code seq arg % 256 = code ∧ BitVec.ofNat 8 (mboxWord code seq arg / 256) = seq ∧ mboxWord code seq arg / 65536 % 65536 = arg.toNat := by
  have hseq : seq.toNat < 256 := seq.isLt
  have harg : arg.toNat < 65536 := arg.isLt
  simp only [mboxWord]
  refine ⟨by omega, BitVec.eq_of_toNat_eq ?_, by omega⟩
  rw [BitVec.toNat_ofNat]
  omega

theorem mboxPost_free {s : State} {code : Nat} (hcode : code < 256) (seq : Byte) (arg : BitVec 16) (hready : ready s rdyMgmt = true)
    (hruns : s.mgmt.restarting = false) (hfree : s.mgmt.mbox = none) : mboxPost s (mboxWord code seq arg) = posted s code seq arg := by
  obtain ⟨hcode, hseq, harg⟩ := mboxWord_fields hcode seq arg
  simp only [mboxPost, mboxServed_of_running hready hruns, hfree, hcode, hseq, harg, Bool.not_true, Option.isSome_none, Bool.false_eq_true, if_false]
  rfl

theorem exec_mboxComplete_served {s : State} {q : MboxReq} (hready : ready s rdyMgmt = true) (hruns : s.mgmt.restarting = false)
    (hq : s.mgmt.mbox = some q) (hfirmware : s.mgmt.recovery = false) :
    exec .mboxComplete s = goOnKeep s (mboxAnswer (mboxResult s q).2 q.seq (mboxResult s q).1.1 (mboxResult s q).1.2) := by
  refine congrArg (goOnKeep s) ?_
  simp only [hq, mboxServed_of_running hready hruns, hfirmware, if_true, Bool.false_eq_true, if_false]

/-- Settles O21: each request from what posting a word does, its completion from what answering it does. -/
theorem mailboxCompletes : Obligations.MailboxCompletes := by
  unfold Obligations.MailboxCompletes
  refine ⟨fun s q a hready hruns hfree => ?posts, fun s q hready hruns hq hfirmware => exec_mboxComplete_served hready hruns hq hfirmware⟩
  case posts =>
    have hpost : ∀ code, code < 256 → goOnKeep s (mboxPost s (mboxWord code q a)) = goOnKeep s (posted s code q a) :=
      fun code hcode => congrArg (goOnKeep s) (mboxPost_free hcode q a hready hruns hfree)
    exact ⟨hpost 1 (by decide), hpost 2 (by decide), hpost 3 (by decide), hpost 4 (by decide)⟩

end Sys2Proof.Proofs
end

section
/-! The steps of an instance's reset, of scrubs and of a dirty-page log (R485, R491-R501), and with them O14; those of fault commands and of firmware
(R527-R531), and with them O16. -/

namespace Sys2Proof.Proofs

open Sys2Proof Machine Claims

-- ------------------------------------------------------------------ instance reset (R495)

theorem exec_insDrainBoundExpire_due {s : State} {n : Nat} {p : ResetProc} (hp : (getInst s n).proc = some p) (hdue : p.deadline ≤ s.now)
    (hreleased : p.released = false) (hstep : p.stepFour = false) (hopen : resetDrained s n = false) :
    exec (.insDrainBoundExpire n) s = goOnKeep s (squashInst s n) := by
  refine congrArg (goOnKeep s) ?_
  rw [hp]
  exact if_pos (by simp [hdue, hreleased, hstep, hopen])

theorem exec_insResetComplete_drained {s : State} {n : Nat} {p : ResetProc} (hp : (getInst s n).proc = some p) (hreleased : p.released = false)
    (hdrained : resetDrained s n = true) : exec (.insResetComplete n) s = goOnKeep s (endReset s n p) := by
  refine congrArg (goOnKeep s) ?_
  rw [hp]
  exact if_pos (by simp [hreleased, hdrained])

-- ------------------------------------------------------------------ scrubs (R485, R491-R493)

theorem exec_hbmScrubDone_freed {s : State} {j : HbmJob} {t : List HbmJob} (hjobs : s.hbmJobs = j :: t) (hfreeing : j.freeing = true) :
    exec .hbmScrubDone s = goOnKeep s
      (let u := finishCmd? { s with hbmJobs := t, freeBlocks := s.freeBlocks ++ j.blocks } j.cmd stOK []
       match j.destroyed with | some n => checkDestroy u n | none => u) := by
  refine congrArg (goOnKeep s) ?_
  rw [hjobs]
  exact if_pos hfreeing

/-- The blocks of a created region hold zero; a region given up meanwhile was flushed. -/
theorem exec_hbmScrubDone_created {s : State} {j : HbmJob} {t : List HbmJob} (hjobs : s.hbmJobs = j :: t) (hfreeing : j.freeing = false) :
    exec .hbmScrubDone s = goOnKeep s
      (if ((tget s.regions j.region).map (·.blocks)) = some j.blocks then finishCmd? { s with hbmJobs := t } j.cmd stOK [(0, 2, j.region)]
       else finishCmd? { s with hbmJobs := t } j.cmd stFlushed []) := by
  refine congrArg (goOnKeep s) ?_
  rw [hjobs]
  exact if_neg (Bool.eq_false_iff.mp hfreeing)

theorem exec_clusterScrubDone_running {s : State} {c t : Nat} (hscrub : (getCluster s c).scrub = some t) :
    exec (.clusterScrubDone c) s = goOnKeep s
      (let u := modCluster s c fun k => { k with owner := none, leaving := false, scrub := none, pattern := .idle, switchAt := none }
       match (getCluster s c).owner with | some n => checkDestroy u n | none => u) := by
  refine congrArg (goOnKeep s) ?_
  rw [hscrub] <;> rfl

-- ------------------------------------------------------------------ dirty-page logs (R499-R501)

theorem exec_dirtyPageMark_due {s : State} {n link : Nat} {g : DirtyLog} (hg : logOf (getInst s n) link = some g)
    (hdue : g.oldDue ≠ [] ∨ g.due ≠ []) : exec (.dirtyPageMark n link) s = goOnKeep s (markLog s n link g) := by
  refine congrArg (goOnKeep s) ?_
  rw [hg]
  exact if_neg (not_and_or.mpr hdue)

theorem exec_logSyncDone_marked {s : State} {n link id : Nat} {g : DirtyLog} {stop : Bool} (hg : logOf (getInst s n) link = some g)
    (hsync : g.sync = some (id, stop)) (hmarked : g.oldDue = []) :
    exec (.logSyncDone n link) s = goOnKeep s (finishSync s n link g id stop) := by
  refine congrArg (goOnKeep s) ?_
  simp only [hg, hsync, hmarked, if_true]

/-- Settles O14, clause by clause from what each step does when it is due. -/
theorem instanceStepsComplete : Obligations.InstanceStepsComplete := by
  unfold Obligations.InstanceStepsComplete
  refine ⟨?squash, ?reset, ?freed, ?created, ?cluster, ?mark, ?sync⟩
  case squash => exact fun s n p hp hdue hreleased hstep hopen => exec_insDrainBoundExpire_due hp hdue hreleased hstep hopen
  case reset => exact fun s n p hp hreleased hdrained => exec_insResetComplete_drained hp hreleased hdrained
  case freed => exact fun s j t hjobs hfreeing => exec_hbmScrubDone_freed hjobs hfreeing
  case created => exact fun s j t hjobs hfreeing => exec_hbmScrubDone_created hjobs hfreeing
  case cluster => exact fun s c t hscrub => exec_clusterScrubDone_running hscrub
  case mark => exact fun s n link g hg hdue => exec_dirtyPageMark_due hg hdue
  case sync => exact fun s n link id g stop hg hsync hmarked => exec_logSyncDone_marked hg hsync hmarked

-- ------------------------------------------------------------------ spare shifts (R527)

/-- A pending shift that no unit's unshifted setting stands against is applied. -/
theorem exec_spareShiftApply_free {s : State} {die col : Nat} {x : Shift}
    (hx : s.shiftPend.find? (fun x => x.die = die && x.column = col) = some x) (hfree : unitsToMove s x = []) :
    exec (.spareShiftApply die col) s = goOnKeep s (finishCmd? (applyShift s x) x.cmd stOK [(0, 2, x.moved)]) := by
  refine congrArg (goOnKeep s) ?_
  rw [hx]
  exact if_pos hfree

theorem exec_fltShiftBoundExpire_due {s : State} {x : Shift}
    (hx : s.shiftPend.find? (fun x => x.deadline.any fun t => t ≤ s.now) = some x) :
    exec .fltShiftBoundExpire s = goOnKeep s (finishCmd?
      { s with shiftPend := s.shiftPend.map fun y =>
          if y.die = x.die ∧ y.column = x.column then { y with cmd := none, deadline := none } else y }
      x.cmd stTimeout [(0, 2, x.moved)]) := by
  refine congrArg (goOnKeep s) ?_
  rw [hx]

-- ------------------------------------------------------------------ a die's return (R528) and firmware (R530, R531)

theorem exec_dieReturnDone_ok {s : State} {die : Nat} {x : DieReturn} (failed : List Nat) (hx : s.dieReturn = some x) (hdie : x.die = die) :
    exec (.dieReturnDone die true failed) s = goOnKeep s (finishCmd?
      (dieBack { s with dieReturn := none } die (failed.filter fun c => dieOfCluster c = die).dedup) x.cmd stOK
      [(0, 2, (failed.filter fun c => dieOfCluster c = die).dedup.length)]) := by
  refine congrArg (goOnKeep s) ?_
  simp only [hx, hdie, if_true]

theorem exec_fwFlashWritten_writing {s : State} {b : Bytes} {id : Nat} (h : s.mgmt.writing = some (b, id)) :
    exec .fwFlashWritten s = goOnKeep s (finishCmd { s with mgmt := { s.mgmt with flash := some b, writing := none } } id stOK []) := by
  refine congrArg (goOnKeep s) ?_
  rw [h]

theorem exec_fwStartTimeout_due {s : State} (hstarts : s.mgmt.restarting = true) (hdue : s.mgmt.startDeadline ≤ s.now) :
    exec .fwStartTimeout s = goOnKeep s (failedStart s) :=
  congrArg (goOnKeep s) (if_pos (by simp [hstarts, hdue]))

/-- Settles O16, clause by clause from what each step does when it is due. -/
theorem faultStepsComplete : Obligations.FaultStepsComplete := by
  unfold Obligations.FaultStepsComplete
  refine ⟨?apply, ?bound, ?die, ?flash, ?start⟩
  case apply => exact fun s die col x hx hfree => exec_spareShiftApply_free hx hfree
  case bound => exact fun s x hx => exec_fltShiftBoundExpire_due hx
  case die => exact fun s die x failed hx hdie => exec_dieReturnDone_ok failed hx hdie
  case flash => exact fun s b id h => exec_fwFlashWritten_writing h
  case start => exact fun s hstarts hdue => exec_fwStartTimeout_due hstarts hdue

end Sys2Proof.Proofs
end

section
/-! Commands on instances, clusters, HBM regions and dirty-page logs (R479-R501, R505), and with them O12, O13 and O55. -/

namespace Sys2Proof.Proofs

open Sys2Proof Machine Claims

-- ------------------------------------------------------------------ what these commands share (R11, R476, R477)

/-- An administration command for which the rule gives a record writes it to its buffer and completes with OK. -/
theorem runCmd_admin_answers {s u : State} {d : Cmd} {op : Nat} {f : Nat → Nat → State → State × Answer} {buf : Bytes} (h : turn s .admin)
    (hd : d.unlisted = none) (hbuf : buf ≠ []) (hf : f 0 s.nextId (taken s .admin) = (u, .done stOK [] buf)) :
    goOnKeep s (runCmd op true .admin d f s) = answers s u .admin d op buf :=
  (congrArg (goOnKeep s) (runCmd_admin ..)).trans (runCmd_answers h hd hbuf hf)

/-- A well-formed command may name an instance that exists. -/
theorem firstFail_insChecks {s : State} {n : Nat} {retired bad conflict : Bool} (h : names s n) (hretired : retired = false) (hbad : bad = false)
    (hconflict : conflict = false) : firstFail (insChecks s n retired bad conflict) = none := by
  obtain ⟨hready, hn, hexists⟩ := h
  exact firstFail_cons (by simp [hready]) (firstFail_cons hretired (firstFail_cons (by simp [hn, hexists, hbad])
    (firstFail_cons hconflict rfl)))

-- ------------------------------------------------------------------ INS_CREATE (R479)

theorem argsOnly_of_createGood {d : Cmd} (h : createBad d = false) : argsOnly d [(0, 2)] = true := by
  by_contra hbad
  simp [createBad, hbad] at h

theorem cmdInsCreate_free {s : State} {d : Cmd} {inst id : Nat} (hready : ready s rdyIns = true) (hsome : 1 ≤ argN d 0 2) (hmax : argN d 0 2 ≤ 1023)
    (hgood : createBad d = false) (hnew : instExists s (argN d 0 2) = false) (hpresent : (bitmapAt d 0x70).any (clusterRetired s) = false)
    (hfree : (bitmapAt d 0x70).any (fun c => !clusterFree s c) = false) (hpasid0 : pasidTaken s 0 (pasidField (bufN d 4 4)) = false)
    (hpasid1 : pasidTaken s 1 (pasidField (bufN d 8 4)) = false) :
    cmdInsCreate d inst id s = (createInst s (argN d 0 2) d, .ok) := by
  have hnumber : argN d 0 2 ≠ 0 := Nat.one_le_iff_ne_zero.mp hsome
  unfold cmdInsCreate
  refine orElse_ok (firstFail_cons (by simp [hready]) (firstFail_cons hpresent (firstFail_cons ?params (firstFail_cons ?state rfl))))
  case params => simp [hnumber, hmax, hgood]
  case state => rw [hnew, hfree, hpasid0, hpasid1]; rfl

-- ------------------------------------------------------------------ INS_DESTROY, INS_RESET and INS_SHARE (R482, R494-R497)

theorem cmdReset_active {s : State} {d : Cmd} {inst id : Nat} (destroy : Bool) (hname : names s (argN d 0 2)) (hsome : 1 ≤ argN d 0 2)
    (hargs : argsOnly d [(0, 2), (4, 4)] = true) (hbound : argN d 4 4 ≤ 1000000) (hactive : instActive s (argN d 0 2) = true) :
    cmdReset destroy d inst id s =
      (beginReset s (argN d 0 2) (resetBound s (argN d 4 4)) destroy false (some id), .wait (argN d 0 2)) := by
  have hnumber : argN d 0 2 ≠ 0 := Nat.one_le_iff_ne_zero.mp hsome
  unfold cmdReset
  exact orElse_ok (firstFail_insChecks hname rfl (by simp [hnumber, hargs, hbound]) (by simp [hactive]))

theorem cmdInsShare_active {s : State} {d : Cmd} {inst id : Nat} (hname : names s (argN d 0 2)) (hargs : argsOnly d [(0, 2)] = true)
    (hlen : d.bufLen = 64) (hshares : sharesOk d 0 = true) (hactive : instActive s (argN d 0 2) = true) :
    cmdInsShare d inst id s = (setShares s (argN d 0 2) (sharesAt d 0) (bit (bufN d 0x13 1) 0), .ok) := by
  unfold cmdInsShare
  exact orElse_ok (firstFail_insChecks hname rfl (by simp [hargs, hlen, hshares]) (by simp [hactive]))

-- ------------------------------------------------------------------ INS_CLUSTERS (R485-R487)

theorem listed_of_clustersGood {d : Cmd} (h : clustersBad d = false) : d.unlisted = none := by
  simp only [clustersBad, Bool.or_eq_false_iff, Bool.not_eq_eq_eq_not, Bool.not_false] at h
  obtain ⟨⟨hargs, -⟩, -⟩ := h
  exact listed_of_argsOnly hargs

theorem cmdInsClustersAdd_free {s : State} {d : Cmd} {inst id : Nat} (hname : names s (argN d 0 2)) (hgood : clustersBad d = false)
    (hactive : instActive s (argN d 0 2) = true) (hpresent : (bitmapAt d 0).any (clusterRetired s) = false)
    (hfree : (bitmapAt d 0).any (fun c => !clusterFree s c) = false) :
    cmdInsClustersAdd d inst id s = (giveClusters s (argN d 0 2) (bitmapAt d 0), .done stOK [(0, 2, 0), (2, 2, 0)] []) := by
  unfold cmdInsClustersAdd
  exact orElse_ok (firstFail_insChecks hname hpresent hgood (by rw [hactive, hfree]; rfl))

/-- A retired cluster refuses the command before anything else does but NOT_READY (R11, R486). -/
theorem cmdInsClustersAdd_retired {s : State} {d : Cmd} {inst id : Nat} (hready : ready s rdyIns = true)
    (hretired : (bitmapAt d 0).any (clusterRetired s) = true) : cmdInsClustersAdd d inst id s = (s, Answer.fail stRetired) := by
  unfold cmdInsClustersAdd
  exact orElse_fail (by simp only [insChecks, firstFail, hready, hretired, Bool.not_true, Bool.false_eq_true, if_false, if_true])

theorem cmdInsClustersAdd_conflict {s : State} {d : Cmd} {inst id : Nat} (hname : names s (argN d 0 2)) (hgood : clustersBad d = false)
    (hpresent : (bitmapAt d 0).any (clusterRetired s) = false) (hheld : (bitmapAt d 0).any (fun c => !clusterFree s c) = true) :
    cmdInsClustersAdd d inst id s = (s, Answer.fail stStateConflict) := by
  obtain ⟨hready, hn, hexists⟩ := hname
  have hbad : (decide (1023 < argN d 0 2) || !instExists s (argN d 0 2) || clustersBad d) = false := by simp [hn, hexists, hgood]
  unfold cmdInsClustersAdd
  refine orElse_fail ?_
  simp only [insChecks, firstFail, hready, hpresent, hbad, hheld, Bool.not_true, Bool.or_true, Bool.false_eq_true, if_false, if_true]

theorem cmdInsClustersRemove_owned {s : State} {d : Cmd} {inst id : Nat} (hname : names s (argN d 0 2)) (hgood : clustersBad d = false)
    (hactive : instActive s (argN d 0 2) = true)
    (howned : (bitmapAt d 0).any (fun c => (getCluster s c).owner ≠ some (argN d 0 2)) = false) :
    cmdInsClustersRemove d inst id s =
      (leaveClusters s (bitmapAt d 0),
       .done stOK [(0, 2, (bitmapAt d 0).length - ((bitmapAt d 0).filter (clusterBusy s)).length),
         (2, 2, ((bitmapAt d 0).filter (clusterBusy s)).length)] []) := by
  unfold cmdInsClustersRemove
  exact orElse_ok (firstFail_insChecks hname rfl (by rw [hgood, howned]; rfl) (by simp [hactive]))

/-- Each row of INS_CLUSTERS runs the descriptors of its OP. -/
theorem clustersCmd_of_op {op : Nat} {r : CmdRing} {d : Cmd} {f : Nat → Nat → State → State × Answer} {s : State} (h : argN d 2 1 = op) :
    clustersCmd op r d f s = runCmd 0x64 true r d f s :=
  if_pos (.inl h)

theorem exec_insClustersAdd_completes {s u : State} {d : Cmd} {st : Nat} {res : List (Nat × Nat × Nat)} (h : turn s .admin)
    (hop : argN d 2 1 = 0) (hgood : clustersBad d = false) (hrule : cmdInsClustersAdd d 0 s.nextId (taken s .admin) = (u, .done st res [])) :
    exec (.insClustersAdd .admin d) s = completes s u .admin d 0x64 st res :=
  (congrArg (goOnKeep s) (clustersCmd_of_op hop)).trans (runCmd_admin_completes h (listed_of_clustersGood hgood) hrule)

theorem exec_insClustersRemove_completes {s u : State} {d : Cmd} {st : Nat} {res : List (Nat × Nat × Nat)} (h : turn s .admin)
    (hop : argN d 2 1 = 1) (hgood : clustersBad d = false) (hrule : cmdInsClustersRemove d 0 s.nextId (taken s .admin) = (u, .done st res [])) :
    exec (.insClustersRemove .admin d) s = completes s u .admin d 0x64 st res :=
  (congrArg (goOnKeep s) (clustersCmd_of_op hop)).trans (runCmd_admin_completes h (listed_of_clustersGood hgood) hrule)

-- ------------------------------------------------------------------ INS_QUERY (R505)

theorem insRecord_ne_nil (s : State) (n : Nat) : insRecord s n ≠ [] :=
  List.ne_nil_of_length_pos (by rw [insRecord, length_record]; decide)

theorem cmdInsQuery_inRange {s : State} {d : Cmd} {inst id : Nat} (hready : ready s rdyIns = true) (hargs : argsOnly d [(0, 2)] = true)
    (hn : argN d 0 2 ≤ 1023) : cmdInsQuery d inst id s = (s, .done stOK [] (insRecord s (argN d 0 2))) :=
  orElse_ok (firstFail_cons (by simp [hready]) (firstFail_cons (by simp [hargs, hn]) rfl))

/-- Settles O12, clause by clause from what the rule of each command gives once it is admitted. -/
theorem instanceCommandsComplete : Obligations.InstanceCommandsComplete := by
  unfold Obligations.InstanceCommandsComplete
  refine ⟨?create, ?destroy, ?reset, ?share, ?add, ?remove, ?query⟩
  case create =>
    rintro s d n h hready rfl hsome hmax hgood hnew hpresent hfree hpasid0 hpasid1
    exact runCmd_admin_completes h (listed_of_argsOnly (argsOnly_of_createGood hgood))
      (cmdInsCreate_free hready hsome hmax hgood hnew hpresent hfree hpasid0 hpasid1)
  case destroy =>
    rintro s d n h hname rfl hsome hargs hbound hactive
    exact runCmd_admin_waits h (listed_of_argsOnly hargs) (cmdReset_active true hname hsome hargs hbound hactive)
  case reset =>
    rintro s d n h hname rfl hsome hargs hbound hactive
    exact runCmd_admin_waits h (listed_of_argsOnly hargs) (cmdReset_active false hname hsome hargs hbound hactive)
  case share =>
    rintro s d n h hname rfl hargs hlen hshares hactive
    exact runCmd_admin_completes h (listed_of_argsOnly hargs) (cmdInsShare_active hname hargs hlen hshares hactive)
  case add =>
    rintro s d n h hname rfl hop hgood hactive hpresent hfree
    exact exec_insClustersAdd_completes h hop hgood (cmdInsClustersAdd_free hname hgood hactive hpresent hfree)
  case remove =>
    intro s d n busy h hname hn hop hgood hactive howned hbusy
    subst hn
    rw [hbusy]
    exact exec_insClustersRemove_completes h hop hgood (cmdInsClustersRemove_owned hname hgood hactive howned)
  case query =>
    intro s d h hready hargs hn
    exact runCmd_admin_answers h (listed_of_argsOnly hargs) (insRecord_ne_nil _ _) (cmdInsQuery_inRange hready hargs hn)

-- ------------------------------------------------------------------ clusters given to an instance (R486)

theorem getCluster_modCluster (s : State) (c : Nat) (f : Cluster → Cluster) (x : Nat) :
    getCluster (modCluster s c f) x = if x = c then f (getCluster s c) else getCluster s x := by
  simp only [getCluster, modCluster_clusters, tmodD, tgetD, tget_tset]
  split <;> rfl

theorem giveClusters_cons (s : State) (n c : Nat) (cs : List Nat) :
    giveClusters s n (c :: cs) = giveClusters (modCluster s c fun k => { k with owner := some n, leaving := false }) n cs := rfl

theorem getCluster_giveClusters_other {s : State} {n x : Nat} {cs : List Nat} (h : x ∉ cs) :
    getCluster (giveClusters s n cs) x = getCluster s x := by
  induction cs generalizing s with
  | nil => rfl
  | cons c cs ih =>
    obtain ⟨hne, hrest⟩ := List.ne_and_not_mem_of_not_mem_cons h
    rw [giveClusters_cons, ih hrest, getCluster_modCluster, if_neg hne]

/-- What a cluster keeps when it is given to instance n, it keeps when a list of clusters is given. -/
theorem getCluster_giveClusters_keeps {s : State} {n x : Nat} {cs : List Nat}
    (h : (getCluster s x).owner = some n ∧ (getCluster s x).leaving = false) :
    (getCluster (giveClusters s n cs) x).owner = some n ∧ (getCluster (giveClusters s n cs) x).leaving = false := by
  induction cs generalizing s with
  | nil => exact h
  | cons c cs ih =>
    rw [giveClusters_cons]
    refine ih ?_
    rw [getCluster_modCluster]
    split
    · exact ⟨rfl, rfl⟩
    · exact h

theorem getCluster_giveClusters_mem {s : State} {n x : Nat} {cs : List Nat} (h : x ∈ cs) :
    (getCluster (giveClusters s n cs) x).owner = some n ∧ (getCluster (giveClusters s n cs) x).leaving = false := by
  induction cs generalizing s with
  | nil => cases h
  | cons c cs ih =>
    rw [giveClusters_cons]
    obtain rfl | hrest := List.mem_cons.mp h
    · exact getCluster_giveClusters_keeps (by rw [getCluster_modCluster, if_pos rfl]; exact ⟨rfl, rfl⟩)
    · exact ih hrest

/-- Giving clusters changes nothing but clusters. -/
theorem giveClusters_frame (s : State) (n : Nat) (cs : List Nat) (l : Table Cluster) :
    { giveClusters s n cs with clusters := l } = { s with clusters := l } := by
  induction cs generalizing s with
  | nil => rfl
  | cons c cs ih => exact (ih _).trans rfl

/-- A cluster is free when it has no owner, does not leave one and is not being scrubbed. -/
theorem clusterFree_iff (s : State) (c : Nat) :
    clusterFree s c = true ↔ (getCluster s c).owner = none ∧ (getCluster s c).leaving = false ∧ (getCluster s c).scrub = none := by
  simp [clusterFree, and_assoc]

/-- Settles O55: a retired cluster, an owned or leaving one, and free ones from what INS_CLUSTERS answers for each. -/
theorem clustersAddedOrRefused : Obligations.ClustersAddedOrRefused := by
  unfold Obligations.ClustersAddedOrRefused
  intro s d n cs h hname hn hop hgood hcs hactive
  subst hn
  rw [hcs]
  refine ⟨?retired, fun hpresent => ?conflict, fun hpresent hfree => ?added⟩
  case retired =>
    obtain ⟨hready, -, -⟩ := hname
    exact fun hretired => exec_insClustersAdd_completes h hop hgood (cmdInsClustersAdd_retired hready (List.any_eq_true.mpr hretired))
  all_goals have hpresent : (bitmapAt d 0).any (clusterRetired (taken s .admin)) = false := List.any_eq_false.mpr fun c hc => by simp [hpresent c hc]
  case conflict =>
    rintro ⟨c, hc, hheld⟩
    have hnotFree : clusterFree (taken s .admin) c = false := by
      refine Bool.eq_false_iff.mpr fun hfree => ?_
      obtain ⟨howner, hleaving, -⟩ := (clusterFree_iff _ c).mp hfree
      exact hheld.elim (· howner) fun hleaves => Bool.false_ne_true (hleaving.symm.trans hleaves)
    have hany : (bitmapAt d 0).any (fun c => !clusterFree (taken s .admin) c) = true := List.any_eq_true.mpr ⟨c, hc, by rw [hnotFree]; rfl⟩
    exact exec_insClustersAdd_completes h hop hgood (cmdInsClustersAdd_conflict hname hgood hpresent hany)
  case added =>
    have hnone : (bitmapAt d 0).any (fun c => !clusterFree (taken s .admin) c) = false :=
      List.any_eq_false.mpr fun c hc => by simp [(clusterFree_iff _ c).mpr (hfree c hc)]
    exact ⟨_, exec_insClustersAdd_completes h hop hgood (cmdInsClustersAdd_free hname hgood hactive hpresent hnone),
      fun c hc => getCluster_giveClusters_mem hc, fun c hc => getCluster_giveClusters_other hc, giveClusters_frame ..⟩

end Sys2Proof.Proofs
end

section
/-! Commands on HBM regions and dirty-page logs (R488-R501), and with them O13. -/

namespace Sys2Proof.Proofs

open Sys2Proof Machine Claims

-- ------------------------------------------------------------------ HBM regions (R488, R491-R493)

/-- The state with region g made of the first k free blocks, whose initialisation a pending command id waits for. -/
def regionCreated (s : State) (g n k id : Nat) : State :=
  { s with
    regions := tset s.regions g { owner := n, blocks := s.freeBlocks.take k }
    freeBlocks := s.freeBlocks.drop k
    hbmJobs := s.hbmJobs ++ [{ blocks := s.freeBlocks.take k, freeing := false, cmd := some id, region := g }] }

theorem cmdHbmRegionCreate_free {s : State} {d : Cmd} {inst id g : Nat} (hname : names s (argN d 0 2)) (hargs : argsOnly d [(0, 4)] = true)
    (hsome : 1 ≤ argN d 2 2) (hmax : argN d 2 2 ≤ 368) (hactive : instActive s (argN d 0 2) = true) (hfree : lowestFree s.regions 1024 = some g)
    (hregions : (regionsOf s (argN d 0 2)).length < (getInst s (argN d 0 2)).shares.regions)
    (hblocks : blocksOf s (argN d 0 2) + argN d 2 2 ≤ (getInst s (argN d 0 2)).shares.blocks) (hpool : argN d 2 2 ≤ s.freeBlocks.length) :
    cmdHbmRegionCreate d inst id s = (regionCreated s g (argN d 0 2) (argN d 2 2) id, .wait (argN d 0 2)) := by
  have hnumber : argN d 2 2 ≠ 0 := Nat.one_le_iff_ne_zero.mp hsome
  simp only [cmdHbmRegionCreate, hfree]
  refine orElse_ok (firstFail_append (firstFail_insChecks hname rfl ?params (by simp [hactive])) (firstFail_cons ?resource rfl))
  case params => simp [hargs, hnumber, hmax]
  case resource => simp [hregions, hblocks, hpool]

/-- The state with region g given up to a pending command id: its number is free, its blocks are scrubbed. -/
def regionReleased (s : State) (g : Nat) (x : Region) (id : Nat) : State :=
  { s with
    regions := tdel s.regions g
    hbm := s.hbm.filter fun y => y.1 / 2 ^ 37 ≠ g
    hbmJobs := s.hbmJobs ++ [{ blocks := x.blocks, freeing := true, cmd := some id, region := g, destroyed := none }] }

theorem cmdHbmRegionRelease_unused {s : State} {d : Cmd} {inst id : Nat} {x : Region} (hready : ready s rdyIns = true)
    (hargs : argsOnly d [(0, 2)] = true) (hx : tget s.regions (argN d 0 2) = some x) (hactive : instActive s x.owner = true)
    (hunused : regionUsed s (argN d 0 2) = false) :
    cmdHbmRegionRelease d inst id s = (regionReleased s (argN d 0 2) x id, .wait (argN d 0 2)) := by
  simp only [cmdHbmRegionRelease, hx]
  refine (orElse_ok (firstFail_cons (by simp [hready]) (firstFail_cons (by simp [hargs]) (firstFail_cons (by simp [hactive, hunused]) rfl)))).trans ?_
  simp only [releaseRegion, hx, regionReleased]

-- ------------------------------------------------------------------ dirty-page logs (R498-R501)

/-- The range and the bitmaps of an INS_LOG_START are well formed (R498). -/
structure LogRange (link base len a b : Nat) : Prop where
  link : link ≤ 1
  base : base % 4096 = 0
  pages : len % 4096 = 0
  some : 4096 ≤ len
  most : len ≤ 2 ^ 40
  alignedA : a % 8 = 0
  alignedB : b % 8 = 0
  apart : b + ceilDiv len (2 ^ 18) * 8 ≤ a ∨ a + ceilDiv len (2 ^ 18) * 8 ≤ b

theorem cmdInsLogStart_free {s : State} {d : Cmd} {inst id : Nat} (hname : names s (argN d 0 2)) (hsome : 1 ≤ argN d 0 2)
    (hargs : argsOnly d [(0, 3), (8, 32)] = true) (hrange : LogRange (argN d 2 1) (argN d 8 8) (argN d 16 8) (argN d 24 8) (argN d 32 8))
    (hstays : (getInst s (argN d 0 2)).st ≠ .destroying) (hnone : logOf (getInst s (argN d 0 2)) (argN d 2 1) = none) :
    cmdInsLogStart d inst id s =
      (setLog s (argN d 0 2) (argN d 2 1)
        (some { base := argN d 8 8, length := argN d 16 8, bitmapA := argN d 24 8, bitmapB := argN d 32 8 }), .ok) := by
  obtain ⟨hlink, hbase, hpages, hlen, hmost, ha, hb, hapart⟩ := hrange
  have hnumber : argN d 0 2 ≠ 0 := Nat.one_le_iff_ne_zero.mp hsome
  have hbitmaps : (decide (argN d 24 8 < argN d 32 8 + ceilDiv (argN d 16 8) (2 ^ 18) * 8)
      && decide (argN d 32 8 < argN d 24 8 + ceilDiv (argN d 16 8) (2 ^ 18) * 8)) = false := by
    rw [Bool.and_eq_false_iff, decide_eq_false_iff_not, decide_eq_false_iff_not, not_lt, not_lt]
    exact hapart
  have hfits : decide (2 ^ 40 < argN d 16 8) = false := decide_eq_false (not_lt.mpr hmost)
  unfold cmdInsLogStart
  refine orElse_ok (firstFail_insChecks hname rfl ?params (by simp [hstays, hnone]))
  rw [hbitmaps, hfits]
  simp [hnumber, hargs, hlink, hbase, hpages, hlen, ha, hb]

theorem cmdLogSync_idle {s : State} {d : Cmd} {inst id : Nat} {g : DirtyLog} (stop : Bool) (hname : names s (argN d 0 2)) (hsome : 1 ≤ argN d 0 2)
    (hlink : argN d 2 1 ≤ 1) (hargs : argsOnly d [(0, 3)] = true) (hg : logOf (getInst s (argN d 0 2)) (argN d 2 1) = some g)
    (hidle : g.sync = none) :
    cmdLogSync stop d inst id s = (setLog s (argN d 0 2) (argN d 2 1) (some (swapLog g id stop)), .wait (argN d 0 2)) := by
  have hnumber : argN d 0 2 ≠ 0 := Nat.one_le_iff_ne_zero.mp hsome
  simp only [cmdLogSync, hg]
  exact orElse_ok (firstFail_insChecks hname rfl (by simp [hnumber, hargs, hlink]) (by simp [hidle]))

/-- HBM_REGION_CREATE leaves the state that O13 writes out over the state before the command. -/
theorem regionCreated_taken {s : State} {g n k id : Nat} (h : turn s .admin) :
    regionCreated (taken s .admin) g n k id =
      { taken s .admin with
        regions := tset s.regions g { owner := n, blocks := s.freeBlocks.take k }
        freeBlocks := s.freeBlocks.drop k
        hbmJobs := s.hbmJobs ++ [{ blocks := s.freeBlocks.take k, freeing := false, cmd := some id, region := g }] } := by
  have hregions : (taken s .admin).regions = s.regions := eq_of_taken (F := State.regions) h fun _ _ _ _ _ => rfl
  have hblocks : (taken s .admin).freeBlocks = s.freeBlocks := eq_of_taken (F := State.freeBlocks) h fun _ _ _ _ _ => rfl
  have hjobs : (taken s .admin).hbmJobs = s.hbmJobs := eq_of_taken (F := State.hbmJobs) h fun _ _ _ _ _ => rfl
  rw [← hregions, ← hblocks, ← hjobs, regionCreated]

/-- HBM_REGION_RELEASE leaves the state that O13 writes out over the state before the command. -/
theorem regionReleased_taken {s : State} {g id : Nat} {x : Region} (h : turn s .admin) :
    regionReleased (taken s .admin) g x id =
      { taken s .admin with
        regions := tdel s.regions g
        hbm := s.hbm.filter fun y => y.1 / 2 ^ 37 ≠ g
        hbmJobs := s.hbmJobs ++ [{ blocks := x.blocks, freeing := true, cmd := some id, region := g, destroyed := none }] } := by
  have hregions : (taken s .admin).regions = s.regions := eq_of_taken (F := State.regions) h fun _ _ _ _ _ => rfl
  have hhbm : (taken s .admin).hbm = s.hbm := eq_of_taken (F := State.hbm) h fun _ _ _ _ _ => rfl
  have hjobs : (taken s .admin).hbmJobs = s.hbmJobs := eq_of_taken (F := State.hbmJobs) h fun _ _ _ _ _ => rfl
  rw [← hregions, ← hhbm, ← hjobs, regionReleased]

/-- Settles O13, clause by clause from what the rule of each command gives once it is admitted. -/
theorem regionAndLogCommandsComplete : Obligations.RegionAndLogCommandsComplete := by
  unfold Obligations.RegionAndLogCommandsComplete
  refine ⟨?create, ?release, ?start, ?sync⟩
  case create =>
    intro s d n k g h hname hn hk hargs hsome hmax hactive hfree hregions hblocks hpool
    subst hn hk
    rw [← eq_of_taken (F := State.regions) h fun _ _ _ _ _ => rfl] at hfree
    rw [← eq_of_taken (F := State.freeBlocks) h fun _ _ _ _ _ => rfl] at hpool
    rw [← regionCreated_taken h]
    exact runCmd_admin_waits h (listed_of_argsOnly hargs)
      (cmdHbmRegionCreate_free hname hargs hsome hmax hactive hfree hregions hblocks hpool)
  case release =>
    intro s d g x h hready hg hargs hx hactive hunused
    subst hg
    rw [← eq_of_taken (F := State.regions) h fun _ _ _ _ _ => rfl] at hx
    rw [← regionReleased_taken h]
    exact runCmd_admin_waits h (listed_of_argsOnly hargs) (cmdHbmRegionRelease_unused hready hargs hx hactive hunused)
  case start =>
    intro s d n link base len a b h hname hn hlinkIs hbaseIs hlenIs haIs hbIs hsome hlink hargs hbase hpages hlen hmost ha hb hapart hstays hnone
    have hrange : LogRange link base len a b := ⟨hlink, hbase, hpages, hlen, hmost, ha, hb, hapart⟩
    rw [hlinkIs, hbaseIs, hlenIs, haIs, hbIs] at hrange
    rw [hlinkIs, hn] at hnone
    rw [hn] at hname hsome hstays
    rw [hn, hlinkIs, hbaseIs, hlenIs, haIs, hbIs]
    exact runCmd_admin_completes h (listed_of_argsOnly hargs) (cmdInsLogStart_free hname hsome hargs hrange hstays hnone)
  case sync =>
    intro s d n link g h hname hn hlinkIs hsome hlink hargs hg hidle
    subst hn hlinkIs
    exact ⟨runCmd_admin_waits h (listed_of_argsOnly hargs) (cmdLogSync_idle false hname hsome hlink hargs hg hidle),
      runCmd_admin_waits h (listed_of_argsOnly hargs) (cmdLogSync_idle true hname hsome hlink hargs hg hidle)⟩

end Sys2Proof.Proofs
end

section
/-! Fault, service and firmware commands (R518, R521, R525-R531, R537), and with them O15. -/

namespace Sys2Proof.Proofs

open Sys2Proof Machine Claims

-- ------------------------------------------------------------------ FLT_LOG (R525, R537)

/-- An administration command that answers with a result and a record writes the record and completes with the result. -/
theorem runCmd_admin_records {s u : State} {d : Cmd} {op st : Nat} {f : Nat → Nat → State → State × Answer} {res : List (Nat × Nat × Nat)}
    {buf : Bytes} (h : turn s .admin) (hd : d.unlisted = none) (hbuf : buf ≠ []) (hf : f 0 s.nextId (taken s .admin) = (u, .done st res buf)) :
    goOnKeep s (runCmd op true .admin d f s) = goOnKeep s
      (completeCmd (hostWrite u 0 (getInst u 0).home d.bufAddr.toNat buf) .admin d.tag (indexOf s .admin) op st buf.length res) := by
  obtain ⟨t, ht, htaken, hid, hr⟩ := taken_parts h
  rw [← hid, htaken] at hf
  rw [runCmd_done ht hd (by simp [hr]) rfl hf, if_neg hbuf]
  rfl

theorem historyBytes_ne_nil {s : State} (h : s.history ≠ []) : historyBytes s ≠ [] := by
  obtain ⟨x, l, hl⟩ := List.exists_cons_of_ne_nil h
  refine List.ne_nil_of_length_pos ?_
  rw [historyBytes, hl, List.flatMap_cons, List.length_append, length_record]
  omega

theorem historyBytes_of_empty {s : State} (h : s.history = []) : historyBytes s = [] := by
  rw [historyBytes, h, List.flatMap_nil]

theorem cmdFltLog_fits {s : State} {d : Cmd} {inst id : Nat} (hready : ready s rdyFlt = true) (hargs : argsOnly d [] = true)
    (hfits : 16 * s.history.length ≤ d.bufLen) :
    cmdFltLog d inst id s = (s, .done stOK [(0, 2, s.history.length), (2, 2, s.histLost)] (historyBytes s)) :=
  orElse_ok (firstFail_cons (by simp [hready]) (firstFail_cons (by simp [hargs, hfits]) rfl))

/-- What FLT_LOG answers is what the state before the command holds: taking a command writes no history. -/
theorem cmdFltLog_taken {s : State} {d : Cmd} {inst id : Nat} (h : turn s .admin) (hready : ready (taken s .admin) rdyFlt = true)
    (hargs : argsOnly d [] = true) (hfits : 16 * s.history.length ≤ d.bufLen) :
    cmdFltLog d inst id (taken s .admin) =
      (taken s .admin, .done stOK [(0, 2, s.history.length), (2, 2, s.histLost)] (historyBytes s)) := by
  have hhistory : (taken s .admin).history = s.history := eq_of_taken (F := State.history) h fun _ _ _ _ _ => rfl
  have hlost : (taken s .admin).histLost = s.histLost := eq_of_taken (F := State.histLost) h fun _ _ _ _ _ => rfl
  have hbytes : historyBytes (taken s .admin) = historyBytes s := eq_of_taken (F := historyBytes) h fun _ _ _ _ _ => rfl
  rw [cmdFltLog_fits hready hargs (hhistory ▸ hfits), hhistory, hlost, hbytes]

-- ------------------------------------------------------------------ FLT_RETIRE and FLT_RETURN (R518, R521)

theorem cmdFltRetire_inUse {s : State} {d : Cmd} {inst id : Nat} (hready : ready s rdyFlt = true) (hargs : argsOnly d [(0, 1), (4, 4)] = true)
    (hchan : chanOk (argChan d) = true) (hinUse : isRetired s (argChan d) = false) :
    cmdFltRetire d inst id s = (retireByHand s (argChan d), .ok) := by
  unfold cmdFltRetire
  exact orElse_ok (firstFail_cons (by simp [hready]) (firstFail_cons (by simp [hargs, hchan]) (firstFail_cons hinUse rfl)))

theorem cmdFltReturn_byHand {s : State} {d : Cmd} {inst id : Nat} (hready : ready s rdyFlt = true) (hargs : argsOnly d [(0, 1), (4, 4)] = true)
    (hkind : (argChan d).kind ≠ 6) (hchan : chanOk (argChan d) = true) (hbyHand : argChan d ∈ s.byHand) :
    cmdFltReturn d inst id s = (returnChannel s (argChan d), .ok) := by
  unfold cmdFltReturn
  refine (orElse_ok (firstFail_cons (by simp [hready]) (firstFail_cons (by simp [hargs, hkind, hchan])
    (firstFail_cons (by simp [hkind, hbyHand]) rfl)))).trans ?_
  rw [if_neg hkind]

theorem cmdFltReturn_pll {s : State} {d : Cmd} {inst id : Nat} (hready : ready s rdyFlt = true) (hargs : argsOnly d [(0, 1), (4, 4)] = true)
    (hkind : (argChan d).kind = 6) (hnum : (argChan d).num < 4) (hswitched : s.pllStandby.getLsbD (argChan d).num = false) :
    cmdFltReturn d inst id s = (returnPll s (argChan d).num, .ok) := by
  unfold cmdFltReturn
  refine (orElse_ok (firstFail_cons (by simp [hready]) (firstFail_cons (by simp [hargs, hkind, hnum])
    (firstFail_cons (by rw [if_pos hkind, hswitched]) rfl)))).trans ?_
  rw [if_pos hkind]

-- ------------------------------------------------------------------ FLT_SHIFT (R527)

/-- The operands of an FLT_SHIFT are in range and its functions READY, and no shift of the column is pending. -/
structure ShiftChecks (s : State) (d : Cmd) : Prop where
  flt : ready s rdyFlt = true
  arr : ready s rdyArr = true
  args : argsOnly d [(0, 2), (4, 4)] = true
  column : argN d 0 2 ≤ 1279
  some : 1 ≤ argN d 4 4
  most : argN d 4 4 ≤ 3600000
  free : columnPending s (argN d 0 2) = false

theorem cmdFltShift_unshifted {s : State} {d : Cmd} {inst id : Nat} (h : ShiftChecks s d) (hunshifted : columnShifted s (argN d 0 2) = false) :
    cmdFltShift d inst id s =
      (startShift s (argN d 0 2) (some id) (some (s.now + argN d 4 4 * msec)), .wait (argN d 0 2)) := by
  obtain ⟨hflt, harr, hargs, hcolumn, hsome, hmost, hfree⟩ := h
  have hbound : argN d 4 4 ≠ 0 := Nat.one_le_iff_ne_zero.mp hsome
  unfold cmdFltShift
  exact orElse_ok (firstFail_cons (by simp [hflt, harr]) (firstFail_cons (by simp [hargs, hcolumn, hbound, hmost])
    (firstFail_cons (by simp [hfree, hunshifted]) rfl)))

theorem cmdFltShift_shifted {s : State} {d : Cmd} {inst id : Nat} (h : ShiftChecks s d) (hshifted : columnShifted s (argN d 0 2) = true) :
    cmdFltShift d inst id s = (s, Answer.fail stStateConflict) := by
  obtain ⟨hflt, harr, hargs, hcolumn, hsome, hmost, -⟩ := h
  have hbound : argN d 4 4 ≠ 0 := Nat.one_le_iff_ne_zero.mp hsome
  unfold cmdFltShift
  exact orElse_fail (by simp [firstFail, hflt, harr, hargs, hcolumn, hbound, hmost, hshifted])

-- ------------------------------------------------------------------ FLT_DIE_RETURN (R528)

theorem cmdFltDieReturn_down {s : State} {d : Cmd} {inst id : Nat} (hready : ready s rdyFlt = true) (hargs : argsOnly d [(0, 1)] = true)
    (hdie : argN d 0 1 ≤ 3) (hdown : s.dieUp.getLsbD (argN d 0 1) = false) (hcool : dieCool s (argN d 0 1) = true) (hnone : s.dieReturn = none) :
    cmdFltDieReturn d inst id s =
      (setPwren { s with dieReturn := some { die := argN d 0 1, cmd := some id } } (argN d 0 1) true, .wait (argN d 0 1)) := by
  unfold cmdFltDieReturn
  exact orElse_ok (firstFail_cons (by simp [hready]) (firstFail_cons (by simp [hargs, hdie]) (firstFail_cons (by rw [hdown, hcool, hnone]; rfl) rfl)))

-- ------------------------------------------------------------------ firmware commands, which the recovery loader takes too (R530, R531)

theorem firmware_taken_parts {s : State} (h : engineTurn s .admin = true) :
    ∃ t, takeCmd s .admin = some (indexOf s .admin, t) ∧ taken s .admin = { t with nextId := t.nextId + 1 } ∧ t.nextId = s.nextId
      ∧ t.mgmt = s.mgmt := by
  obtain ⟨q, t, -, ht⟩ := takeCmd_of_turn h
  have hframe := takeCmd_frame ht
  exact ⟨t, (indexOf_of_takeCmd ht).symm ▸ ht, taken_of_takeCmd ht, (congrArg State.nextId hframe :), (congrArg State.mgmt hframe :)⟩

theorem taken_mgmt {s : State} (h : engineTurn s .admin = true) : (taken s .admin).mgmt = s.mgmt := by
  obtain ⟨t, -, htaken, -, hmgmt⟩ := firmware_taken_parts h
  rw [htaken]
  exact hmgmt

/-- FW_WRITE and FW_ACTIVATE on the administration ring are not refused under the recovery loader. -/
theorem loader_takes {op : Nat} (hop : op = 0x75 ∨ op = 0x76) (recovery : Bool) :
    (recovery && !(CmdRing.admin = .admin && (op = 0x75 || op = 0x76))) = false := by
  obtain rfl | rfl := hop <;> simp

theorem runCmd_firmware_completes {s u : State} {d : Cmd} {op st : Nat} {f : Nat → Nat → State → State × Answer} {res : List (Nat × Nat × Nat)}
    (hop : op = 0x75 ∨ op = 0x76) (h : engineTurn s .admin = true) (hd : d.unlisted = none)
    (hf : f 0 s.nextId (taken s .admin) = (u, .done st res [])) :
    goOnKeep s (runCmd op true .admin d f s) = completes s u .admin d op st res := by
  obtain ⟨t, ht, htaken, hid, -⟩ := firmware_taken_parts h
  rw [← hid, htaken] at hf
  rw [completes, runCmd_done ht hd (loader_takes hop _) rfl hf]
  rfl

theorem runCmd_firmware_waits {s u : State} {d : Cmd} {op arg : Nat} {f : Nat → Nat → State → State × Answer} (hop : op = 0x75 ∨ op = 0x76)
    (h : engineTurn s .admin = true) (hd : d.unlisted = none) (hf : f 0 s.nextId (taken s .admin) = (u, .wait arg)) :
    goOnKeep s (runCmd op true .admin d f s) = waits s u .admin d op arg := by
  obtain ⟨t, ht, htaken, hid, -⟩ := firmware_taken_parts h
  rw [← hid, htaken] at hf
  rw [waits, runCmd_wait ht hd (loader_takes hop _) rfl hf, hid]

theorem cmdFwWrite_signed {s : State} {d : Cmd} {inst id : Nat} (hargs : argsOnly d [] = true) (hidle : s.mgmt.writing = none)
    (hsigned : Config.firmwareSignatureOk d.buf = true) :
    cmdFwWrite d inst id s = ({ s with mgmt := { s.mgmt with writing := some (d.buf, id) } }, .wait 0) :=
  orElse_ok (firstFail_cons (by simp [hargs]) (firstFail_cons (by simp [hidle]) (firstFail_cons (by simp [hsigned]) rfl)))

theorem cmdFwWrite_unsigned {s : State} {d : Cmd} {inst id : Nat} (hargs : argsOnly d [] = true) (hidle : s.mgmt.writing = none)
    (hunsigned : Config.firmwareSignatureOk d.buf = false) : cmdFwWrite d inst id s = (s, Answer.fail stIntegrity) :=
  orElse_fail (by simp [firstFail, hargs, hidle, hunsigned])

theorem cmdFwActivate_idle {s : State} {d : Cmd} {inst id : Nat} (hargs : argsOnly d [] = true) (hidle : s.mgmt.writing = none)
    (hnone : s.mgmt.activate = none) :
    cmdFwActivate d inst id s = ({ beginRestart s with mgmt := { (beginRestart s).mgmt with activate := some id } }, .wait 0) :=
  orElse_ok (firstFail_cons (by simp [hargs]) (firstFail_cons (by simp [hidle, hnone]) rfl))

/-- Settles O15, clause by clause from what the rule of each command gives once it is admitted. -/
theorem faultCommandsComplete : Obligations.FaultCommandsComplete := by
  unfold Obligations.FaultCommandsComplete
  refine ⟨?log, ?logEmpty, ?retire, ?byHand, ?pll, ?shift, ?dieReturn, ?write, ?activate⟩
  case log =>
    intro s d h hready hargs hfits hsome
    exact runCmd_admin_records h (listed_of_argsOnly hargs) (historyBytes_ne_nil hsome) (cmdFltLog_taken h hready hargs hfits)
  case logEmpty =>
    intro s d h hready hargs hnone
    have hlog := cmdFltLog_taken (inst := 0) (id := s.nextId) h hready hargs (by simp [hnone])
    rw [historyBytes_of_empty hnone, hnone] at hlog
    exact runCmd_admin_completes h (listed_of_argsOnly hargs) hlog
  case retire =>
    intro s d h hready hargs hchan hinUse
    have hinUse' : isRetired (taken s .admin) (argChan d) = false :=
      (eq_of_taken (F := fun u => isRetired u (argChan d)) h fun _ _ _ _ _ => rfl).trans hinUse
    exact runCmd_admin_completes h (listed_of_argsOnly hargs) (cmdFltRetire_inUse hready hargs hchan hinUse')
  case byHand =>
    intro s d h hready hargs hkind hchan hbyHand
    rw [← eq_of_taken (F := State.byHand) h fun _ _ _ _ _ => rfl] at hbyHand
    exact runCmd_admin_completes h (listed_of_argsOnly hargs) (cmdFltReturn_byHand hready hargs hkind hchan hbyHand)
  case pll =>
    intro s d h hready hargs hkind hnum hswitched
    rw [← eq_of_taken (F := State.pllStandby) h fun _ _ _ _ _ => rfl] at hswitched
    exact runCmd_admin_completes h (listed_of_argsOnly hargs) (cmdFltReturn_pll hready hargs hkind hnum hswitched)
  case shift =>
    intro s d c h hflt harr hargs hc hcolumn hsome hmost hfree
    subst hc
    have hpending := eq_of_taken (F := fun u => columnPending u (argN d 0 2)) h fun _ _ _ _ _ => rfl
    have hshifts := eq_of_taken (F := fun u => columnShifted u (argN d 0 2)) h fun _ _ _ _ _ => rfl
    have hchecks : ShiftChecks (taken s .admin) d := ⟨hflt, harr, hargs, hcolumn, hsome, hmost, hpending.trans hfree⟩
    split
    next hshifted =>
      exact runCmd_admin_completes h (listed_of_argsOnly hargs) (cmdFltShift_shifted hchecks (hshifts.trans hshifted))
    next hunshifted =>
      rw [← taken_now h]
      exact runCmd_admin_waits h (listed_of_argsOnly hargs)
        (cmdFltShift_unshifted hchecks (hshifts.trans (Bool.eq_false_iff.mpr hunshifted)))
  case dieReturn =>
    intro s d k h hready hargs hk hdie hdown hcool hnone
    subst hk
    rw [← eq_of_taken (F := State.dieUp) h fun _ _ _ _ _ => rfl] at hdown
    rw [← eq_of_taken (F := State.dieReturn) h fun _ _ _ _ _ => rfl] at hnone
    exact runCmd_admin_waits h (listed_of_argsOnly hargs) (cmdFltDieReturn_down hready hargs hdie hdown hcool hnone)
  case write =>
    intro s d h hargs hidle
    rw [← taken_mgmt h] at hidle ⊢
    split
    next hsigned => exact runCmd_firmware_waits (.inl rfl) h (listed_of_argsOnly hargs) (cmdFwWrite_signed hargs hidle hsigned)
    next hunsigned =>
      exact runCmd_firmware_completes (.inl rfl) h (listed_of_argsOnly hargs)
        (cmdFwWrite_unsigned hargs hidle (Bool.eq_false_iff.mpr hunsigned))
  case activate =>
    intro s d h hargs hidle hnone
    rw [← taken_mgmt h] at hidle hnone
    exact runCmd_firmware_waits (.inr rfl) h (listed_of_argsOnly hargs) (cmdFwActivate_idle hargs hidle hnone)

end Sys2Proof.Proofs
end
